-- ==== Sys2Proof/Word.lean ====
section
/-! DEFINITION. The names of the part's things (ports, groups, engines, pairs, rates) and the byte the two
serial ways in are made of. Sets that the spec codes as one bit per member (R169) are bit vectors of that many
bits; everything else is a name or a number. -/

namespace Sys2Proof

/-- A byte of the Management Port or of a group link frame. -/
abbrev Byte := BitVec 8

/-- A copper port, 0 to 47 (00_scope.md, section 3). -/
abbrev Port := Fin 48

/-- A group link, G0 to G5 (00_scope.md, section 3). -/
abbrev Group := Fin 6

/-- An Echo Probe Engine, E0 to E3 (00_scope.md, section 3). -/
abbrev EngineId := Fin 4

/-- A Known-Discontinuity Template, 0 to 7 (R121). -/
abbrev TemplateId := Fin 8

/-- A port's index within its group, 0 to 7 (02_line_signal_link.md, 2.1). -/
abbrev GroupIndex := Fin 8

/-- The four pairs of a port (00_scope.md, section 3). -/
inductive Pair where
  | a | b | c | d
  deriving DecidableEq, Repr

/-- Single-pair code of R169: A 0, B 1, C 2, D 3. -/
def Pair.index : Pair → Nat
  | .a => 0
  | .b => 1
  | .c => 2
  | .d => 3

/-- The pairs in the order A, B, C, D. -/
def Pair.all : List Pair := [.a, .b, .c, .d]

/-- One value for each of the four pairs. -/
structure PerPair (α : Type) where
  a : α
  b : α
  c : α
  d : α
  deriving DecidableEq, Repr

namespace PerPair

variable {α β : Type}

/-- The value of pair `q`. -/
def get (v : PerPair α) : Pair → α
  | .a => v.a
  | .b => v.b
  | .c => v.c
  | .d => v.d

/-- `v` with pair `q` at `x`. -/
def set (v : PerPair α) (q : Pair) (x : α) : PerPair α :=
  match q with
  | .a => { v with a := x }
  | .b => { v with b := x }
  | .c => { v with c := x }
  | .d => { v with d := x }

/-- The same value on all four pairs. -/
def const (x : α) : PerPair α := ⟨x, x, x, x⟩

/-- A value computed for each pair. -/
def build (f : Pair → α) : PerPair α := ⟨f .a, f .b, f .c, f .d⟩

/-- The four values in pair order. -/
def toList (v : PerPair α) : List α := [v.a, v.b, v.c, v.d]

end PerPair

/-- The four rates, lowest first (00_scope.md, 5.1). -/
inductive Rate where
  | t10 | t100 | t1000 | t2500
  deriving DecidableEq, Repr

/-- Single-rate code of R169: T10 0, T100 1, T1000 2, T2500 3. -/
def Rate.index : Rate → Nat
  | .t10 => 0
  | .t100 => 1
  | .t1000 => 2
  | .t2500 => 3

/-- A set of rates, coded as R169 codes it: T10 bit 0, T100 bit 1, T1000 bit 2, T2500 bit 3. -/
abbrev RateSet := BitVec 4

/-- A set of pairs, coded as R169 codes it: A bit 0, B bit 1, C bit 2, D bit 3. -/
abbrev PairSet := BitVec 4

/-- The port number `n` names, if it lies in 0 to 47. -/
def portOf? (n : Nat) : Option Port := if h : n < 48 then some ⟨n, h⟩ else none

/-- All 48 ports in ascending order. -/
def allPorts : List Port := (List.range 48).filterMap portOf?

/-- The six groups in ascending order. -/
def allGroups : List Group := [0, 1, 2, 3, 4, 5]

/-- The four engines in ascending order. -/
def allEngines : List EngineId := [0, 1, 2, 3]

/-- The eight templates in ascending order. -/
def allTemplates : List TemplateId := [0, 1, 2, 3, 4, 5, 6, 7]

/-- The eight indexes of a group's ports in ascending order. -/
def allIndexes : List GroupIndex := [0, 1, 2, 3, 4, 5, 6, 7]

/-- A vector mapped entry by entry, through its list (so that the kernel evaluates it by structural recursion). -/
def mapVector {α β : Type} {n : Nat} (f : α → β) (v : Vector α n) : Vector β n :=
  ⟨⟨v.toList.map f⟩, by simp⟩

end Sys2Proof
end

