-- ==== Sys2Proof/Config.lean ====
section
/-! DEFINITION. The fixed sizes of the part that reset state and State's shape rest on (00_scope.md, section 3).
The spec leaves no result value open, so there is no free value here (notes/assumptions/1.md). -/

namespace Sys2Proof.Config

/-- Entries of the Finding Pool, shared by all ports (R106). -/
def poolSize : Nat := 256

/-- Entries the Probe Request Queue holds at most (R67). -/
def queueSize : Nat := 16

/-- Messages a port's transmit list holds at most (R29). -/
def transmitSize : Nat := 8

/-- Findings of one port at most (R106). -/
def findingsPerPort : Nat := 16

/-- Findings of one pair, and results of one pair in one run, at most (R98, R106). -/
def findingsPerPair : Nat := 4

/-- Candidates of one pair in one run at most (R96). -/
def candidatesPerPair : Nat := 8

/-- Ticks of the model's time unit, the engine sample period of 2 ns (R94), in one microsecond. -/
def ticksPerMicrosecond : Nat := 500

/-- A number of microseconds as ticks. -/
def micros (n : Nat) : Nat := n * ticksPerMicrosecond

/-- A number of milliseconds as ticks. -/
def millis (n : Nat) : Nat := micros (n * 1000)

/-- The idle frame period of a group link, 100 µs (R25). -/
def idlePeriod : Nat := micros 100

end Sys2Proof.Config
end

