-- ==== Sys2Proof/Syntax.lean ====
section
/-! DEFINITION. The commands of the part: one constructor for each row of spec/opcode_table.json, in the table's
order, with the operands the spec's rules give the event. A host command carries the operand bytes the host clocks
in after the opcode byte (R137, R170), so that a frame too short for the command, or longer than it needs, is a
command like any other (R146). -/

namespace Sys2Proof

/-- One echo the Probe Matrix gives at the completion of a sweep (R94). -/
structure Echo where
  /-- Sample index, numbered from the launch. -/
  index : Nat
  /-- Amplitude on the driven pair, signed percent of the launch. -/
  amplitude : Int
  /-- The coupled pair with its coupled amplitude in percent, where the echo carries one. -/
  coupled : Option (Pair × Nat)
  deriving DecidableEq, Repr

/-- The moments of a DATA-READ transaction that change state: its control byte, at which it is judged (R138), the
beginning of a data byte, at which it is fetched, and its eighth bit, at which it is taken (R137). -/
inductive ReadPart where
  | control
  | fetch
  | byte
  deriving DecidableEq, Repr

/-- The two moments of a DATA-WRITE transaction that change state: its control byte, at which it is judged (R138),
and each data byte (R137). -/
inductive WritePart where
  | control
  | byte (value : Byte)
  deriving DecidableEq, Repr

/-- One access of the host (R138): a whole command transaction, given by the bytes after its control byte, or the taking
of one data byte of the data transaction under way. -/
inductive Access where
  | command (bytes : List Byte)
  | readByte
  | writeByte (value : Byte)
  deriving DecidableEq, Repr

/-- The commands of the part. -/
inductive Instr where
  /-- FRAME_RECEIVE (R25): the bytes of one inbound frame, header first, check last. -/
  | frameReceive (g : Group) (bytes : List Byte)
  /-- SILENCE_EXPIRY (R32). -/
  | silenceExpiry (g : Group)
  /-- IDLE_FRAME_SEND (R25). -/
  | idleFrameSend (g : Group)
  /-- TRANSMIT_MESSAGE (R29). -/
  | transmitMessage (g : Group)
  /-- TAKE_POWER (R41). -/
  | takePower (p : Port)
  /-- TAKE_DETACHED (R43). -/
  | takeDetached (p : Port)
  /-- TAKE_ENERGY (R42). -/
  | takeEnergy (p : Port)
  /-- TAKE_LOST (R54). -/
  | takeLost (p : Port)
  /-- TAKE_RESULT_PASS (R52). -/
  | takeResultPass (p : Port)
  /-- TAKE_RESULT_FAIL (R49). -/
  | takeResultFail (p : Port)
  /-- TAKE_PAGE (R48, R53). -/
  | takePage (p : Port)
  /-- LISTEN_EXPIRY (R47). -/
  | listenExpiry (p : Port)
  /-- TRAIN_EXPIRY (R49). -/
  | trainExpiry (p : Port)
  /-- TAKE_WITHDRAW (R58). -/
  | takeWithdraw (p : Port)
  /-- GUARD_FIRING (R128, R129). -/
  | guardFiring (p : Port)
  /-- AUTO_PROBE_REQUEST (R72). -/
  | autoProbeRequest (p : Port)
  /-- POWER_NOTICE (R83). -/
  | powerNotice (p : Port)
  /-- DISPATCH (R75). -/
  | dispatch
  /-- RESUMPTION (R76). -/
  | resumption
  /-- PREEMPTION (R78). -/
  | preemption
  /-- WAIT_EXPIRY (R92). -/
  | waitExpiry (e : EngineId)
  /-- SWEEP_COMPLETION (R94): the sweep's echoes, in ascending order of sample index. -/
  | sweepCompletion (e : EngineId) (echoes : List Echo)
  /-- TAKE_ENDING_COMPLETE (R81). -/
  | takeEndingComplete (e : EngineId)
  /-- TAKE_ENDING_ABORTED (R82). -/
  | takeEndingAborted (e : EngineId)
  /-- TAKE_ENDING_RESET (R23). -/
  | takeEndingReset (e : EngineId)
  /-- BIND_COUNT_END (R152): the access that brings the bind count to zero. -/
  | bindCountEnd (access : Access)
  /-- BIND_EXPIRY (R153). -/
  | bindExpiry
  /-- STATUS_READ (R139): how many bytes the host clocks out after the control byte. -/
  | statusRead (count : Nat)
  /-- DATA_READ (R142). -/
  | dataRead (part : ReadPart)
  /-- DATA_WRITE (R143). -/
  | dataWrite (part : WritePart)
  /-- SET_CURSOR (R140): port, offset. -/
  | setCursor (operands : List Byte)
  /-- SET_WALK (R141): walk byte. -/
  | setWalk (operands : List Byte)
  /-- SET_PAGE (R146): page. -/
  | setPage (operands : List Byte)
  /-- BIND (R151): n. -/
  | bind (operands : List Byte)
  /-- AIM (R154): port, n. -/
  | aim (operands : List Byte)
  /-- READ_ERROR (R166). -/
  | readError (operands : List Byte)
  /-- CLEAR_ERROR (R167). -/
  | clearError (operands : List Byte)
  /-- TAKE_CHANGE (R16). -/
  | takeChange (operands : List Byte)
  /-- SEARCH (R149): kind, value, start port. -/
  | search (operands : List Byte)
  /-- SEARCH_COMPLETE (R149). -/
  | searchComplete
  /-- PARK (R60): port. -/
  | park (operands : List Byte)
  /-- UNPARK (R61): port. -/
  | unpark (operands : List Byte)
  /-- RESTART (R62): port. -/
  | restart (operands : List Byte)
  /-- REARM (R63): port. -/
  | rearm (operands : List Byte)
  /-- PORT_RESET (R150): port. -/
  | portReset (operands : List Byte)
  /-- PROBE (R69): port, pair set, class. -/
  | probe (operands : List Byte)
  /-- CANCEL (R80): port. -/
  | cancel (operands : List Byte)
  /-- RETIRE (R122): port, index. -/
  | retire (operands : List Byte)
  /-- CLEAR_FINDINGS (R123): port. -/
  | clearFindings (operands : List Byte)
  /-- DEVICE_RESET (R159). -/
  | deviceReset (operands : List Byte)
  /-- RESETN_ASSERT (R159). -/
  | resetnAssert
  /-- POWER_UP (R159). -/
  | powerUp
  /-- DEVICE_RESET_COMPLETE (R159). -/
  | deviceResetComplete
  /-- UNDECODED_COMMAND_WRITE (R146): the bytes after the control byte, the opcode byte first where there is one. -/
  | undecodedCommandWrite (bytes : List Byte)
  /-- RESETN_RELEASE (R159). -/
  | resetnRelease
  /-- SCAN_EXAMINE_RECORD (R149). -/
  | scanExamineRecord
  deriving DecidableEq, Repr

end Sys2Proof
end

