-- ==== Sys2Proof/WellFormed.lean ====
section
/-! DEFINITION. The checks on a command that its types do not make: what the Probe Matrix can give (R94) and what
a whole frame is (R172). The checks that also need the state (an echo's index below the latched window, a coupled
pair other than the driven one) stand with the sweep itself, in Machine/Engines.lean. -/

namespace Sys2Proof

/-- An echo's numbers lie in the ranges R94 gives: index below the longest window, amplitude −100 to +100, coupled
amplitude 0 to 100. -/
def Echo.inRange (e : Echo) : Bool :=
  decide (e.index < 2047) && decide (-100 ≤ e.amplitude) && decide (e.amplitude ≤ 100) &&
    match e.coupled with
    | none => true
    | some (_, k) => decide (k ≤ 100)

/-- Echoes come in ascending order of sample index (R94). -/
def echoesAscend : List Echo → Bool
  | [] => true
  | [_] => true
  | e :: f :: rest => decide (e.index ≤ f.index) && echoesAscend (f :: rest)

/-- A frame is whole: a header, a length of 0 to 7, that many payload bytes and a check (R172). A frame whose
length byte is above 7 has no further shape to check. -/
def frameWhole : List Byte → Bool
  | _ :: len :: rest => decide (7 < len.toNat) || decide (rest.length = len.toNat + 1)
  | _ => false

/-- The opcode names no command on at least one page (R146): 00h, 0Ah to 0Eh, 14h and above. -/
def opcodeUndecoded : List Byte → Bool
  | [] => true
  | op :: _ =>
    decide (op.toNat = 0) || (decide (0x0A ≤ op.toNat) && decide (op.toNat ≤ 0x0E)) || decide (0x14 ≤ op.toNat)

/-- A command as the outside can send it. -/
def Instr.wellFormed : Instr → Bool
  | .frameReceive _ bytes => frameWhole bytes
  | .silenceExpiry _ => true
  | .idleFrameSend _ => true
  | .transmitMessage _ => true
  | .takePower _ => true
  | .takeDetached _ => true
  | .takeEnergy _ => true
  | .takeLost _ => true
  | .takeResultPass _ => true
  | .takeResultFail _ => true
  | .takePage _ => true
  | .listenExpiry _ => true
  | .trainExpiry _ => true
  | .takeWithdraw _ => true
  | .guardFiring _ => true
  | .autoProbeRequest _ => true
  | .powerNotice _ => true
  | .dispatch => true
  | .resumption => true
  | .preemption => true
  | .waitExpiry _ => true
  | .sweepCompletion _ echoes => echoes.all Echo.inRange && echoesAscend echoes
  | .takeEndingComplete _ => true
  | .takeEndingAborted _ => true
  | .takeEndingReset _ => true
  | .bindCountEnd _ => true
  | .bindExpiry => true
  | .statusRead _ => true
  | .dataRead _ => true
  | .dataWrite _ => true
  | .setCursor _ => true
  | .setWalk _ => true
  | .setPage _ => true
  | .bind _ => true
  | .aim _ => true
  | .readError _ => true
  | .clearError _ => true
  | .takeChange _ => true
  | .search _ => true
  | .searchComplete => true
  | .park _ => true
  | .unpark _ => true
  | .restart _ => true
  | .rearm _ => true
  | .portReset _ => true
  | .probe _ => true
  | .cancel _ => true
  | .retire _ => true
  | .clearFindings _ => true
  | .deviceReset _ => true
  | .resetnAssert => true
  | .powerUp => true
  | .deviceResetComplete => true
  | .undecodedCommandWrite bytes => opcodeUndecoded bytes
  | .resetnRelease => true
  | .scanExamineRecord => true

end Sys2Proof
end

