-- ==== Sys2Proof/Decode.lean ====
section
/-! DEFINITION. The table's bits. No row of spec/opcode_table.json gives bits ("fields" is empty on every row and
none has "fixed"), so no word spells a command here. The codings the spec itself gives (the SPI bytes of R170, the
frames of R172) are decoded where the part decodes them: Machine/Operands.lean and Machine/Frames.lean. -/

namespace Sys2Proof

/-- The command a word spells by the table's bits: none, since no row gives bits. -/
def decodeTableWord (_nbits _w : Nat) : Option Instr := none

end Sys2Proof
end

