-- ==== Sys2Proof/Machine/State.lean ====
section
/-! DEFINITION. The state of the part, as plain data, and its value right after a device reset. INVENTORY.md lists
every field with the rule that names it. -/

namespace Sys2Proof.Machine

/-- A timer of the part: stopped, or running with the ticks left until its expiry (R38). A running timer with
nothing left has expired, and its expiry waits to be taken. -/
abbrev Timer := Option Nat

/-! ## The Line Record (01_line_records.md) -/

/-- The states of a port's training machine (R2). -/
inductive Mode where
  | parked | dark | listen | train | up | held | lent
  deriving DecidableEq, Repr

/-- The modes a lent port can be returned to (R2). -/
inductive ReturnMode where
  | parked | dark | held
  deriving DecidableEq, Repr

/-- Why a port is HELD (R3). -/
inductive HeldCause where
  | exhausted | open | short | cross | powerFault | downshift
  deriving DecidableEq, Repr

/-- The five guard sources (R127). -/
inductive GuardSource where
  | open | short | cross | powerFault | downshift
  deriving DecidableEq, Repr

/-- The swap a RESULT pass reports (R8). -/
inductive Swap where
  | unknown | straight | crossed
  deriving DecidableEq, Repr

/-- Where a port stands with the Probe Scheduler (R9). -/
inductive ProbeStatus where
  | none | wanted | queued | running | suspended | done | aborted
  deriving DecidableEq, Repr

/-- How a run ends (R9, R88). -/
inductive Ending where
  | complete | cancelled | power | noDetach | reset
  deriving DecidableEq, Repr

/-- The probe outcome: the end cause and the pairs skipped as powered (R9). -/
structure ProbeOutcome where
  cause : Ending
  skipped : PairSet
  deriving DecidableEq, Repr

/-- The judgment of one pair (R10). -/
inductive Verdict where
  | untested | good | marginal | open | short | cross
  deriving DecidableEq, Repr

/-- What gave a verdict (R10). -/
inductive Reason where
  | finding | skew
  deriving DecidableEq, Repr

/-- The kind of a reflection with what belongs to its identity: the coupled pair of a CROSS, the template of an
EXPECTED (R107). -/
inductive Kind where
  | open | short | cross (coupled : Pair) | highZ | lowZ | expected (template : TemplateId)
  deriving DecidableEq, Repr

/-- The standing of a finding (R109). -/
inductive FindingState where
  | fresh | standing | fading
  deriving DecidableEq, Repr

/-- A finding (R107); its identity is `kind`. -/
structure Finding where
  pair : Pair
  kind : Kind
  distance : Nat
  amplitude : Int
  runs : Nat
  state : FindingState
  deriving DecidableEq, Repr

/-- The fifteen record fields the Training Controller writes (R2, R3, R5, R7, R8). -/
structure TcFields where
  mode : Mode
  returnMode : ReturnMode
  heldCause : Option HeldCause
  armed : Bool
  struck : RateSet
  partner : Option RateSet
  resolved : Option Rate
  attempts : Nat
  autoSpent : Bool
  energy : Bool
  powered : PairSet
  powerFault : Bool
  /-- Per pair: absent, or whether the pair is inverted. -/
  polarity : PerPair (Option Bool)
  skew : PerPair (Option Nat)
  swap : Swap
  deriving DecidableEq, Repr

/-- The names of the Training Controller's fields, for its waiting update (R19). -/
inductive TcField where
  | mode | returnMode | heldCause | armed | struck | partner | resolved | attempts | autoSpent
  | energy | powered | powerFault | polarity | skew | swap
  deriving DecidableEq, Repr

/-- The two record fields the Probe Scheduler writes (R9). -/
structure SchedFields where
  status : ProbeStatus
  outcome : Option ProbeOutcome
  deriving DecidableEq, Repr

/-- The names of the Scheduler's fields, for its waiting update (R19). -/
inductive SchedField where
  | status | outcome
  deriving DecidableEq, Repr

/-- A pair's account (R10). -/
structure PairAccount where
  verdict : Verdict
  reason : Option Reason
  faultDistance : Option Nat
  probed : Bool
  more : Bool
  truncated : Bool
  deriving DecidableEq, Repr

/-- A Line Record as the Store has it applied (R1): the fields of its writing blocks, the host's three fields, the
derived fields, the finding list and the generation. The finding count is the length of the list (R108). -/
structure LineRecord where
  tc : TcFields
  sched : SchedFields
  lastSource : Option GuardSource
  offer : RateSet
  rights : BitVec 4
  guardMask : BitVec 5
  effectiveOffer : RateSet
  ceiling : Option Rate
  pairs : PerPair PairAccount
  findings : List Finding
  generation : BitVec 16
  deriving DecidableEq, Repr

/-! ## The Line Signal Link (02_line_signal_link.md) -/

/-- What a RESULT reports (R26). -/
inductive TrainResult where
  | fail
  | pass (inverted : PairSet) (skew : PerPair Nat) (swap : Swap)
  deriving DecidableEq, Repr

/-- The six inbound messages (R26). -/
inductive Inbound where
  | energy (present : Bool)
  | page (rates : RateSet)
  | result (r : TrainResult)
  | lost
  | power (pairs : PairSet) (fault : Bool)
  | detached
  deriving DecidableEq, Repr

/-- The five outbound messages (R28). -/
inductive Outbound where
  | advertise (rates : RateSet)
  | start (rate : Rate)
  | halt
  | detach
  | attach
  deriving DecidableEq, Repr

/-- A port's inbox: one slot for each inbound kind (R27). -/
structure Inbox where
  energy : Option Bool
  page : Option RateSet
  result : Option TrainResult
  lost : Bool
  power : Option (PairSet × Bool)
  detached : Bool
  deriving DecidableEq, Repr

/-- A group link (R24): LINKED or SILENT, its silence timer, its idle frame timer (R25), the index it serves next
(R29) and the frame it last sent. -/
structure GroupLink where
  linked : Bool
  silence : Timer
  idle : Nat
  turn : GroupIndex
  sent : Option (List Byte)
  deriving DecidableEq, Repr

/-! ## One port: its record and what each block keeps of it -/

/-- The Training Controller's working state of a port (R38). -/
structure PortMachine where
  f : TcFields
  listen : Timer
  train : Timer
  deriving DecidableEq, Repr

/-- A firing the Line Guard has been handed: one source, or the verdict edges of one update in pair order (R128,
R129). -/
inductive Firing where
  | source (s : GuardSource)
  | edges (l : List GuardSource)
  deriving DecidableEq, Repr

/-- Everything the part keeps for one port. -/
structure PortState where
  record : LineRecord
  inChangeSet : Bool
  tc : PortMachine
  sched : SchedFields
  lastSource : Option GuardSource
  /-- The fields of the Training Controller's waiting update; none when empty (R19). -/
  tcWaiting : List TcField
  /-- The fields of the Scheduler's waiting update; none when empty (R19). -/
  schedWaiting : List SchedField
  /-- The Line Guard has a waiting update (R134). -/
  guardWaiting : Bool
  /-- The Scheduler's and the Training Controller's waiting updates are one update, with a part of each (R67, R82). -/
  jointWaiting : Bool
  inbox : Inbox
  transmit : List Outbound
  firings : List Firing
  withdraws : List GuardSource
  autoRequests : Nat
  powerNotice : Bool
  deriving DecidableEq, Repr

/-! ## Probe Scheduler and engines (04 and 05) -/

/-- Request classes (R67). -/
inductive ReqClass where
  | urgent | routine
  deriving DecidableEq, Repr

/-- The settings an engine latches for a run (R104). -/
structure ProbeSettings where
  window : Nat
  blanking : Nat
  threshold : Nat
  confirm : Nat
  velocity : Nat
  deriving DecidableEq, Repr

/-- One entry of a pair's result (R98). -/
structure Result where
  kind : Kind
  distance : Nat
  amplitude : Int
  deriving DecidableEq, Repr

/-- A pair a run has finished, with its result and MORE flag (R88, R98). -/
structure PairResult where
  pair : Pair
  results : List Result
  more : Bool
  deriving DecidableEq, Repr

/-- What a suspended entry holds besides the request (R67). -/
structure Suspended where
  completed : List PairResult
  skipped : PairSet
  latched : ProbeSettings
  deriving DecidableEq, Repr

/-- An entry of the Probe Request Queue (R67); suspended exactly when it carries the saved context. -/
structure Entry where
  port : Port
  cls : ReqClass
  pairs : PairSet
  suspended : Option Suspended
  deriving DecidableEq, Repr

/-- A run an engine holds: the Scheduler's and the engine's record of it (R74, R88). -/
structure Run where
  port : Port
  cls : ReqClass
  requested : PairSet
  toSweep : PairSet
  skipped : PairSet
  latched : ProbeSettings
  completed : List PairResult
  deriving DecidableEq, Repr

/-- A candidate of the current pair (R96); its order of making is its place in the table. -/
structure Candidate where
  kind : Kind
  index : Nat
  amplitude : Int
  sightings : Nat
  confirmed : Bool
  deriving DecidableEq, Repr

/-- An engine (R88), with what each of its four states holds. -/
inductive Engine where
  | idle
  | attaching (run : Run) (wait : Nat)
  | sweeping (run : Run) (pair : Pair) (sweep : Nat) (samplesLeft : Nat) (table : List Candidate)
  | closing (run : Run) (ending : Ending)
  deriving DecidableEq, Repr

/-! ## Error Slot (09) and Management Port (08) -/

/-- The causes of R162. -/
inductive Cause where
  | badPort | badArg | badValue | readOnly | unknownCmd | shortFrame | busy | notPermitted | powered
  | probeActive | queueFull | notFound | poolExhausted | bindExpired | noDetach | powerAbort
  deriving DecidableEq, Repr

/-- Whether an error answered a host transaction or arose inside the part (R161). -/
inductive Origin where
  | command | event
  deriving DecidableEq, Repr

/-- The first error held; its retry indication is fixed by the cause (R161, R162). -/
structure FirstError where
  cause : Cause
  origin : Origin
  port : Option Port
  deriving DecidableEq, Repr

/-- The second error held (R161). -/
structure SecondError where
  cause : Cause
  origin : Origin
  deriving DecidableEq, Repr

/-- The Error Slot (R161); DOUBLE is yes exactly while a second error is held. -/
structure ErrorSlot where
  first : Option FirstError
  second : Option SecondError
  jammed : Bool
  deriving DecidableEq, Repr

/-- The cursor: a port 0 to 50 and an offset in that port's range (R140). -/
structure Cursor where
  port : Nat
  offset : Nat
  deriving DecidableEq, Repr

/-- The walk mode: PORT or FIELD steps, down or up (R141). -/
structure Walk where
  byPort : Bool
  down : Bool
  deriving DecidableEq, Repr

/-- An open bind: the accesses left and its expiry timer (R151). -/
structure Bind where
  left : Nat
  timer : Nat
  deriving DecidableEq, Repr

/-- The SEARCH kinds (R149). -/
inductive SearchKind where
  | mode | verdict | probeStatus | heldCause | findingCount
  deriving DecidableEq, Repr

/-- The lengthy operation in progress (R148). -/
inductive Operation where
  /-- A SEARCH: the next port to examine (48 once port 47 has been passed) and the match found (R149). -/
  | search (kind : SearchKind) (value : Nat) (next : Nat) (found : Option (Port × BitVec 16))
  /-- A PORT-RESET waiting for the ending of the port's run; `suspended` when the run was SUSPENDED, so that no
  engine holds its ending (R85, R150). -/
  | portReset (p : Port) (suspended : Bool)
  /-- A device reset (R159). -/
  | deviceReset
  deriving DecidableEq, Repr

/-- How a data transaction was judged at its control byte (R138, R159): taken, refused with BUSY, or discarded
(JAMMED), or refused or cut short by a device reset. -/
inductive Judgment where
  | taken | busy | jammed | inReset
  deriving DecidableEq, Repr

/-- The data transaction under way: its direction, its judgment, whether it has raised its one error (R143), and, while
a byte of a DATA-READ has begun and is not yet taken, the byte fetched with the read hold its taking leaves (R137, R145). -/
structure Transfer where
  write : Bool
  judgment : Judgment
  raised : Bool
  fetched : Option (Byte × Byte)
  deriving DecidableEq, Repr

/-- The serial pins and the transaction the host is clocking in (R137). -/
structure Serial where
  /-- CSn is low: a transaction is under way. -/
  selected : Bool
  /-- SCK is high. It rests low while CSn is high. -/
  sck : Bool
  /-- The whole bytes sampled on SDI since CSn fell, the control byte first. -/
  bytes : List Byte
  /-- The bits sampled of the byte under way, first bit first: fewer than eight. -/
  bits : List Bool
  /-- The status image a STATUS-READ took with its control byte (R139). -/
  image : List Byte
  /-- The bits SDO has changed to in the data bytes of the latest transaction, first bit first. SDO holds the last of them
  until it changes to the next. -/
  out : List Bool
  /-- A device reset has ended the transaction (R159). -/
  ended : Bool
  deriving DecidableEq, Repr

/-- The Operating Settings the host writes (R157); the alert mask always holds ERR, so CHG and LOW are kept. -/
structure Settings where
  probe : ProbeSettings
  tolerance : Nat
  marginal : Nat
  skewLimit : Nat
  tries : Nat
  listen : Nat
  lowWater : Nat
  alertChg : Bool
  alertLow : Bool
  deriving DecidableEq, Repr

/-- A Known-Discontinuity Template (R121). -/
structure Template where
  valid : Bool
  pairs : PairSet
  firstPort : Nat
  lastPort : Nat
  low : Nat
  high : Nat
  deriving DecidableEq, Repr

/-! ## The whole part -/

/-- The state of the part. -/
structure State where
  ports : Vector PortState 48
  groups : Vector GroupLink 6
  queue : List Entry
  engines : Vector Engine 4
  /-- The engines that hold a run, the run dispatched or resumed latest first (R74). -/
  order : List EngineId
  errors : ErrorSlot
  cursor : Cursor
  walk : Walk
  /-- The command page: false is page 0, true is page 1 (R146). -/
  page : Bool
  bind : Option Bind
  /-- The cursor saved by an aim, while its restore is pending (R154). -/
  saved : Option Cursor
  reply : Vector Byte 8
  busy : Option Operation
  writeHold : Byte
  readHold : Byte
  transfer : Option Transfer
  /-- The bytes shifted out on SDO by the latest reading transaction. -/
  sdo : List Byte
  serial : Serial
  settings : Settings
  templates : Vector Template 8
  /-- RESETn is high. -/
  resetN : Bool
  /-- The commands waiting, first in, first out. -/
  pending : List Instr
  deriving DecidableEq, Repr

/-- No command of this part ends in a fault: the spec gives every event an effect, and an event whose conditions do
not hold does not happen (notes/assumptions/2.md). -/
inductive Fault where
  deriving DecidableEq, Repr

/-- Why the model has no meaning for a command. -/
inductive Refusal where
  /-- Raised by an arm of exec that has no meaning yet. Safe: nothing is claimed of such a command. -/
  | notModelled (mnemonic : String)
  deriving DecidableEq, Repr

/-! ## Reset values -/

/-- The Training Controller's fields after a device reset (R22, R65). -/
def TcFields.reset : TcFields where
  mode := .parked
  returnMode := .dark
  heldCause := none
  armed := true
  struck := 0
  partner := none
  resolved := none
  attempts := 0
  autoSpent := false
  energy := false
  powered := 0
  powerFault := false
  polarity := .const none
  skew := .const none
  swap := .unknown

/-- The Scheduler's fields after a device reset (R86). -/
def SchedFields.reset : SchedFields := { status := .none, outcome := none }

/-- A pair's account after a reset (R10). -/
def PairAccount.reset : PairAccount where
  verdict := .untested
  reason := none
  faultDistance := none
  probed := false
  more := false
  truncated := false

/-- A Line Record after a device reset (R22): rights PROBE-IDLE, AUTO, SHIFT; guard mask SHORT, POWER-FAULT. -/
def LineRecord.reset : LineRecord where
  tc := .reset
  sched := .reset
  lastSource := none
  offer := 0xF#4
  rights := 0xD#4
  guardMask := 0xA#5
  effectiveOffer := 0xF#4
  ceiling := some .t2500
  pairs := .const .reset
  findings := []
  generation := 0

/-- An empty inbox (R27). -/
def Inbox.empty : Inbox where
  energy := none
  page := none
  result := none
  lost := false
  power := none
  detached := false

/-- A port machine after a device reset (R65). -/
def PortMachine.reset : PortMachine := { f := .reset, listen := none, train := none }

/-- A port after a device reset (R22, R35, R65, R86, R136). -/
def PortState.reset : PortState where
  record := .reset
  inChangeSet := false
  tc := .reset
  sched := .reset
  lastSource := none
  tcWaiting := []
  schedWaiting := []
  guardWaiting := false
  jointWaiting := false
  inbox := .empty
  transmit := []
  firings := []
  withdraws := []
  autoRequests := 0
  powerNotice := false

/-- A group link after a device reset (R35). DESIGN CHOICE (notes/assumptions/17.md, 18.md): index 0 is served first,
and the idle frame timer starts with its whole period. -/
def GroupLink.reset : GroupLink where
  linked := false
  silence := none
  idle := Config.idlePeriod
  turn := 0
  sent := none

/-- The empty Error Slot (R161). -/
def ErrorSlot.empty : ErrorSlot := { first := none, second := none, jammed := false }

/-- The default Operating Settings (R157). -/
def Settings.default : Settings where
  probe := { window := 1024, blanking := 8, threshold := 10, confirm := 3, velocity := 68 }
  tolerance := 5
  marginal := 25
  skewLimit := 40
  tries := 3
  listen := 1500
  lowWater := 32
  alertChg := true
  alertLow := false

/-- A template after a device reset (R121). -/
def Template.reset : Template where
  valid := false
  pairs := 0
  firstPort := 0
  lastPort := 0
  low := 0
  high := 0

/-- The reply area after a device reset: eight bytes 00h (R147). -/
def emptyReply : Vector Byte 8 := #v[0, 0, 0, 0, 0, 0, 0, 0]

/-- The pins with CSn high, SCK at its rest level, and nothing clocked yet (R137). -/
def Serial.idle : Serial where
  selected := false
  sck := false
  bytes := []
  bits := []
  image := []
  out := []
  ended := false

/-- The part right after a device reset has completed (R159, R160, and the chapters R159 names), with RESETn and CSn high
(DESIGN CHOICE, notes/assumptions/23.md) and no command waiting. -/
def State.reset : State where
  ports := .replicate 48 .reset
  groups := .replicate 6 .reset
  queue := []
  engines := .replicate 4 .idle
  order := []
  errors := .empty
  cursor := { port := 0, offset := 0 }
  walk := { byPort := false, down := false }
  page := false
  bind := none
  saved := none
  reply := emptyReply
  busy := none
  writeHold := 0
  readHold := 0
  transfer := none
  sdo := []
  serial := .idle
  settings := .default
  templates := .replicate 8 .reset
  resetN := true
  pending := []

end Sys2Proof.Machine
end

