-- ==== Sys2Proof/Machine/Codes.lean ====
section
/-! DEFINITION. The value codes of R169, and the small set operations on sets coded one bit per member. -/

namespace Sys2Proof.Machine

/-- A number as a byte. -/
def byte (n : Nat) : Byte := BitVec.ofNat 8 n

/-- The low byte of a two-byte field (00_scope.md, 5.2: low byte first). -/
def lowByte (n : Nat) : Byte := byte (n % 256)

/-- The high byte of a two-byte field. -/
def highByte (n : Nat) : Byte := byte (n / 256)

/-- A Bool as the bit of weight `w`. -/
def flag (b : Bool) (w : Nat) : Nat := if b then w else 0

/-- The code that stands for none or absent where a single member is coded (R169). -/
def noneByte : Byte := 0xFF#8

/-- The pair is in the set. -/
def pairIn (q : Pair) (s : PairSet) : Bool := s.getLsbD q.index

/-- The set of one pair. -/
def pairBit (q : Pair) : PairSet := BitVec.ofNat 4 (2 ^ q.index)

/-- The rate is in the set. -/
def rateIn (r : Rate) (s : RateSet) : Bool := s.getLsbD r.index

/-- The set of one rate. -/
def rateBit (r : Rate) : RateSet := BitVec.ofNat 4 (2 ^ r.index)

/-- Right PROBE-IDLE, bit 0. -/
def mayProbeIdle (r : BitVec 4) : Bool := r.getLsbD 0

/-- Right PROBE-LIVE, bit 1. -/
def mayProbeLive (r : BitVec 4) : Bool := r.getLsbD 1

/-- Right AUTO, bit 2. -/
def mayAuto (r : BitVec 4) : Bool := r.getLsbD 2

/-- Right SHIFT, bit 3. -/
def mayShift (r : BitVec 4) : Bool := r.getLsbD 3

/-- Guard bits: OPEN 0, SHORT 1, CROSS 2, POWER-FAULT 3, DOWNSHIFT 4. -/
def GuardSource.bit : GuardSource → Nat
  | .open => 0
  | .short => 1
  | .cross => 2
  | .powerFault => 3
  | .downshift => 4

/-- The source is in the guard mask. -/
def sourceIn (src : GuardSource) (mask : BitVec 5) : Bool := mask.getLsbD src.bit

/-- The held cause a guard source gives (R58). -/
def GuardSource.heldCause : GuardSource → HeldCause
  | .open => .open
  | .short => .short
  | .cross => .cross
  | .powerFault => .powerFault
  | .downshift => .downshift

/-- Mode codes. -/
def Mode.code : Mode → Nat
  | .parked => 0
  | .dark => 1
  | .listen => 2
  | .train => 3
  | .up => 4
  | .held => 5
  | .lent => 6

/-- The mode a return mode is (R2). -/
def ReturnMode.mode : ReturnMode → Mode
  | .parked => .parked
  | .dark => .dark
  | .held => .held

/-- Held cause codes; none is 0. -/
def heldCauseCode : Option HeldCause → Nat
  | none => 0
  | some .exhausted => 1
  | some .open => 2
  | some .short => 3
  | some .cross => 4
  | some .powerFault => 5
  | some .downshift => 6

/-- Last guard source codes; none is 0. -/
def sourceCode : Option GuardSource → Nat
  | none => 0
  | some src => heldCauseCode (some src.heldCause)

/-- Single-rate codes; none is 0FFh. -/
def rateByte : Option Rate → Byte
  | none => noneByte
  | some r => byte r.index

/-- Verdict codes. -/
def Verdict.code : Verdict → Nat
  | .untested => 0
  | .good => 1
  | .marginal => 2
  | .open => 3
  | .short => 4
  | .cross => 5

/-- Verdict reason codes; none is 0. -/
def reasonCode : Option Reason → Nat
  | none => 0
  | some .finding => 1
  | some .skew => 2

/-- Finding kind codes. -/
def Kind.code : Kind → Nat
  | .open => 1
  | .short => 2
  | .cross _ => 3
  | .highZ => 4
  | .lowZ => 5
  | .expected _ => 6

/-- The coupled pair of a CROSS or the template of an EXPECTED; 0 otherwise. -/
def Kind.detail : Kind → Nat
  | .cross q => q.index
  | .expected t => t.val
  | _ => 0

/-- Finding state codes. -/
def FindingState.code : FindingState → Nat
  | .fresh => 1
  | .standing => 2
  | .fading => 3

/-- Probe status codes. -/
def ProbeStatus.code : ProbeStatus → Nat
  | .none => 0
  | .wanted => 1
  | .queued => 2
  | .running => 3
  | .suspended => 4
  | .done => 5
  | .aborted => 6

/-- Probe outcome cause codes. -/
def Ending.code : Ending → Nat
  | .complete => 1
  | .cancelled => 2
  | .power => 3
  | .noDetach => 4
  | .reset => 5

/-- Swap codes. -/
def Swap.code : Swap → Nat
  | .unknown => 0
  | .straight => 1
  | .crossed => 2

/-- The swap a code names (R26). -/
def swapOf? : Nat → Option Swap
  | 0 => some .unknown
  | 1 => some .straight
  | 2 => some .crossed
  | _ => none

/-- Request class codes. -/
def ReqClass.code : ReqClass → Nat
  | .urgent => 1
  | .routine => 2

/-- The class a code names. -/
def classOf? : Nat → Option ReqClass
  | 1 => some .urgent
  | 2 => some .routine
  | _ => none

/-- SEARCH kind codes. -/
def searchKindOf? : Nat → Option SearchKind
  | 1 => some .mode
  | 2 => some .verdict
  | 3 => some .probeStatus
  | 4 => some .heldCause
  | 5 => some .findingCount
  | _ => none

/-- Error cause codes. -/
def Cause.code : Cause → Nat
  | .badPort => 1
  | .badArg => 2
  | .badValue => 3
  | .readOnly => 4
  | .unknownCmd => 5
  | .shortFrame => 6
  | .busy => 7
  | .notPermitted => 8
  | .powered => 9
  | .probeActive => 0x0A
  | .queueFull => 0x0B
  | .notFound => 0x0C
  | .poolExhausted => 0x0D
  | .bindExpired => 0x0E
  | .noDetach => 0x0F
  | .powerAbort => 0x10

/-- The retry indication each cause fixes (R162). -/
def Cause.retry : Cause → Bool
  | .busy => true
  | .probeActive => true
  | .queueFull => true
  | .noDetach => true
  | .powerAbort => true
  | _ => false

/-- The outbound kinds' codes and payloads (R172). -/
def Outbound.code : Outbound → Nat
  | .advertise _ => 8
  | .start _ => 9
  | .halt => 0x0A
  | .detach => 0x0B
  | .attach => 0x0C

/-- The payload bytes of an outbound message (R172). -/
def Outbound.payload : Outbound → List Byte
  | .advertise rates => [byte rates.toNat]
  | .start rate => [byte rate.index]
  | .halt => []
  | .detach => []
  | .attach => []

end Sys2Proof.Machine
end

