-- ==== Sys2Proof/Machine/Flags.lean ====
section
/-! DEFINITION. Everything the part derives: the sets of rates training works from (R11, R12), pair verdicts
(R118), the pool's free count (R106), the status byte (R155) and ALERTn (R156). -/

namespace Sys2Proof.Machine

/-! ## Rates -/

/-- The rates a ceiling permits (R11). -/
def ratesUpTo : Option Rate → RateSet
  | none => 0x0#4
  | some .t10 => 0x1#4
  | some .t100 => 0x3#4
  | some .t1000 => 0x7#4
  | some .t2500 => 0xF#4

/-- The offer minus the struck set minus the rates above the ceiling (R12). -/
def offeredRates (offer struck : RateSet) (ceiling : Option Rate) : RateSet :=
  offer &&& ~~~struck &&& ratesUpTo ceiling

/-- The highest rate of a set (R48). -/
def highestRate (s : RateSet) : Option Rate :=
  if rateIn .t2500 s then some .t2500
  else if rateIn .t1000 s then some .t1000
  else if rateIn .t100 s then some .t100
  else if rateIn .t10 s then some .t10
  else none

/-- The pairs trained at a rate: A and B at T10 and T100, all four at T1000 and T2500 (R8). -/
def trainedAt (rate : Rate) (q : Pair) : Bool :=
  match rate, q with
  | .t1000, _ => true
  | .t2500, _ => true
  | _, .a => true
  | _, .b => true
  | _, _ => false

/-- The train window at a rate, in ticks (R49). -/
def trainWindow : Rate → Nat
  | .t10 => Config.millis 100
  | .t100 => Config.millis 100
  | .t1000 => Config.millis 750
  | .t2500 => Config.millis 1500

/-! ## Verdicts -/

/-- The verdict a finding of a fault kind gives (R118). -/
def Kind.faultVerdict : Kind → Option Verdict
  | .open => some .open
  | .short => some .short
  | .cross _ => some .cross
  | _ => none

/-- A HIGH-Z or LOW-Z finding at or above the marginal setting (R118). -/
def Finding.isMarginal (marginal : Nat) (f : Finding) : Bool :=
  match f.kind with
  | .highZ => decide (marginal ≤ f.amplitude.natAbs)
  | .lowZ => decide (marginal ≤ f.amplitude.natAbs)
  | _ => false

/-- The finding counts toward the verdict of pair `q`: FRESH or STANDING (R109). -/
def Finding.countsFor (q : Pair) (f : Finding) : Bool := decide (f.pair = q) && decide (f.state ≠ .fading)

/-- The pair's skew is present and above the limit (R118). -/
def skewExceeds (limit : Nat) : Option Nat → Bool
  | none => false
  | some k => decide (limit < k)

/-- A pair's account with its verdict, reason and fault distance derived, by the first line of R118's table that
holds. -/
def deriveAccount (set : Settings) (findings : List Finding) (skew : Option Nat) (q : Pair) (acc : PairAccount) :
    PairAccount :=
  let counting := findings.filter (Finding.countsFor q)
  match counting.find? (fun f => f.kind.faultVerdict.isSome) with
  | some f =>
    { acc with
      verdict := f.kind.faultVerdict.getD .open, reason := some .finding, faultDistance := some f.distance }
  | none =>
    match counting.find? (Finding.isMarginal set.marginal) with
    | some f => { acc with verdict := .marginal, reason := some .finding, faultDistance := some f.distance }
    | none =>
      if skewExceeds set.skewLimit skew then
        { acc with verdict := .marginal, reason := some .skew, faultDistance := none }
      else if acc.probed then { acc with verdict := .good, reason := none, faultDistance := none }
      else { acc with verdict := .untested, reason := none, faultDistance := none }

/-- GOOD, counting UNTESTED as GOOD (R11). -/
def Verdict.isGood : Verdict → Bool
  | .good => true
  | .untested => true
  | _ => false

/-- GOOD, UNTESTED or MARGINAL (R11). -/
def Verdict.isUsable : Verdict → Bool
  | .marginal => true
  | v => v.isGood

/-- The ceiling the four verdicts give (R11). -/
def ceilingOf (v : PerPair Verdict) : Option Rate :=
  if v.a.isGood && v.b.isGood && v.c.isGood && v.d.isGood then some .t2500
  else if v.a.isUsable && v.b.isUsable && v.c.isUsable && v.d.isUsable then some .t1000
  else if v.a.isUsable && v.b.isUsable then some .t100
  else none

/-- The verdicts of the four pairs of a record. -/
def LineRecord.verdicts (r : LineRecord) : PerPair Verdict := .build fun q => (r.pairs.get q).verdict

/-- The record with all four verdicts and then the ceiling derived (R119). -/
def LineRecord.rederive (set : Settings) (r : LineRecord) : LineRecord :=
  let r' := { r with pairs := .build fun q => deriveAccount set r.findings (r.tc.skew.get q) q (r.pairs.get q) }
  { r' with ceiling := ceilingOf r'.verdicts }

/-- The record with the effective offer recomputed (R12). -/
def LineRecord.withEffectiveOffer (r : LineRecord) : LineRecord :=
  { r with effectiveOffer := offeredRates r.offer r.tc.struck r.ceiling }

/-- The guard source a verdict fires (R120). -/
def Verdict.source? : Verdict → Option GuardSource
  | .open => some .open
  | .short => some .short
  | .cross => some .cross
  | _ => none

/-- The verdict edge of one pair between two records: its verdict is OPEN, SHORT or CROSS and was another before
(R120). -/
def edgeAt (before after : PerPair Verdict) (q : Pair) : Option GuardSource :=
  if after.get q = before.get q then none else (after.get q).source?

/-- The verdict edges of an update, in pair order (R120). -/
def verdictEdges (before after : LineRecord) : List GuardSource :=
  Pair.all.filterMap (edgeAt before.verdicts after.verdicts)

/-! ## The pool, the status byte and ALERTn -/

/-- Finding Pool entries in use: the sum of all ports' finding counts (R106). -/
def poolUsed (s : State) : Nat := (s.ports.toList.map fun p => p.record.findings.length).sum

/-- The pool free count (R106). -/
def poolFree (s : State) : Nat := Config.poolSize - poolUsed s

/-- ERR: a first cause is held (R155). -/
def errBit (s : State) : Bool := s.errors.first.isSome

/-- CHG: the change set is not empty (R155). -/
def chgBit (s : State) : Bool := s.ports.toList.any fun p => p.inChangeSet

/-- LOW: the pool free count is below the low-water setting (R106, R155). -/
def lowBit (s : State) : Bool := decide (poolFree s < s.settings.lowWater)

/-- QFULL: the queue length is 16 (R67, R155). -/
def qfullBit (s : State) : Bool := decide (s.queue.length = Config.queueSize)

/-- The status byte (R155). -/
def statusByte (s : State) : Byte :=
  byte (flag s.busy.isSome 128 + flag (errBit s) 64 + flag s.errors.jammed 32 + flag (chgBit s) 16
    + flag (lowBit s) 8 + flag s.bind.isSome 4 + flag s.page 2 + flag (qfullBit s) 1)

/-- The GL48 drives ALERTn low (R156). -/
def alertAsserted (s : State) : Bool :=
  errBit s || (chgBit s && s.settings.alertChg) || (lowBit s && s.settings.alertLow)

end Sys2Proof.Machine
end

