-- ==== Sys2Proof/Machine/Frames.lean ====
section
/-! DEFINITION. The frames of the group links (R172): the check, the frames the part sends, and how a received
frame is judged (R25, R26). -/

namespace Sys2Proof.Machine

/-- One bit of the check's division by x⁸ + x² + x + 1. -/
def crcBit (c : Byte) : Byte := if c.msb then (c <<< 1) ^^^ 0x07#8 else c <<< 1

/-- The check after one more byte, its most significant bit first. -/
def crcByte (c b : Byte) : Byte :=
  crcBit (crcBit (crcBit (crcBit (crcBit (crcBit (crcBit (crcBit (c ^^^ b))))))))

/-- The 8-bit check over the header, the length and the payload, from 00h (R172). -/
def crc8 (bytes : List Byte) : Byte := bytes.foldl crcByte 0

/-- A frame: header with the kind in bits 7 to 4 and the index in bits 2 to 0, length, payload, check. -/
def frameOf (kind : Nat) (i : GroupIndex) (payload : List Byte) : List Byte :=
  let body := byte (16 * kind + i.val) :: byte payload.length :: payload
  body ++ [crc8 body]

/-- The frame of an outbound message for the port of index `i`. -/
def messageFrame (i : GroupIndex) (m : Outbound) : List Byte := frameOf m.code i m.payload

/-- The idle frame (02_line_signal_link.md, 2.2): kind 0, index 0, length 0. -/
def idleFrame : List Byte := frameOf 0 0 []

/-- A frame whose check passes: its kind, port index and payload. -/
structure ValidFrame where
  kind : Nat
  index : GroupIndex
  payload : List Byte
  deriving DecidableEq, Repr

/-- The judgment of a received frame by its length and check; none for a frame that is not valid (R25, R172).
DESIGN CHOICE (notes/assumptions/19.md): bytes that are no whole frame are not valid. -/
def judgeFrame : List Byte → Option ValidFrame
  | header :: len :: rest =>
    if len.toNat ≤ 7 ∧ rest.length = len.toNat + 1
        ∧ rest.getLast? = some (crc8 (header :: len :: rest.dropLast)) then
      some { kind := header.toNat / 16, index := ⟨header.toNat % 8, by omega⟩, payload := rest.dropLast }
    else none
  | _ => none

/-- A skew byte in range (R26). -/
def skewOf? (b : Byte) : Option Nat := if b.toNat ≤ 63 then some b.toNat else none

/-- The payload of a RESULT (R26, R172). -/
def resultOf? : List Byte → Option TrainResult
  | [outcome] => if outcome = 0x00#8 then some .fail else none
  | [outcome, polarity, swap, a, b, c, d] =>
    if outcome = 0x01#8 ∧ polarity.toNat < 16 then
      match swapOf? swap.toNat, skewOf? a, skewOf? b, skewOf? c, skewOf? d with
      | some w, some ka, some kb, some kc, some kd =>
        some (.pass (polarity.setWidth 4) { a := ka, b := kb, c := kc, d := kd } w)
      | _, _, _, _, _ => none
    else none
  | _ => none

/-- The inbound message a valid frame carries, if its kind is inbound, its length matches and every payload byte
lies in range (R26, R172). -/
def messageOf? (f : ValidFrame) : Option Inbound :=
  match f.kind, f.payload with
  | 1, [b] => if b = 0x00#8 then some (.energy false) else if b = 0x01#8 then some (.energy true) else none
  | 2, [b] => if b.toNat < 16 then some (.page (b.setWidth 4)) else none
  | 3, payload => (resultOf? payload).map .result
  | 4, [] => some .lost
  | 5, [b] => if b.toNat < 32 then some (.power (b.setWidth 4) (b.getLsbD 4)) else none
  | 6, [] => some .detached
  | _, _ => none

/-- The inbox with a message placed in its kind's slot (R27). -/
def Inbox.place (box : Inbox) : Inbound → Inbox
  | .energy present => { box with energy := some present }
  | .page rates => { box with page := some rates }
  | .result r => { box with result := some r }
  | .lost => { box with lost := true }
  | .power pairs fault => { box with power := some (pairs, fault) }
  | .detached => { box with detached := true }

/-- The inbound kinds, for the order in which the inbox is taken. -/
inductive Slot where
  | power | detached | energy | lost | result | page
  deriving DecidableEq, Repr

/-- The slot the Training Controller takes next: the first full one in the order POWER, DETACHED, ENERGY, LOST,
RESULT, PAGE (R40). -/
def Inbox.next? (box : Inbox) : Option Slot :=
  if box.power.isSome then some .power
  else if box.detached then some .detached
  else if box.energy.isSome then some .energy
  else if box.lost then some .lost
  else if box.result.isSome then some .result
  else if box.page.isSome then some .page
  else none

end Sys2Proof.Machine
end

