-- ==== Sys2Proof/Machine/Ops.lean ====
section
/-! DEFINITION. The shared operations every command's meaning is built from: the accessors of ports, groups and
engines, the Error Slot's taking of a report, the handing of messages to the group links, the Store's application of
updates with the waiting updates of a bind, the end of a bind, and the two resets. -/

namespace Sys2Proof.Machine

/-! ## Accessors -/

/-- Everything kept for port `p`. -/
def State.port (s : State) (p : Port) : PortState := s.ports[p]

/-- The state with what is kept for port `p` replaced. -/
def State.setPort (s : State) (p : Port) (x : PortState) : State := { s with ports := s.ports.set p x }

/-- The state with what is kept for port `p` changed. -/
def State.modPort (s : State) (p : Port) (f : PortState → PortState) : State := s.setPort p (f (s.port p))

/-- Group link `g`. -/
def State.group (s : State) (g : Group) : GroupLink := s.groups[g]

/-- The state with group link `g` replaced. -/
def State.setGroup (s : State) (g : Group) (x : GroupLink) : State := { s with groups := s.groups.set g x }

/-- Engine `e`. -/
def State.engine (s : State) (e : EngineId) : Engine := s.engines[e]

/-- The state with engine `e` replaced. -/
def State.setEngine (s : State) (e : EngineId) (x : Engine) : State := { s with engines := s.engines.set e x }

/-- The group a port belongs to: group g serves ports 8g to 8g + 7. -/
def groupOf (p : Port) : Group := ⟨p.val / 8, by omega⟩

/-- A port's index within its group. -/
def indexOf (p : Port) : GroupIndex := ⟨p.val % 8, by omega⟩

/-- The port of index `i` of group `g`: port 8g + i. -/
def portAt (g : Group) (i : GroupIndex) : Port := ⟨8 * g.val + i.val, by omega⟩

/-- A device reset is in progress (R159). -/
def State.inReset (s : State) : Bool := decide (s.busy = some .deviceReset)

/-- A bind is open (R151). -/
def State.bound (s : State) : Bool := s.bind.isSome

/-! ## Lists -/

/-- `x` inserted before the first entry it is not greater than. -/
def insertSorted {α : Type} (le : α → α → Bool) (x : α) : List α → List α
  | [] => [x]
  | y :: ys => if le x y then x :: y :: ys else y :: insertSorted le x ys

/-- A stable sort. -/
def sortList {α : Type} (le : α → α → Bool) : List α → List α
  | [] => []
  | x :: xs => insertSorted le x (sortList le xs)

/-- Lexicographic order of two keys. -/
def keyLe : List Nat → List Nat → Bool
  | [], _ => true
  | _ :: _, [] => false
  | a :: as, b :: bs => decide (a < b) || (decide (a = b) && keyLe as bs)

/-! ## The Error Slot -/

/-- The Error Slot takes a report (R163). -/
def ErrorSlot.take (slot : ErrorSlot) (c : Cause) (o : Origin) (p : Option Port) : ErrorSlot :=
  match slot.first with
  | none => { slot with first := some { cause := c, origin := o, port := p } }
  | some _ =>
    match slot.second with
    | none => { slot with second := some { cause := c, origin := o } }
    | some _ => { slot with jammed := true }

/-- A block reports an error (R161, R163). -/
def State.report (s : State) (c : Cause) (o : Origin) (p : Option Port) : State :=
  { s with errors := s.errors.take c o p }

/-! ## Replies -/

/-- The reply ACCEPTED with no data (R147). -/
def replyAccepted : Vector Byte 8 := #v[0x00, 0, 0, 0, 0, 0, 0, 0]

/-- The reply MERGED (R147). -/
def replyMerged : Vector Byte 8 := #v[0x01, 0, 0, 0, 0, 0, 0, 0]

/-- The reply REFUSED (R147). -/
def replyRefused : Vector Byte 8 := #v[0xFF, 0, 0, 0, 0, 0, 0, 0]

/-- The reply of TAKE-CHANGE and SEARCH: the port and its generation, or port 0FFh and generation 0 (R147, R170). -/
def replyPort : Option (Port × BitVec 16) → Vector Byte 8
  | some (p, g) => #v[0x00, byte p.val, lowByte g.toNat, highByte g.toNat, 0, 0, 0, 0]
  | none => #v[0x00, noneByte, 0, 0, 0, 0, 0, 0]

/-- The command's reply is written (R147). -/
def State.withReply (s : State) (r : Vector Byte 8) : State := { s with reply := r }

/-- A command is refused: REFUSED in the reply area and its error, origin COMMAND, to the Error Slot (R147, R162). -/
def State.refuse (s : State) (c : Cause) (p : Option Port) : State := (s.report c .command p).withReply replyRefused

/-! ## Handing messages to the group link -/

/-- The rates the Training Controller advertises and resolves against: the offer and the ceiling as the record has
them and its own struck set (R12, R38). -/
def PortState.offered (ps : PortState) : RateSet := offeredRates ps.record.offer ps.tc.f.struck ps.record.ceiling

/-- The single message that brings a PHY into agreement with its port's mode (R30, R33). -/
def PortState.agreeing (ps : PortState) : Outbound :=
  match ps.tc.f.mode with
  | .parked => .halt
  | .dark => .halt
  | .held => .halt
  | .up => .halt
  | .listen => .advertise ps.offered
  | .train =>
    match ps.tc.f.resolved with
    | some r => .start r
    | none => .halt
  | .lent => .detach

/-- One message handed to a port's transmit list: discarded in a SILENT group (R31), joined at the tail of a list of
fewer than eight (R29), or an overflow that leaves the agreeing message alone (R30). -/
def handOne (linked : Bool) (agreeing : Outbound) (list : List Outbound) (m : Outbound) : List Outbound :=
  if linked then if list.length < Config.transmitSize then list ++ [m] else [agreeing] else list

/-- The messages of one event handed for port `p`, in order. The port's machine already stands as the event leaves
it, so an overflow reads that mode (R30). -/
def State.hand (s : State) (p : Port) (msgs : List Outbound) : State :=
  s.modPort p fun ps =>
    { ps with transmit := msgs.foldl (handOne (s.group (groupOf p)).linked ps.agreeing) ps.transmit }

/-! ## Updates -/

/-- An update of the blocks that keep working state: the fields of each that the event changed (R13). Its values are
the blocks' working values, which are always the latest (R19, notes/assumptions/10.md). -/
structure Update where
  tc : List TcField
  sched : List SchedField
  guard : Bool
  deriving DecidableEq, Repr

/-- The update that changes nothing. -/
def Update.none : Update := { tc := [], sched := [], guard := false }

/-- All fields of the Training Controller. -/
def allTcFields : List TcField :=
  [.mode, .returnMode, .heldCause, .armed, .struck, .partner, .resolved, .attempts, .autoSpent, .energy, .powered,
   .powerFault, .polarity, .skew, .swap]

/-- The field differs between two working states. -/
def TcField.differs (a b : TcFields) : TcField → Bool
  | .mode => decide (a.mode ≠ b.mode)
  | .returnMode => decide (a.returnMode ≠ b.returnMode)
  | .heldCause => decide (a.heldCause ≠ b.heldCause)
  | .armed => decide (a.armed ≠ b.armed)
  | .struck => decide (a.struck ≠ b.struck)
  | .partner => decide (a.partner ≠ b.partner)
  | .resolved => decide (a.resolved ≠ b.resolved)
  | .attempts => decide (a.attempts ≠ b.attempts)
  | .autoSpent => decide (a.autoSpent ≠ b.autoSpent)
  | .energy => decide (a.energy ≠ b.energy)
  | .powered => decide (a.powered ≠ b.powered)
  | .powerFault => decide (a.powerFault ≠ b.powerFault)
  | .polarity => decide (a.polarity ≠ b.polarity)
  | .skew => decide (a.skew ≠ b.skew)
  | .swap => decide (a.swap ≠ b.swap)

/-- `dst` with one field taken from `src`. -/
def TcField.copy (src dst : TcFields) : TcField → TcFields
  | .mode => { dst with mode := src.mode }
  | .returnMode => { dst with returnMode := src.returnMode }
  | .heldCause => { dst with heldCause := src.heldCause }
  | .armed => { dst with armed := src.armed }
  | .struck => { dst with struck := src.struck }
  | .partner => { dst with partner := src.partner }
  | .resolved => { dst with resolved := src.resolved }
  | .attempts => { dst with attempts := src.attempts }
  | .autoSpent => { dst with autoSpent := src.autoSpent }
  | .energy => { dst with energy := src.energy }
  | .powered => { dst with powered := src.powered }
  | .powerFault => { dst with powerFault := src.powerFault }
  | .polarity => { dst with polarity := src.polarity }
  | .skew => { dst with skew := src.skew }
  | .swap => { dst with swap := src.swap }

/-- The fields an event of the Training Controller changed (R38, notes/assumptions/9.md). -/
def changedTc (before after : TcFields) : List TcField := allTcFields.filter (TcField.differs before after)

/-- The fields an event of the Scheduler changed. -/
def changedSched (before after : SchedFields) : List SchedField :=
  (if before.status = after.status then [] else [.status]) ++ (if before.outcome = after.outcome then [] else [.outcome])

/-- `dst` with one field taken from `src`. -/
def SchedField.copy (src dst : SchedFields) : SchedField → SchedFields
  | .status => { dst with status := src.status }
  | .outcome => { dst with outcome := src.outcome }

/-- The record with the update's fields at the blocks' working values, and, where the update carries skew values, the
verdicts and the ceiling derived again (R8, R13, R119). -/
def PortState.updated (set : Settings) (u : Update) (ps : PortState) : LineRecord :=
  let r := { ps.record with
    tc := u.tc.foldl (TcField.copy ps.tc.f) ps.record.tc
    sched := u.sched.foldl (SchedField.copy ps.sched) ps.record.sched
    lastSource := if u.guard then ps.lastSource else ps.record.lastSource }
  if u.tc.contains .skew then r.rederive set else r

/-- The Store applies a record whole: if anything changes, the effective offer is recomputed, the generation advances
by one and the port joins the change set; otherwise the update has no effect (R12 to R15). -/
def State.commit (s : State) (p : Port) (r : LineRecord) : State :=
  let ps := s.port p
  if r = ps.record then s
  else s.setPort p
    { ps with record := { r.withEffectiveOffer with generation := ps.record.generation + 1 }, inChangeSet := true }

/-- The Store applies an update of port `p` (R13). -/
def State.apply (s : State) (p : Port) (u : Update) : State := s.commit p ((s.port p).updated s.settings u)

/-- The fields of `new` that `old` does not hold yet, behind `old`. -/
def mergeFields {α : Type} [DecidableEq α] (old new : List α) : List α := old ++ new.filter (fun f => !old.contains f)

/-- The update is folded into the waiting updates of the port's blocks (R18, R19). An update of the Scheduler and the
Training Controller together waits as one (R67, notes/assumptions/11.md). -/
def PortState.wait (u : Update) (ps : PortState) : PortState :=
  { ps with
    tcWaiting := mergeFields ps.tcWaiting u.tc
    schedWaiting := mergeFields ps.schedWaiting u.sched
    guardWaiting := ps.guardWaiting || u.guard
    jointWaiting := ps.jointWaiting || (!u.tc.isEmpty && !u.sched.isEmpty) }

/-- The fields a command wrote are taken out of the waiting updates (R20). With the last of them the block's update is gone
too: the port's inbox and expiries wait no longer (R19; DESIGN CHOICE, notes/assumptions/38.md), and what was one update
with the other block's is the other block's alone, so that a later change of the first is an update of its own (R19, R21,
notes/assumptions/11.md). -/
def PortState.unwait (u : Update) (ps : PortState) : PortState :=
  let tc := ps.tcWaiting.filter fun f => !u.tc.contains f
  let sched := ps.schedWaiting.filter fun f => !u.sched.contains f
  { ps with
    tcWaiting := tc
    schedWaiting := sched
    guardWaiting := ps.guardWaiting && !u.guard
    jointWaiting :=
      ps.jointWaiting && tc.isEmpty == ps.tcWaiting.isEmpty && sched.isEmpty == ps.schedWaiting.isEmpty }

/-- A block submits an update: applied at once while no bind is open or where a host command made it, held back
otherwise (R13, R18, R20). -/
def State.submit (s : State) (host : Bool) (p : Port) (u : Update) : State :=
  if host || !s.bound then (s.modPort p (PortState.unwait u)).apply p u else s.modPort p (PortState.wait u)

/-- What one event of the Training Controller leaves and makes: its working state, the messages it hands, the firings
it hands the Line Guard, an auto-probe request, a power notice, and the fields its update carries also where their values
stay as they were (R20, R45, notes/assumptions/9.md). -/
structure TcEffect where
  m : PortMachine
  msgs : List Outbound
  firings : List Firing
  autoProbe : Bool
  notice : Bool
  carries : List TcField
  deriving DecidableEq, Repr

/-- An event that leaves the machine at `m` and hands `msgs`. -/
def TcEffect.of (m : PortMachine) (msgs : List Outbound) : TcEffect :=
  { m := m, msgs := msgs, firings := [], autoProbe := false, notice := false, carries := [] }

/-- The event, its update carrying the fields the command's rule has it write (R20, R45). -/
def TcEffect.carrying (fields : List TcField) (out : TcEffect) : TcEffect := { out with carries := fields }

/-- The mode and the fields that the rules tie to it: the return mode, which reads DARK while the mode is not LENT (R2),
the held cause (R59), and the resolved rate with the attempts at it (R39). A host command that writes the mode writes them
all, so that none of them stays behind in a waiting update (R20, notes/assumptions/40.md). -/
def modeFields : List TcField := [.mode, .returnMode, .heldCause, .resolved, .attempts]

/-- The update an event of the Training Controller and the Scheduler together submits: the fields the event changed and
those it carries in any case. -/
def eventUpdate (ps : PortState) (out : TcEffect) (sched : SchedFields) : Update :=
  { tc := mergeFields (changedTc ps.tc.f out.m.f) out.carries
    sched := changedSched ps.sched sched
    guard := false }

/-- One event of port `p` in the Training Controller, with the Scheduler's status and outcome after it: the working
states change, the requests go out, the messages are handed, and one update is submitted (R13, R38, R67). A firing is
taken in an event of its own, so that with no bind open a strike's own update is applied before the Line Guard's (DESIGN
CHOICE, notes/assumptions/35.md). -/
def State.event (s : State) (host : Bool) (p : Port) (out : TcEffect) (sched : SchedFields) : State :=
  let ps := s.port p
  let s1 := s.setPort p
    { ps with
      tc := out.m
      sched := sched
      firings := ps.firings ++ out.firings
      autoRequests := ps.autoRequests + flag out.autoProbe 1
      powerNotice := ps.powerNotice || out.notice }
  (s1.hand p out.msgs).submit host p (eventUpdate ps out sched)

/-- One event of the Training Controller alone. -/
def State.tcEvent (s : State) (host : Bool) (p : Port) (out : TcEffect) : State :=
  s.event host p out (s.port p).sched

/-- One event of the Scheduler alone. -/
def State.schedEvent (s : State) (host : Bool) (p : Port) (sched : SchedFields) : State :=
  s.event host p (.of (s.port p).tc []) sched

/-! ## Resets -/

/-- A port machine after a port reset: the reset state, with the line state the latest messages set (R7, R66). -/
def PortMachine.portReset (m : PortMachine) : PortMachine :=
  { PortMachine.reset with
    f := { TcFields.reset with
      energy := m.f.energy, powered := m.f.powered, powerFault := m.f.powerFault } }

/-- The Scheduler's fields after a port reset: ABORTED with outcome RESET and no skipped pairs if a run was aborted,
NONE otherwise (R23). -/
def portResetSched (aborted : Bool) : SchedFields :=
  if aborted then { status := .aborted, outcome := some { cause := .reset, skipped := 0 } } else .reset

/-- The port reset update of `p`: every finding is retired, every field takes its reset value, the generation advances
by one and the port joins the change set; a WITHDRAW not yet taken is overwritten with the rest (R134,
notes/assumptions/25.md); then the Training Controller hands HALT (R23, R66, R126). -/
def State.portResetUpdate (s : State) (p : Port) (aborted : Bool) : State :=
  let ps := s.port p
  let tc := ps.tc.portReset
  let s1 := s.setPort p
    { ps with
      record := { LineRecord.reset with
        tc := tc.f
        sched := portResetSched aborted
        generation := ps.record.generation + 1 }
      inChangeSet := true
      tc := tc
      sched := portResetSched aborted
      lastSource := none
      tcWaiting := []
      schedWaiting := []
      guardWaiting := false
      jointWaiting := false
      withdraws := [] }
  s1.hand p [.halt]

/-- A PORT-RESET completes: its update is applied, BUSY ends and the reply is written (R150). -/
def State.completePortReset (s : State) (p : Port) (aborted : Bool) : State :=
  { (s.portResetUpdate p aborted).withReply replyAccepted with busy := none }

/-- A data transaction under way is cut short (R159): the byte begun reads 00h too. -/
def Transfer.cut (t : Transfer) : Transfer := { t with judgment := .inReset, fetched := none }

/-- The transaction under way on the pins ends (R159). CSn stays low, but a command of it is not taken when CSn rises, and
what is left of a status image is gone. -/
def Serial.cut (t : Serial) : Serial := { t with ended := t.selected, image := [] }

/-- A device reset puts every block to its reset values in one step; BUSY holds until it completes (R159). What is
outside the blocks stays: the levels of the pins, the commands waiting, the bytes already shifted out and the
transaction under way, which is cut short. -/
def State.beginDeviceReset (s : State) : State :=
  { State.reset with
    busy := some .deviceReset
    transfer := s.transfer.map Transfer.cut
    sdo := s.sdo
    serial := s.serial.cut
    resetN := s.resetN
    pending := s.pending }

/-- The device reset completes: BUSY ends and every block stands at its reset values (R159). A transaction that began
during the reset goes on. -/
def State.endDeviceReset (s : State) : State := { s.beginDeviceReset with busy := none, serial := s.serial }

/-! ## Binds -/

/-- The waiting updates of port `p` are applied (R21): the Training Controller's, the Scheduler's, the Line Guard's, in
this order (DESIGN CHOICE, notes/assumptions/8.md), the first two as one where they are one update. -/
def State.applyWaiting (s : State) (p : Port) : State :=
  let ps := s.port p
  let s1 := s.setPort p
    { ps with tcWaiting := [], schedWaiting := [], guardWaiting := false, jointWaiting := false }
  let s2 :=
    if ps.jointWaiting then s1.apply p { tc := ps.tcWaiting, sched := ps.schedWaiting, guard := false }
    else (s1.apply p { Update.none with tc := ps.tcWaiting }).apply p { Update.none with sched := ps.schedWaiting }
  s2.apply p { Update.none with guard := ps.guardWaiting }

/-- The waiting updates of every port are applied (R21). -/
def State.applyAllWaiting (s : State) : State := allPorts.foldl State.applyWaiting s

/-- A PORT-RESET whose run was SUSPENDED takes its ending once no bind is open (R85, notes/assumptions/15.md). -/
def State.finishSuspendedReset (s : State) : State :=
  match s.busy with
  | some (.portReset p true) => s.completePortReset p true
  | _ => s

/-- The bind ends: it closes, a pending restore puts the cursor back, and the waiting updates are applied (R21,
R152). -/
def State.endBind (s : State) : State :=
  State.finishSuspendedReset
    (State.applyAllWaiting { s with bind := none, cursor := s.saved.getD s.cursor, saved := none })

/-- The bind's expiry window, 500 µs (R151). -/
def bindWindow : Nat := Config.micros 500

/-- One access under an open bind: the count falls by one and the expiry restarts, and at zero the bind ends in the
same event (R152). Without a bind nothing is counted. -/
def State.countAccess (s : State) : State :=
  match s.bind with
  | none => s
  | some b => if b.left ≤ 1 then s.endBind else { s with bind := some { left := b.left - 1, timer := bindWindow } }

/-- A bind of `n` accesses opens, or an open one restarts with `n` (R151). -/
def State.openBind (s : State) (n : Nat) : State := { s with bind := some { left := n, timer := bindWindow } }

/-! ## The Scheduler's queue and the engines -/

/-- The entries of the URGENT class, which stand first (R68). -/
def urgentPart (q : List Entry) : List Entry := q.takeWhile fun x => decide (x.cls = .urgent)

/-- The entries behind the URGENT class (R68). -/
def routinePart (q : List Entry) : List Entry := q.dropWhile fun x => decide (x.cls = .urgent)

/-- A new entry joins the tail of its class (R68). -/
def joinTail (q : List Entry) (x : Entry) : List Entry :=
  match x.cls with
  | .urgent => urgentPart q ++ x :: routinePart q
  | .routine => q ++ [x]

/-- A suspended entry joins the front of the ROUTINE class (R68). -/
def joinFrontOfRoutine (q : List Entry) (x : Entry) : List Entry := urgentPart q ++ x :: routinePart q

/-- The entry of port `p`, if the queue holds one (R67). -/
def State.entryOf (s : State) (p : Port) : Option Entry := s.queue.find? fun x => decide (x.port = p)

/-- The queue without the entry of port `p`. -/
def State.dropEntry (s : State) (p : Port) : State :=
  { s with queue := s.queue.filter fun x => decide (x.port ≠ p) }

/-- The run an engine holds. -/
def Engine.run? : Engine → Option Run
  | .idle => none
  | .attaching r _ => some r
  | .sweeping r _ _ _ _ => some r
  | .closing r _ => some r

/-- The engine holds port `p`. -/
def Engine.holds (p : Port) (x : Engine) : Bool :=
  match x.run? with
  | some r => decide (r.port = p)
  | none => false

/-- The engine that holds port `p` (R74). -/
def State.engineHolding (s : State) (p : Port) : Option EngineId :=
  allEngines.find? fun e => (s.engine e).holds p

/-- The engine is IDLE (R88). -/
def Engine.isIdle : Engine → Bool
  | .idle => true
  | _ => false

/-- The lowest-numbered IDLE engine (R74). -/
def State.idleEngine (s : State) : Option EngineId := allEngines.find? fun e => (s.engine e).isIdle

/-- The engine gives up its run and becomes IDLE; the Scheduler's record of the run is cleared (R99). -/
def State.releaseEngine (s : State) (e : EngineId) : State :=
  { s.setEngine e .idle with order := s.order.filter fun x => decide (x ≠ e) }

/-- The engine takes a run, the latest in the order of dispatch (R74). -/
def State.assignEngine (s : State) (e : EngineId) (x : Engine) : State :=
  { s.setEngine e x with order := e :: s.order.filter fun y => decide (y ≠ e) }

/-- Engines in ATTACHING or SWEEPING stop at once and enter CLOSING with the ending given; anything gathered is
discarded (R100, R101, R103). The others are unchanged. -/
def Engine.stop (ending : Ending) : Engine → Engine
  | .idle => .idle
  | .attaching r _ => .closing { r with completed := [] } ending
  | .sweeping r _ _ _ _ => .closing { r with completed := [] } ending
  | .closing r x => .closing r x

/-- The engine has a run it has not ended: ATTACHING or SWEEPING. -/
def Engine.running : Engine → Bool
  | .attaching _ _ => true
  | .sweeping _ _ _ _ _ => true
  | _ => false

/-- A power notice of port `p` is taken where engine `e` holds the port: in ATTACHING or SWEEPING the engine stops with
ending POWER and POWER-ABORT is raised; a run in CLOSING has ended, and the notice has no effect (R83, R101). -/
def State.stopOnPower (s : State) (p : Port) (e : EngineId) : State :=
  if (s.engine e).running then (s.setEngine e ((s.engine e).stop .power)).report .powerAbort .event (some p) else s

/-- The pairs finished, as a set. -/
def completedSet (l : List PairResult) : PairSet := l.foldl (fun acc x => acc ||| pairBit x.pair) 0

/-- A queued entry for all four pairs, class ROUTINE, as auto-probes and promotions make it (R72, R73). -/
def routineEntry (p : Port) : Entry := { port := p, cls := .routine, pairs := 0xF#4, suspended := none }

/-- The port's rights let a WANTED port be promoted: AUTO, and PROBE-LIVE while its mode is UP (R73). -/
def PortState.promotable (ps : PortState) : Bool :=
  mayAuto ps.record.rights && (decide (ps.tc.f.mode ≠ .up) || mayProbeLive ps.record.rights)

/-- A freed place is offered to the WANTED ports of `l` in turn, until one is promoted (R73). -/
def State.offerPlaceTo (host : Bool) : List Port → State → State
  | [], s => s
  | p :: rest, s =>
    let ps := s.port p
    if ps.sched.status = .wanted then
      if ps.promotable then
        ({ s with queue := joinTail s.queue (routineEntry p) }).schedEvent host p { ps.sched with status := .queued }
      else State.offerPlaceTo host rest (s.schedEvent host p { ps.sched with status := .none })
    else State.offerPlaceTo host rest s

/-- A place of the queue has been freed: the lowest-numbered WANTED port whose rights still allow it is promoted
(R73). -/
def State.offerPlace (s : State) (host : Bool) : State := State.offerPlaceTo host allPorts s

end Sys2Proof.Machine
end

