-- ==== Sys2Proof/Machine/Training.lean ====
section
/-! DEFINITION. The Training Controller's port machine (03_link_training.md): one function per message, expiry and
request on one port's working state, and the commands that take them. -/

namespace Sys2Proof.Machine

/-! ## The machine of one port -/

/-- What the machine reads besides its own working state: the offer, ceiling, rights and guard mask of the record and
the tries and listen settings (R6, R12, R47, R49, R51). -/
structure TcContext where
  offer : RateSet
  ceiling : Option Rate
  rights : BitVec 4
  guardMask : BitVec 5
  tries : Nat
  listenMs : Nat
  deriving DecidableEq, Repr

/-- The context of port `p`. -/
def State.tcContext (s : State) (p : Port) : TcContext :=
  let r := (s.port p).record
  { offer := r.offer, ceiling := r.ceiling, rights := r.rights, guardMask := r.guardMask
    tries := s.settings.tries, listenMs := s.settings.listen }

namespace PortMachine

/-- The effective offer E as the machine forms it (R38). -/
def offered (c : TcContext) (m : PortMachine) : RateSet := offeredRates c.offer m.f.struck c.ceiling

/-- Both timers stopped, the resolved rate cleared, and attempts 0 with it (R39). -/
def leaveAttempt (m : PortMachine) : PortMachine :=
  { f := { m.f with resolved := none, attempts := 0 }, listen := none, train := none }

/-- The machine in another mode. -/
def toMode (m : PortMachine) (mode : Mode) : PortMachine := { m with f := { m.f with mode := mode } }

/-- Entering HELD with a cause (R46, R51, R58). -/
def hold (m : PortMachine) (cause : HeldCause) : PortMachine :=
  { m.leaveAttempt with f := { m.leaveAttempt.f with mode := .held, heldCause := some cause } }

/-- ADVERTISE with E and LISTEN with its timer started, or the empty-offer rule: HELD with cause EXHAUSTED, and HALT
unless the event has handed one (R45, R46, R47). -/
def advertise (c : TcContext) (halted : Bool) (m : PortMachine) : PortMachine × List Outbound :=
  if m.offered c = 0 then (m.hold .exhausted, if halted then [] else [.halt])
  else
    ({ m.leaveAttempt.toMode .listen with listen := some (Config.millis c.listenMs) }, [.advertise (m.offered c)])

/-- The DARK rule for a machine that enters DARK or meets energy in DARK (R45). -/
def darkRule (c : TcContext) (halted : Bool) (m : PortMachine) : PortMachine × List Outbound :=
  if m.f.energy then (m.toMode .dark).advertise c halted else (m.leaveAttempt.toMode .dark, [])

/-- START at a rate: it is recorded, the train timer starts with its window, the listen timer stops, and the mode is
TRAIN with `attempts` (R48, R49, R53). -/
def startAttempt (m : PortMachine) (rate : Rate) (attempts : Nat) : PortMachine × List Outbound :=
  ({ f := { m.f with mode := .train, resolved := some rate, attempts := attempts }
     listen := none
     train := some (trainWindow rate) }, [.start rate])

/-- A POWER message is taken (R41). -/
def takePower (pairs : PairSet) (fault : Bool) (m : PortMachine) : TcEffect :=
  { TcEffect.of { m with f := { m.f with powered := pairs, powerFault := fault } } [] with
    firings := if fault then [.source .powerFault] else []
    notice := decide (m.f.mode = .lent) && decide (pairs ≠ 0) }

/-- An ENERGY message is taken (R42). -/
def takeEnergy (c : TcContext) (present : Bool) (m : PortMachine) : TcEffect :=
  let m1 := { m with f := { m.f with energy := present } }
  if present then
    match m.f.mode with
    | .dark => let r := m1.darkRule c false; .of r.1 r.2
    | _ => .of m1 []
  else
    let m2 := { m1 with f := { m1.f with partner := none } }
    match m.f.mode with
    | .listen => .of (m2.leaveAttempt.toMode .dark) [.halt]
    | .train => .of (m2.leaveAttempt.toMode .dark) [.halt]
    | .up => .of (m2.leaveAttempt.toMode .dark) [.halt]
    | _ => .of m2 []

/-- A LOST is taken: acted on in UP, ignored or discarded elsewhere (R44, R54). -/
def takeLost (c : TcContext) (m : PortMachine) : TcEffect :=
  match m.f.mode with
  | .up =>
    if m.f.energy then let r := m.advertise c true; .of r.1 (.halt :: r.2)
    else .of (m.leaveAttempt.toMode .dark) [.halt]
  | _ => .of m []

/-- A RESULT pass is taken: in TRAIN the port goes UP and keeps the reports of the pairs trained at the resolved rate
(R8, R52); elsewhere it is discarded (R44). -/
def takeResultPass (inverted : PairSet) (skew : PerPair Nat) (swap : Swap) (m : PortMachine) : TcEffect :=
  match m.f.mode, m.f.resolved with
  | .train, some rate =>
    { TcEffect.of
        { f := { m.f with
            mode := .up
            attempts := 0
            autoSpent := false
            polarity := .build fun q => if trainedAt rate q then some (pairIn q inverted) else none
            skew := .build fun q => if trainedAt rate q then some (skew.get q) else none
            swap := swap }
          listen := none
          train := none } [] with carries := [.skew] }
  | _, _ => .of m []

/-- A strike: the resolved rate is struck, DOWNSHIFT fires, an auto-probe is requested where AUTO is held and not
spent, and the machine leaves TRAIN (R50, R51). -/
def strike (c : TcContext) (rate : Rate) (m : PortMachine) : TcEffect :=
  let auto := mayAuto c.rights && !m.f.autoSpent
  let m1 := { m with
    f := { m.f with struck := m.f.struck ||| rateBit rate, attempts := 0, autoSpent := m.f.autoSpent || auto } }
  let r :=
    if sourceIn .downshift c.guardMask && m.f.armed then
      let h := m1.hold .downshift
      ({ h with f := { h.f with armed := false } }, [.halt])
    else m1.advertise c false
  { TcEffect.of r.1 r.2 with firings := [.source .downshift], autoProbe := auto }

/-- An attempt in TRAIN ends as a failure: it is tried again, or struck (R49). Elsewhere nothing happens (R44). -/
def failAttempt (c : TcContext) (m : PortMachine) : TcEffect :=
  match m.f.mode, m.f.resolved with
  | .train, some rate =>
    if m.f.attempts + 1 < c.tries then let r := m.startAttempt rate (m.f.attempts + 1); .of r.1 r.2
    else if mayShift c.rights then m.strike c rate
    else let r := m.startAttempt rate 0; .of r.1 r.2
  | _, _ => .of m []

/-- A PAGE is taken: in LISTEN, TRAIN and UP it records the partner set and resolves (R48, R53); elsewhere it is
discarded (R44). -/
def takePage (c : TcContext) (rates : RateSet) (m : PortMachine) : TcEffect :=
  let m1 := { m with f := { m.f with partner := some rates } }
  let best := highestRate (m.offered c &&& rates)
  match m.f.mode with
  | .listen =>
    match best with
    | some rate => let r := m1.startAttempt rate 0; .of r.1 r.2
    | none => .of m1 []
  | .train =>
    match best with
    | some rate => let r := m1.startAttempt rate 0; .of r.1 r.2
    | none => let r := m1.advertise c false; .of r.1 r.2
  | .up =>
    match best with
    | some rate => let r := m1.startAttempt rate 0; .of r.1 (.halt :: r.2)
    | none => let r := m1.advertise c true; .of r.1 (.halt :: r.2)
  | _ => .of m []

/-- The listen timer expires in LISTEN: ADVERTISE again and the timer restarted, or the empty-offer rule (R46, R47). -/
def listenExpiry (c : TcContext) (m : PortMachine) : TcEffect := let r := m.advertise c false; .of r.1 r.2

/-- LEND is taken in any mode but LENT (R56). In LENT it is refused and changes nothing. -/
def lend (m : PortMachine) : TcEffect :=
  let back : ReturnMode :=
    match m.f.mode with
    | .parked => .parked
    | .held => .held
    | _ => .dark
  match m.f.mode with
  | .lent => .of m []
  | _ => .of { m.leaveAttempt with f := { m.leaveAttempt.f with mode := .lent, returnMode := back } } [.halt, .detach]

/-- RETURN is taken: in LENT the port takes its return mode, with the struck set emptied after a COMPLETE run and the
DARK rule applied in DARK; in any other mode nothing changes (R57). -/
def returnPort (c : TcContext) (outcome : Ending) (m : PortMachine) : TcEffect :=
  match m.f.mode with
  | .lent =>
    let struck := if outcome = .complete then 0 else m.f.struck
    let m1 := { m with f := { m.f with struck := struck, mode := m.f.returnMode.mode, returnMode := .dark } }
    match m.f.returnMode with
    | .dark => let r := m1.darkRule c false; .of r.1 (.attach :: r.2)
    | _ => .of m1 [.attach]
  | _ => .of m []

/-- WITHDRAW is taken (R58). -/
def withdraw (cause : HeldCause) (m : PortMachine) : TcEffect :=
  let held := m.hold cause
  let out : TcEffect := .of { held with f := { held.f with armed := false } } [.halt]
  match m.f.mode with
  | .dark => out
  | .listen => out
  | .train => out
  | .up => out
  | .lent =>
    match m.f.returnMode with
    | .parked => .of m []
    | _ => .of { m with f := { m.f with returnMode := .held, heldCause := some cause, armed := false } } []
  | .parked => .of m []
  | .held => .of m []

/-- PARK is taken; of a PARKED port it changes nothing in the record (R60). -/
def park (m : PortMachine) : TcEffect :=
  let parked : TcEffect :=
    .of { m.leaveAttempt with f := { m.leaveAttempt.f with mode := .parked, heldCause := none } } [.halt]
  match m.f.mode with
  | .lent => .of { m with f := { m.f with returnMode := .parked, heldCause := none } } []
  | .parked => parked
  | _ => parked.carrying modeFields

/-- UNPARK is taken (R61). -/
def unpark (c : TcContext) (m : PortMachine) : TcEffect :=
  match m.f.mode with
  | .parked =>
    let r := ({ m with f := { m.f with autoSpent := false } } : PortMachine).darkRule c false
    (TcEffect.of r.1 r.2).carrying (modeFields ++ [.autoSpent])
  | .lent =>
    match m.f.returnMode with
    | .parked =>
      (TcEffect.of { m with f := { m.f with returnMode := .dark, autoSpent := false } } []).carrying
        [.returnMode, .autoSpent]
    | _ => .of m []
  | _ => .of m []

/-- The struck set emptied, AUTO-SPENT no and attempts 0: the counters of a new training episode (R62, R63). -/
def newEpisode (m : PortMachine) : PortMachine := { m with f := { m.f with struck := 0, autoSpent := false, attempts := 0 } }

/-- RESTART is taken; none where it is refused with NOT-PERMITTED (R62). -/
def restart? (c : TcContext) (m : PortMachine) : Option TcEffect :=
  let live : TcEffect :=
    let r := m.newEpisode.leaveAttempt.darkRule c true
    (TcEffect.of r.1 (.halt :: r.2)).carrying (modeFields ++ [.struck, .autoSpent])
  match m.f.mode with
  | .listen => some live
  | .train => some live
  | .up => some live
  | .dark => some ((TcEffect.of m.newEpisode []).carrying [.struck, .attempts, .autoSpent])
  | _ => none

/-- REARM is taken (R63). -/
def rearm (c : TcContext) (m : PortMachine) : TcEffect :=
  let rearmed : TcEffect := (TcEffect.of { m with f := { m.f with armed := true } } []).carrying [.armed]
  match m.f.mode with
  | .held =>
    let r := ({ m.newEpisode with f := { m.newEpisode.f with heldCause := none, armed := true } } : PortMachine).darkRule c false
    (TcEffect.of r.1 r.2).carrying (modeFields ++ [.armed, .struck, .autoSpent])
  | .lent =>
    match m.f.returnMode with
    | .held =>
      (TcEffect.of { m with
        f := { m.f with returnMode := .dark, heldCause := none, armed := true, struck := 0, autoSpent := false } }
        []).carrying [.returnMode, .heldCause, .armed, .struck, .autoSpent]
    | _ => rearmed
  | _ => rearmed

end PortMachine

/-! ## Taking the inbox -/

/-- The Training Controller takes this slot's message of port `p` next: no device reset is in progress (R159), no
update of the port waits (R19), and the slot is the first full one (R40). -/
def State.takesSlot (s : State) (p : Port) (slot : Slot) : Bool :=
  !s.inReset && (s.port p).tcWaiting.isEmpty && decide ((s.port p).inbox.next? = some slot)

/-- The port's inbox changed (R27). -/
def State.setInbox (s : State) (p : Port) (box : Inbox) : State := s.modPort p fun ps => { ps with inbox := box }

/-- TAKE_POWER (R41). The power notice of a port that an engine holds is taken in this event, in which the engine leaves
SWEEPING (R89); that of a port that no engine holds stays out (notes/assumptions/12.md). -/
def takePowerAt (p : Port) (s : State) : State :=
  if s.takesSlot p .power then
    match (s.port p).inbox.power with
    | some (pairs, fault) =>
      let out := (s.port p).tc.takePower pairs fault
      let s1 := s.setInbox p { (s.port p).inbox with power := none }
      match out.notice, s.engineHolding p with
      | true, some e => (s1.stopOnPower p e).tcEvent false p { out with notice := false }
      | _, _ => s1.tcEvent false p out
    | none => s
  else s

/-- An engine in ATTACHING takes DETACHED: it puts its lines on and sweeps the first pair (R91); the others are
unchanged. `Engine.nextPair` gives the first pair to sweep and not completed, or closes the run COMPLETE. -/
def Run.nextPair (r : Run) : Engine :=
  match Pair.all.find? fun q => pairIn q r.toSweep && !r.completed.any fun x => decide (x.pair = q) with
  | some q => .sweeping r q 1 r.latched.window []
  | none => .closing r .complete

/-- An engine takes a DETACHED passed to it (R43, R91). -/
def Engine.detached : Engine → Engine
  | .attaching r _ => r.nextPair
  | x => x

/-- TAKE_DETACHED (R43): passed to the engine that holds the LENT port, discarded otherwise. -/
def takeDetachedAt (p : Port) (s : State) : State :=
  if s.takesSlot p .detached then
    let s1 := s.setInbox p { (s.port p).inbox with detached := false }
    if (s.port p).tc.f.mode = .lent then
      match s.engineHolding p with
      | some e => s1.setEngine e (s.engine e).detached
      | none => s1
    else s1
  else s

/-- TAKE_ENERGY (R42). -/
def takeEnergyAt (p : Port) (s : State) : State :=
  if s.takesSlot p .energy then
    match (s.port p).inbox.energy with
    | some present =>
      (s.setInbox p { (s.port p).inbox with energy := none }).tcEvent false p
        ((s.port p).tc.takeEnergy (s.tcContext p) present)
    | none => s
  else s

/-- TAKE_LOST (R54). -/
def takeLostAt (p : Port) (s : State) : State :=
  if s.takesSlot p .lost then
    (s.setInbox p { (s.port p).inbox with lost := false }).tcEvent false p ((s.port p).tc.takeLost (s.tcContext p))
  else s

/-- TAKE_RESULT_PASS (R52). -/
def takeResultPassAt (p : Port) (s : State) : State :=
  if s.takesSlot p .result then
    match (s.port p).inbox.result with
    | some (.pass inverted skew swap) =>
      (s.setInbox p { (s.port p).inbox with result := none }).tcEvent false p
        ((s.port p).tc.takeResultPass inverted skew swap)
    | _ => s
  else s

/-- TAKE_RESULT_FAIL (R49). -/
def takeResultFailAt (p : Port) (s : State) : State :=
  if s.takesSlot p .result then
    match (s.port p).inbox.result with
    | some .fail =>
      (s.setInbox p { (s.port p).inbox with result := none }).tcEvent false p
        ((s.port p).tc.failAttempt (s.tcContext p))
    | _ => s
  else s

/-- TAKE_PAGE (R48, R53). -/
def takePageAt (p : Port) (s : State) : State :=
  if s.takesSlot p .page then
    match (s.port p).inbox.page with
    | some rates =>
      (s.setInbox p { (s.port p).inbox with page := none }).tcEvent false p
        ((s.port p).tc.takePage (s.tcContext p) rates)
    | none => s
  else s

/-! ## Expiries and the Line Guard's request -/

/-- The Training Controller takes an expiry of port `p`: the timer has run out and no update of the port waits
(R19, R39). -/
def State.takesExpiry (s : State) (p : Port) (t : Timer) : Bool :=
  (s.port p).tcWaiting.isEmpty && decide (t = some 0)

/-- LISTEN_EXPIRY (R47). -/
def listenExpiryAt (p : Port) (s : State) : State :=
  if s.takesExpiry p (s.port p).tc.listen && decide ((s.port p).tc.f.mode = .listen) then
    s.tcEvent false p ((s.port p).tc.listenExpiry (s.tcContext p))
  else s

/-- TRAIN_EXPIRY (R49). -/
def trainExpiryAt (p : Port) (s : State) : State :=
  if s.takesExpiry p (s.port p).tc.train && decide ((s.port p).tc.f.mode = .train) then
    s.tcEvent false p ((s.port p).tc.failAttempt (s.tcContext p))
  else s

/-- The Training Controller takes WITHDRAW with the cause a guard source gives (R58). -/
def State.takeWithdraw (s : State) (p : Port) (src : GuardSource) : State :=
  s.tcEvent false p ((s.port p).tc.withdraw src.heldCause)

/-- TAKE_WITHDRAW (R58): the oldest request handed for the port. -/
def takeWithdrawAt (p : Port) (s : State) : State :=
  match (s.port p).withdraws with
  | src :: rest => (s.modPort p fun ps => { ps with withdraws := rest }).takeWithdraw p src
  | [] => s

/-! ## The commands -/

/-- TAKE_POWER. -/
def execTakePower (p : Port) (s : State) : Host.Outcome State Fault Refusal := .next (takePowerAt p s)

/-- TAKE_DETACHED. -/
def execTakeDetached (p : Port) (s : State) : Host.Outcome State Fault Refusal := .next (takeDetachedAt p s)

/-- TAKE_ENERGY. -/
def execTakeEnergy (p : Port) (s : State) : Host.Outcome State Fault Refusal := .next (takeEnergyAt p s)

/-- TAKE_LOST. -/
def execTakeLost (p : Port) (s : State) : Host.Outcome State Fault Refusal := .next (takeLostAt p s)

/-- TAKE_RESULT_PASS. -/
def execTakeResultPass (p : Port) (s : State) : Host.Outcome State Fault Refusal := .next (takeResultPassAt p s)

/-- TAKE_RESULT_FAIL. -/
def execTakeResultFail (p : Port) (s : State) : Host.Outcome State Fault Refusal := .next (takeResultFailAt p s)

/-- TAKE_PAGE. -/
def execTakePage (p : Port) (s : State) : Host.Outcome State Fault Refusal := .next (takePageAt p s)

/-- LISTEN_EXPIRY. -/
def execListenExpiry (p : Port) (s : State) : Host.Outcome State Fault Refusal := .next (listenExpiryAt p s)

/-- TRAIN_EXPIRY. -/
def execTrainExpiry (p : Port) (s : State) : Host.Outcome State Fault Refusal := .next (trainExpiryAt p s)

/-- TAKE_WITHDRAW. -/
def execTakeWithdraw (p : Port) (s : State) : Host.Outcome State Fault Refusal := .next (takeWithdrawAt p s)

end Sys2Proof.Machine
end

