-- ==== Sys2Proof/Machine/Scheduler.lean ====
section
/-! DEFINITION. The Probe Scheduler (04_probe_requests_and_engine_scheduling.md): requests, dispatch, resumption,
preemption, cancellation and power aborts. -/

namespace Sys2Proof.Machine

/-! ## Requests -/

/-- The right a probe needs in the port's mode is held (R69, check 3); LENT needs none there. -/
def PortState.mayProbe (ps : PortState) : Bool :=
  match ps.tc.f.mode with
  | .up => mayProbeLive ps.record.rights
  | .lent => true
  | _ => mayProbeIdle ps.record.rights

/-- The port has a run that is RUNNING or SUSPENDED (R69, check 5). -/
def SchedFields.hasRun (f : SchedFields) : Bool := decide (f.status = .running) || decide (f.status = .suspended)

/-- A PROBE merged into the entry of its port (R71): the pairs are united, and an URGENT request moves a ROUTINE entry
to the tail of the URGENT class. -/
def mergeEntry (q : List Entry) (p : Port) (pairs : PairSet) (cls : ReqClass) : List Entry :=
  match q.find? fun x => decide (x.port = p) with
  | none => q
  | some x =>
    let y := { x with pairs := x.pairs ||| pairs }
    match cls, x.cls with
    | .urgent, .routine => joinTail (q.filter fun z => decide (z.port ≠ p)) { y with cls := .urgent }
    | _, _ => q.map fun z => if z.port = p then y else z

/-- A PROBE that is in range is decided (R69, checks 3 to 6; R70, R71). -/
def probePort (p : Port) (pairs : PairSet) (cls : ReqClass) (s : State) : State :=
  let ps := s.port p
  if !ps.mayProbe then s.refuse .notPermitted (some p)
  else if pairs &&& ~~~ps.tc.f.powered = 0 then s.refuse .powered (some p)
  else if ps.sched.hasRun || decide (ps.tc.f.mode = .lent) then s.refuse .probeActive (some p)
  else
    match s.entryOf p with
    | some _ => ({ s with queue := mergeEntry s.queue p pairs cls }).withReply replyMerged
    | none =>
      if Config.queueSize ≤ s.queue.length then s.refuse .queueFull (some p)
      else if ps.sched.status = .wanted then
        (({ s with queue := joinTail s.queue { port := p, cls := cls, pairs := 0xF#4, suspended := none } }).schedEvent
          true p { ps.sched with status := .queued }).withReply replyMerged
      else
        (({ s with queue := joinTail s.queue { port := p, cls := cls, pairs := pairs, suspended := none } }).schedEvent
          true p { ps.sched with status := .queued }).withReply replyAccepted

/-- PROBE (R69): the port, then the arguments, then the port's own checks. -/
def probeCommand (portByte pairByte classByte : Byte) (s : State) : State :=
  match portOf? portByte.toNat with
  | none => s.refuse .badPort none
  | some p =>
    match classOf? classByte.toNat with
    | none => s.refuse .badArg (some p)
    | some cls =>
      if pairByte.toNat = 0 ∨ 16 ≤ pairByte.toNat then s.refuse .badArg (some p)
      else probePort p (pairByte.setWidth 4) cls s

/-- The Scheduler takes an auto-probe request of port `p` (R72). -/
def State.takeAutoProbe (s : State) (p : Port) : State :=
  let ps := s.port p
  if ps.sched.hasRun then s
  else
    match s.entryOf p with
    | some _ => { s with queue := s.queue.map fun z => if z.port = p then { z with pairs := 0xF#4 } else z }
    | none =>
      if ps.sched.status = .wanted then s
      else if s.queue.length < Config.queueSize then
        ({ s with queue := joinTail s.queue (routineEntry p) }).schedEvent false p { ps.sched with status := .queued }
      else s.schedEvent false p { ps.sched with status := .wanted }

/-- AUTO_PROBE_REQUEST (R72). -/
def autoProbeRequestAt (p : Port) (s : State) : State :=
  if (s.port p).autoRequests = 0 then s
  else (s.modPort p fun ps => { ps with autoRequests := ps.autoRequests - 1 }).takeAutoProbe p

/-! ## Dispatch -/

/-- The run a queued entry becomes: its powered pairs are skipped, the others are to be swept, and the settings are
latched as they stand (R75, R90). -/
def State.freshRun (s : State) (x : Entry) : Run :=
  let powered := (s.port x.port).tc.f.powered
  { port := x.port, cls := x.cls, requested := x.pairs, toSweep := x.pairs &&& ~~~powered
    skipped := x.pairs &&& powered, latched := s.settings.probe, completed := [] }

/-- The DETACH wait, 2 ms (R90). -/
def detachWait : Nat := Config.millis 2

/-- A queued entry that has left the queue and has no pair to sweep: its status becomes ABORTED with outcome POWER,
its port is not lent, and the freed place is offered (R75, step 2). -/
def State.abortPowered (s : State) (r : Run) : State :=
  (s.schedEvent false r.port
    { status := .aborted, outcome := some { cause := .power, skipped := r.skipped } }).offerPlace false

/-- The engine takes a fresh run and the Training Controller takes LEND for its port, with status RUNNING in the same
update (R75, step 3; R56; R90). A notice handed in an earlier lending concerns that lending alone. -/
def State.lendTo (s : State) (e : EngineId) (r : Run) : State :=
  let ps := s.port r.port
  ((s.assignEngine e (.attaching r detachWait)).modPort r.port fun x => { x with powerNotice := false }).event false r.port
    ps.tc.lend { ps.sched with status := .running }

/-- DISPATCH (R74, R75): with no bind open, an engine IDLE and a queued entry at the head. -/
def dispatchHead (s : State) : State :=
  if s.bound then s
  else
    match s.idleEngine, s.queue with
    | some e, x :: rest =>
      if x.suspended.isSome || decide ((s.port x.port).tc.f.mode = .lent) then s
      else
        let r := s.freshRun x
        if r.toSweep = 0 then ({ s with queue := rest }).abortPowered r
        else (({ s with queue := rest }).lendTo e r).offerPlace false
    | _, _ => s

/-- The run a suspended entry becomes again: the pairs not completed and not powered are to be swept, those not
completed and powered join the skipped pairs (R76, R93). A pair skipped before and not powered now is to be swept and
stays among the skipped, so that the run does not cover it (notes/assumptions/37.md). -/
def State.resumedRun (s : State) (x : Entry) (ctx : Suspended) : Run :=
  let powered := (s.port x.port).tc.f.powered
  let left := x.pairs &&& ~~~completedSet ctx.completed
  { port := x.port, cls := x.cls, requested := x.pairs, toSweep := left &&& ~~~powered
    skipped := ctx.skipped ||| (left &&& powered), latched := ctx.latched, completed := ctx.completed }

/-- RESUMPTION (R76, R93): with no bind open, an engine IDLE and a suspended entry at the head. While a power notice of
the port is out, its run is to be aborted and is not resumed (notes/assumptions/12.md). -/
def resumeHead (s : State) : State :=
  if s.bound then s
  else
    match s.idleEngine, s.queue with
    | some e, x :: rest =>
      match x.suspended with
      | none => s
      | some ctx =>
        if (s.port x.port).powerNotice then s
        else
          (({ s with queue := rest }).assignEngine e (s.resumedRun x ctx).nextPair).schedEvent false x.port
            { (s.port x.port).sched with status := .running }
    | _, _ => s

/-! ## Preemption -/

/-- The engine is SWEEPING a ROUTINE run (R77). -/
def Engine.preemptible : Engine → Bool
  | .sweeping r _ _ _ _ => decide (r.cls = .routine)
  | _ => false

/-- The engine whose run is preempted: of the SWEEPING ROUTINE runs, the one dispatched latest (R77). -/
def State.victim (s : State) : Option EngineId := s.order.find? fun e => (s.engine e).preemptible

/-- The suspended entry a preempted run leaves (R78, R102). -/
def Run.suspend (r : Run) : Entry :=
  { port := r.port, cls := .routine, pairs := r.requested
    suspended := some { completed := r.completed, skipped := r.skipped, latched := r.latched } }

/-- PREEMPTION (R77, R78): with no bind open, an URGENT head, no engine IDLE and a SWEEPING ROUTINE run. A head with no
pair to sweep leaves the queue instead, and no run is preempted. -/
def preemptForHead (s : State) : State :=
  if s.bound || s.idleEngine.isSome then s
  else
    match s.queue, s.victim with
    | x :: rest, some e =>
      match (s.engine e).run? with
      | none => s
      | some old =>
        if decide (x.cls ≠ .urgent) || x.suspended.isSome || decide ((s.port x.port).tc.f.mode = .lent) then s
        else
          let r := s.freshRun x
          if r.toSweep = 0 then ({ s with queue := rest }).abortPowered r
          else
            (({ s with queue := joinFrontOfRoutine rest old.suspend }).lendTo e r).schedEvent false old.port
              { (s.port old.port).sched with status := .suspended }
    | _, _ => s

/-! ## How runs end without reconciliation -/

/-- Status ABORTED with a cause and the skipped pairs, and RETURN with that outcome, as one update (R82). A RETURN that a
host command brings writes the mode, and with it the fields tied to it (R20, notes/assumptions/40.md). -/
def State.endAborted (s : State) (host : Bool) (p : Port) (cause : Ending) (skipped : PairSet) : State :=
  s.event host p (((s.port p).tc.returnPort (s.tcContext p) cause).carrying (if host then modeFields else []))
    { status := .aborted, outcome := some { cause := cause, skipped := skipped } }

/-- A suspended entry ends without an engine: it is removed with its saved results, its port is returned, and the freed
place is offered (R80, R82, R83). -/
def State.endSuspended (s : State) (host : Bool) (p : Port) (cause : Ending) (ctx : Suspended) : State :=
  ((s.dropEntry p).endAborted host p cause ctx.skipped).offerPlace host

/-- The Scheduler takes a power notice of port `p` (R83). -/
def State.takePowerNotice (s : State) (p : Port) : State :=
  match s.engineHolding p with
  | some e => s.stopOnPower p e
  | none =>
    match s.entryOf p with
    | some x =>
      match x.suspended with
      | some ctx => (s.report .powerAbort .event (some p)).endSuspended false p .power ctx
      | none => s
    | none => s

/-- POWER_NOTICE (R83): a notice still out for the port, handed while no engine held it (notes/assumptions/12.md); it acts
while the port is LENT, on the run as it then stands. -/
def powerNoticeAt (p : Port) (s : State) : State :=
  if (s.port p).powerNotice then
    let s1 := s.modPort p fun ps => { ps with powerNotice := false }
    if (s.port p).tc.f.mode = .lent then s1.takePowerNotice p else s1
  else s

/-- CANCEL of a port in range (R80). -/
def cancelPort (p : Port) (s : State) : State :=
  let ps := s.port p
  let s1 : State :=
    match s.engineHolding p with
    | some e => s.setEngine e ((s.engine e).stop .cancelled)
    | none =>
      match s.entryOf p with
      | some x =>
        match x.suspended with
        | some ctx => s.endSuspended true p .cancelled ctx
        | none => ((s.dropEntry p).schedEvent true p { ps.sched with status := .none }).offerPlace true
      | none => if ps.sched.status = .wanted then s.schedEvent true p { ps.sched with status := .none } else s
  s1.withReply replyAccepted

/-! ## The port reset in the Scheduler -/

/-- Where a port's run stands when a PORT-RESET is accepted. -/
inductive RunStanding where
  | noRun | suspended | onEngine
  deriving DecidableEq, Repr

/-- Where port `p` stands (R85). -/
def State.runStanding (s : State) (p : Port) : RunStanding :=
  if (s.engineHolding p).isSome then .onEngine
  else
    match s.entryOf p with
    | some x => if x.suspended.isSome then .suspended else .noRun
    | none => .noRun

/-- The engine holding a port that is reset goes to CLOSING with ending RESET, or replaces the ending it holds by RESET
(R85, R103). -/
def Engine.resetRun : Engine → Engine
  | .closing r _ => .closing { r with completed := [] } .reset
  | x => x.stop .reset

/-- A WANTED standing is cleared (R80, R85). -/
def PortState.clearWanted (ps : PortState) : PortState :=
  if ps.sched.status = .wanted then { ps with sched := { ps.sched with status := .none } } else ps

/-- The Scheduler's part of an accepted PORT-RESET (R85): the port's entry, run or WANTED standing is removed or
aborted, and a freed place is offered to a WANTED port other than the port itself. The promotion is the command's own
where the port has no run; where its run is SUSPENDED it follows from the run's end and waits under a bind as R18 gives
(notes/assumptions/27.md). -/
def State.resetScheduling (s : State) (p : Port) : State :=
  let s0 := s.modPort p PortState.clearWanted
  match s.engineHolding p with
  | some e => s0.setEngine e (s.engine e).resetRun
  | none =>
    match s.entryOf p with
    | some x => (s0.dropEntry p).offerPlace x.suspended.isNone
    | none => s0

/-- Every block's waiting update for the port is discarded (R20, R23). -/
def PortState.discardWaiting (ps : PortState) : PortState :=
  { ps with tcWaiting := [], schedWaiting := [], guardWaiting := false, jointWaiting := false }

/-- PORT-RESET of a port in range is accepted (R23, R85, R150): at once without a run, and with a suspended run while
no bind is open; otherwise it waits for the run's ending. -/
def portResetPort (p : Port) (s : State) : State :=
  let s1 := (s.resetScheduling p).modPort p PortState.discardWaiting
  match s.runStanding p with
  | .noRun => s1.completePortReset p false
  | .suspended =>
    if s.bound then { s1 with busy := some (.portReset p true) } else s1.completePortReset p true
  | .onEngine => { s1 with busy := some (.portReset p false) }

/-! ## The commands -/

/-- AUTO_PROBE_REQUEST. -/
def execAutoProbeRequest (p : Port) (s : State) : Host.Outcome State Fault Refusal := .next (autoProbeRequestAt p s)

/-- POWER_NOTICE. -/
def execPowerNotice (p : Port) (s : State) : Host.Outcome State Fault Refusal := .next (powerNoticeAt p s)

/-- DISPATCH. -/
def execDispatch (s : State) : Host.Outcome State Fault Refusal := .next (dispatchHead s)

/-- RESUMPTION. -/
def execResumption (s : State) : Host.Outcome State Fault Refusal := .next (resumeHead s)

/-- PREEMPTION. -/
def execPreemption (s : State) : Host.Outcome State Fault Refusal := .next (preemptForHead s)

end Sys2Proof.Machine
end

