-- ==== Sys2Proof/Machine/Engines.lean ====
section
/-! DEFINITION. The Echo Probe Engines (05_echo_probe_engines.md): what an engine makes of a sweep's echoes, how a
pair is finished, and the DETACH wait. -/

namespace Sys2Proof.Machine

/-! ## Echoes and candidates -/

/-- The coupled pair of an echo, where its coupled amplitude reaches the threshold (R95). -/
def coupledAt (threshold : Nat) (e : Echo) : Option (Pair × Nat) :=
  match e.coupled with
  | some (q, k) => if threshold ≤ k then some (q, k) else none
  | none => none

/-- The kind and the kept amplitude of a counting echo; none for an echo that does not count (R95). -/
def classifyEcho (threshold : Nat) (e : Echo) : Option (Kind × Int) :=
  match coupledAt threshold e with
  | some (q, k) => some (.cross q, (k : Int))
  | none =>
    if threshold ≤ e.amplitude.natAbs then
      if 80 ≤ e.amplitude then some (.open, e.amplitude)
      else if e.amplitude ≤ -80 then some (.short, e.amplitude)
      else if 0 < e.amplitude then some (.highZ, e.amplitude)
      else some (.lowZ, e.amplitude)
    else none

/-- The difference of two numbers, without sign. -/
def apart (a b : Nat) : Nat := (a - b) + (b - a)

/-- The candidates of a sweep under way, each with whether an echo of this sweep has matched it. -/
abbrev SweepTable := List (Candidate × Bool)

/-- A candidate an echo of this kind and index may match (R96). -/
def eligible (k : Kind) (index : Nat) (x : Candidate × Bool) : Bool :=
  decide (x.1.kind = k) && !x.2 && decide (apart x.1.index index ≤ 2)

/-- Candidate `x` is a better match than `y` for an echo at `index`: nearer, or equally near and of lower index
(R96). -/
def betterMatch (index : Nat) (x y : Candidate) : Bool :=
  decide (apart x.index index < apart y.index index)
    || (decide (apart x.index index = apart y.index index) && decide (x.index < y.index))

/-- The place in the table of the candidate an echo matches (R96). -/
def bestMatch (k : Kind) (index : Nat) : Nat → SweepTable → Option (Nat × Candidate)
  | _, [] => none
  | i, x :: rest =>
    match bestMatch k index (i + 1) rest with
    | none => if eligible k index x then some (i, x.1) else none
    | some (j, y) =>
      if eligible k index x && !betterMatch index y x.1 then some (i, x.1) else some (j, y)

/-- A candidate seen once more: consecutive sightings rise, and reaching `confirm` confirms it for good (R97). -/
def Candidate.seen (confirm : Nat) (index : Nat) (amplitude : Int) (c : Candidate) : Candidate :=
  { c with
    index := index
    amplitude := amplitude
    sightings := c.sightings + 1
    confirmed := c.confirmed || decide (confirm ≤ c.sightings + 1) }

/-- A candidate an echo makes (R96, R97). -/
def Candidate.made (confirm : Nat) (k : Kind) (index : Nat) (amplitude : Int) : Candidate :=
  { kind := k, index := index, amplitude := amplitude, sightings := 1, confirmed := decide (confirm ≤ 1) }

/-- One echo of the sweep is taken (R94 to R97): ignored below the blanking count, dropped where it does not count,
matched to a candidate, made a new one, or dropped where the table is full. -/
def takeEcho (set : ProbeSettings) (table : SweepTable) (e : Echo) : SweepTable :=
  if e.index < set.blanking then table
  else
    match classifyEcho set.threshold e with
    | none => table
    | some (k, amplitude) =>
      match bestMatch k e.index 0 table with
      | some (i, c) => table.set i (c.seen set.confirm e.index amplitude, true)
      | none =>
        if table.length < Config.candidatesPerPair then
          table ++ [(Candidate.made set.confirm k e.index amplitude, true)]
        else table

/-- At the completion of a sweep a candidate it has not matched has its sightings set to 0 (R97). -/
def afterSweep (x : Candidate × Bool) : Candidate := if x.2 then x.1 else { x.1 with sightings := 0 }

/-- The candidate table after a sweep with these echoes (R94 to R97). -/
def sweepTable (set : ProbeSettings) (table : List Candidate) (echoes : List Echo) : List Candidate :=
  (echoes.foldl (takeEcho set) (table.map fun c => (c, false))).map afterSweep

/-! ## Finishing a pair -/

/-- The distance of a sample index in decimetres (R98). -/
def distanceOf (velocity index : Nat) : Nat := index * velocity * 3 / 100

/-- The result a confirmed candidate gives (R98). -/
def Candidate.result (velocity : Nat) (c : Candidate) : Result :=
  { kind := c.kind, distance := distanceOf velocity c.index, amplitude := c.amplitude }

/-- The order of a pair's results: distance, kind code, coupled pair (R98). -/
def Result.key (r : Result) : List Nat := [r.distance, r.kind.code, r.kind.detail]

/-- The confirmed candidates as results, nearest first; the order of making decides the rest (R98). -/
def confirmedResults (set : ProbeSettings) (table : List Candidate) : List Result :=
  sortList (fun x y => keyLe x.key y.key)
    ((table.filter fun c => c.confirmed).map (Candidate.result set.velocity))

/-- A finished pair: its first four results, and MORE if there were more (R98). -/
def finishPair (set : ProbeSettings) (q : Pair) (table : List Candidate) : PairResult :=
  let all := confirmedResults set table
  { pair := q, results := all.take Config.findingsPerPair, more := decide (Config.findingsPerPair < all.length) }

/-! ## The engine -/

/-- Echoes the Probe Matrix can give at the completion of a sweep of pair `q` (R94, notes/assumptions/20.md). -/
def echoesPossible (window : Nat) (q : Pair) (echoes : List Echo) : Bool :=
  echoesAscend echoes
    && echoes.all fun e =>
      e.inRange && decide (e.index < window) && decide (e.coupled.map (fun x => x.1) ≠ some q)

/-- A sweep completes on an engine (R94, R98): the next sweep, the next pair, or CLOSING with COMPLETE. -/
def Engine.completeSweep (echoes : List Echo) : Engine → Engine
  | .sweeping r q n _ table =>
    let table' := sweepTable r.latched table echoes
    if n < r.latched.confirm + 2 then .sweeping r q (n + 1) r.latched.window table'
    else Run.nextPair { r with completed := r.completed ++ [finishPair r.latched q table'] }
  | x => x

/-- A sweep of engine `e` can complete with these echoes: its last sample has been taken (R94). -/
def State.sweepReady (s : State) (e : EngineId) (echoes : List Echo) : Bool :=
  match s.engine e with
  | .sweeping r q _ samplesLeft _ =>
    decide (samplesLeft = 0) && echoesPossible r.latched.window q echoes
  | _ => false

/-- SWEEP_COMPLETION (R94). -/
def sweepCompletionOf (e : EngineId) (echoes : List Echo) (s : State) : State :=
  if s.sweepReady e echoes then s.setEngine e ((s.engine e).completeSweep echoes) else s

/-- WAIT_EXPIRY (R92). -/
def waitExpiryOf (e : EngineId) (s : State) : State :=
  match s.engine e with
  | .attaching r 0 => (s.setEngine e ((s.engine e).stop .noDetach)).report .noDetach .event (some r.port)
  | _ => s

/-- WAIT_EXPIRY. -/
def execWaitExpiry (e : EngineId) (s : State) : Host.Outcome State Fault Refusal := .next (waitExpiryOf e s)

/-- SWEEP_COMPLETION. -/
def execSweepCompletion (e : EngineId) (echoes : List Echo) (s : State) : Host.Outcome State Fault Refusal :=
  .next (sweepCompletionOf e echoes s)

end Sys2Proof.Machine
end

