-- ==== Sys2Proof/Machine/Guard.lean ====
section
/-! DEFINITION. The Line Guard (07_line_guard.md). -/

namespace Sys2Proof.Machine

/-- The sources of a firing, in the order they are handed (R128, R129). -/
def Firing.sources : Firing → List GuardSource
  | .source x => [x]
  | .edges l => l

/-- The cause of the WITHDRAW a firing hands, if it hands one: the first source in the mask, on an armed port that is
not PARKED; never DOWNSHIFT (R128, R129). The mask is the record's, the mode and the armed flag are the Training
Controller's. -/
def PortState.withdrawCause (ps : PortState) (f : Firing) : Option GuardSource :=
  if ps.tc.f.armed && decide (ps.tc.f.mode ≠ .parked) then
    f.sources.find? fun x => sourceIn x ps.record.guardMask && decide (x ≠ .downshift)
  else none

/-- The Line Guard records a firing's last source (R128, R129): no update where the field already holds it. -/
def State.recordSource (s : State) (p : Port) (f : Firing) : State :=
  match f.sources.getLast? with
  | none => s
  | some x =>
    if (s.port p).lastSource = some x then s
    else
      (s.modPort p fun ps => { ps with lastSource := some x }).submit false p { Update.none with guard := true }

/-- The Line Guard takes one firing: it records it and hands WITHDRAW where its conditions hold (R128). -/
def State.takeFiring (s : State) (p : Port) (f : Firing) : State :=
  match (s.port p).withdrawCause f with
  | none => s.recordSource p f
  | some x => (s.recordSource p f).modPort p fun ps => { ps with withdraws := ps.withdraws ++ [x] }

/-- GUARD_FIRING (R128): the oldest firing handed for the port, taken in an event of its own after the one that handed it
(DESIGN CHOICE where R132 leaves the order of the two updates open, notes/assumptions/35.md). -/
def guardFiringAt (p : Port) (s : State) : State :=
  match (s.port p).firings with
  | f :: rest => (s.modPort p fun ps => { ps with firings := rest }).takeFiring p f
  | [] => s

/-- GUARD_FIRING. -/
def execGuardFiring (p : Port) (s : State) : Host.Outcome State Fault Refusal := .next (guardFiringAt p s)

end Sys2Proof.Machine
end

