-- ==== Sys2Proof/Machine/Findings.lean ====
section
/-! DEFINITION. Findings, their reconciliation with a run's results, and the commands on them
(06_findings_templates_and_pair_verdicts.md). -/

namespace Sys2Proof.Machine

/-! ## Order and identity -/

/-- The keys of a finding list (R108). -/
def Finding.key (f : Finding) : List Nat := [f.pair.index, f.distance, f.kind.code, f.kind.detail]

/-- The list in the order R108 gives. -/
def sortFindings (l : List Finding) : List Finding := sortList (fun x y => keyLe x.key y.key) l

/-- Two distances lie within the tolerance (R108). -/
def within (tolerance a b : Nat) : Bool := decide (a ≤ b + tolerance) && decide (b ≤ a + tolerance)

/-! ## Classification (R111) -/

/-- The template matches a result of pair `q` of port `p` at a distance (R111). -/
def Template.matchesAt (t : Template) (p : Port) (q : Pair) (distance : Nat) : Bool :=
  t.valid && decide (t.firstPort ≤ p.val) && decide (p.val ≤ t.lastPort) && pairIn q t.pairs
    && decide (t.low ≤ distance) && decide (distance ≤ t.high)

/-- A HIGH-Z or LOW-Z result a template matches becomes EXPECTED, with the lowest matching index (R111). -/
def classifyResult (templates : Vector Template 8) (p : Port) (q : Pair) (r : Result) : Result :=
  match r.kind with
  | .highZ | .lowZ =>
    match allTemplates.find? fun t => (templates[t]).matchesAt p q r.distance with
    | some t => { r with kind := .expected t }
    | none => r
  | _ => r

/-! ## Duplicates (R112) -/

/-- Two findings of one identity within the tolerance (R112). -/
def duplicates (tolerance : Nat) (f g : Finding) : Bool :=
  decide (f.kind = g.kind) && within tolerance f.distance g.distance

/-- One compaction: the first finding in list order with a partner, against its first partner; the one with fewer runs
seen is retired, or of two with equal runs the farther. None where no two findings are duplicates (R112). -/
def compactOnce (tolerance : Nat) : List Finding → Option (List Finding)
  | [] => none
  | f :: rest =>
    match rest.findIdx? (duplicates tolerance f) with
    | some i =>
      match rest[i]? with
      | some g =>
        if f.runs < g.runs || (decide (f.runs = g.runs) && decide (g.distance < f.distance)) then some rest
        else some (f :: rest.eraseIdx i)
      | none => none
    | none => (compactOnce tolerance rest).map (f :: ·)

/-- Compaction until no duplicates remain, at most `n` times (R112). -/
def compactFindings (tolerance : Nat) : Nat → List Finding → List Finding
  | 0, l => l
  | n + 1, l =>
    match compactOnce tolerance l with
    | some l' => compactFindings tolerance n l'
    | none => l

/-- The new results without those within the tolerance of an earlier kept one of the same identity (R112). -/
def collapseResults (tolerance : Nat) (l : List Result) : List Result :=
  l.foldl
    (fun kept r =>
      if kept.any fun k => decide (k.kind = r.kind) && within tolerance k.distance r.distance then kept else kept ++ [r])
    []

/-! ## Matching (R113) -/

/-- A finding and a result that may be paired, by their places, with the difference of their distances. -/
structure Pairing where
  diff : Nat
  finding : Nat
  result : Nat
  deriving DecidableEq, Repr

/-- All candidate pairings, by finding in list order and then by result nearest first (R113). -/
def candidatePairings (tolerance : Nat) (fs : List Finding) (rs : List Result) : List Pairing :=
  fs.zipIdx.flatMap fun fi =>
    rs.zipIdx.filterMap fun rj =>
      if fi.1.kind = rj.1.kind ∧ within tolerance fi.1.distance rj.1.distance = true then
        some { diff := (fi.1.distance - rj.1.distance) + (rj.1.distance - fi.1.distance), finding := fi.2, result := rj.2 }
      else none

/-- The pairings made: in ascending order of difference, each finding and each result at most once; ties go to the
finding first in the list and then to the nearer result (R113). -/
def makePairings (tolerance : Nat) (fs : List Finding) (rs : List Result) : List Pairing :=
  (sortList (fun x y => decide (x.diff ≤ y.diff)) (candidatePairings tolerance fs rs)).foldl
    (fun made x =>
      if made.any fun y => decide (y.finding = x.finding) || decide (y.result = x.result) then made else made ++ [x])
    []

/-- A matched finding: STANDING, one more run seen up to 255, at the result's distance and amplitude (R113). -/
def Finding.matched (f : Finding) (r : Result) : Finding :=
  { f with state := .standing, runs := min 255 (f.runs + 1), distance := r.distance, amplitude := r.amplitude }

/-- The result a finding was matched with. -/
def resultFor (made : List Pairing) (rs : List Result) (i : Nat) : Option Result :=
  match made.find? fun x => decide (x.finding = i) with
  | some x => rs[x.result]?
  | none => none

/-- An unmatched finding is absorbed by a matched one of its identity, fades, or is retired (R114). -/
def settleUnmatched (tolerance : Nat) (matched : List Finding) (f : Finding) : Option Finding :=
  if matched.any (duplicates tolerance f) then none
  else
    match f.state with
    | .fading => none
    | _ => some { f with state := .fading }

/-! ## One covered pair -/

/-- What matching leaves of a covered pair: the findings it keeps, in list order, and the results no finding matched,
nearest first. -/
structure PairWork where
  pair : Pair
  kept : List Finding
  fresh : List Result
  more : Bool
  deriving DecidableEq, Repr

/-- Classification, compaction, collapse, matching and settling of one covered pair (R110, step 1). -/
def matchPair (set : Settings) (templates : Vector Template 8) (p : Port) (findings : List Finding) (x : PairResult) :
    PairWork :=
  let mine := findings.filter fun f => decide (f.pair = x.pair)
  let fs := compactFindings set.tolerance mine.length mine
  let rs := collapseResults set.tolerance (x.results.map (classifyResult templates p x.pair))
  let made := makePairings set.tolerance fs rs
  let matched := fs.zipIdx.filterMap fun fi => (resultFor made rs fi.2).map fi.1.matched
  let unmatched := fs.zipIdx.filterMap fun fi => if (resultFor made rs fi.2).isSome then none else some fi.1
  { pair := x.pair
    kept := sortFindings (matched ++ unmatched.filterMap (settleUnmatched set.tolerance matched))
    fresh := rs.zipIdx.filterMap fun rj =>
      if made.any fun y => decide (y.result = rj.2) then none else some rj.1
    more := x.more }

/-- A new finding (R115). -/
def Result.newFinding (q : Pair) (r : Result) : Finding :=
  { pair := q, kind := r.kind, distance := r.distance, amplitude := r.amplitude, runs := 1, state := .fresh }

/-- The last FADING finding in list order, which is the farthest, is retired (R115). -/
def retireLastFading : List Finding → List Finding
  | [] => []
  | f :: rest =>
    if rest.any fun g => decide (g.state = .fading) then f :: retireLastFading rest
    else if f.state = .fading then rest
    else f :: rest

/-- `n` FADING findings are retired for room, farthest first (R115). -/
def makeRoom : Nat → List Finding → List Finding
  | 0, l => l
  | n + 1, l => makeRoom n (retireLastFading l)

/-- The pool while a reconciliation adds its findings: the free entries, whether it has run out, and the pairs done so
far with their findings and flags (R115 to R117). -/
structure Adding where
  free : Nat
  exhausted : Bool
  findings : List Finding
  pairs : PerPair PairAccount
  deriving DecidableEq, Repr

/-- One covered pair makes room and adds its unmatched results, nearest first, while the pool lasts (R115 to R117). -/
def addPair (acc : Adding) (w : PairWork) : Adding :=
  let room := if acc.exhausted then w.kept else makeRoom (w.kept.length + w.fresh.length - Config.findingsPerPair) w.kept
  let free := acc.free + (w.kept.length - room.length)
  let n := if acc.exhausted then 0 else min w.fresh.length free
  { free := free - n
    exhausted := acc.exhausted || decide (n < w.fresh.length)
    findings := acc.findings ++ room ++ (w.fresh.take n).map (Result.newFinding w.pair)
    pairs := acc.pairs.set w.pair
      { acc.pairs.get w.pair with probed := true, more := w.more, truncated := decide (n < w.fresh.length) } }

/-! ## The reconciliation (R110) -/

/-- The results of the pairs a run covers: those it completed, less those it skipped as powered (R81, R110). A pair skipped
at the dispatch and completed after a resumption is not covered (notes/assumptions/37.md). -/
def Run.covered (r : Run) : List PairResult := r.completed.filter fun x => !pairIn x.pair r.skipped

/-- The results of a run's covered pairs, in pair order. -/
def coveredResults (completed : List PairResult) : List PairResult :=
  Pair.all.filterMap fun q => completed.find? fun x => decide (x.pair = q)

/-- What a reconciliation of port `p` makes of the pool, the findings and the flags (R110, steps 1 to 4). -/
def State.reconciled (s : State) (p : Port) (completed : List PairResult) : Adding :=
  let r := (s.port p).record
  let covered := coveredResults completed
  let works := covered.map (matchPair s.settings s.templates p r.findings)
  let uncovered := r.findings.filter fun f => !covered.any fun x => decide (x.pair = f.pair)
  let keptCount := uncovered.length + (works.map fun w => w.kept.length).sum
  works.foldl addPair
    { free := poolFree s + r.findings.length - keptCount, exhausted := false, findings := uncovered, pairs := r.pairs }

/-- The Reconciler's update of a COMPLETE ending, with POOL-EXHAUSTED where the pool ran out (R110, R116). -/
def State.reconcile (s : State) (p : Port) (completed : List PairResult) : State :=
  let a := s.reconciled p completed
  let r := { (s.port p).record with findings := sortFindings a.findings, pairs := a.pairs }
  let s1 := s.commit p (r.rederive s.settings)
  if a.exhausted then s1.report .poolExhausted .event (some p) else s1

/-! ## Taking an ending -/

/-- The Line Guard takes a reconciliation's edges as one firing, and the Training Controller takes the WITHDRAW it
hands, while the port is still LENT (R81, R129, R133). The Line Guard's update is applied first (DESIGN CHOICE where R133
leaves the order open, notes/assumptions/35.md). -/
def State.takeRunEdges (s : State) (p : Port) (edges : List GuardSource) : State :=
  match (s.port p).withdrawCause (.edges edges) with
  | some x => (s.recordSource p (.edges edges)).takeWithdraw p x
  | none => s.recordSource p (.edges edges)

/-- A firing of verdict edges. -/
def Firing.isEdges : Firing → Bool
  | .edges _ => true
  | .source _ => false

/-- Edges of an earlier update of the port wait for the Line Guard, which takes the updates in order (R129). -/
def PortState.edgesWait (ps : PortState) : Bool := ps.firings.any Firing.isEdges

/-- TAKE_ENDING_COMPLETE (R81): reconciliation of the covered pairs, the Line Guard, then DONE and the return as one
update. The skipped pairs stand as they are and are listed in the outcome (R81, R110). -/
def takeEndingCompleteOf (e : EngineId) (s : State) : State :=
  match s.engine e with
  | .closing r .complete =>
    if s.bound || (s.port r.port).edgesWait then s
    else
      let s1 := s.reconcile r.port r.covered
      let s2 := s1.takeRunEdges r.port (verdictEdges (s.port r.port).record (s1.port r.port).record)
      (s2.releaseEngine e).event false r.port ((s2.port r.port).tc.returnPort (s2.tcContext r.port) .complete)
        { status := .done, outcome := some { cause := .complete, skipped := r.skipped } }
  | _ => s

/-- TAKE_ENDING_ABORTED (R82): the endings CANCELLED, POWER and NO-DETACH. -/
def takeEndingAbortedOf (e : EngineId) (s : State) : State :=
  match s.engine e with
  | .closing r ending =>
    match ending with
    | .complete => s
    | .reset => s
    | _ => if s.bound then s else (s.releaseEngine e).endAborted false r.port ending r.skipped
  | _ => s

/-- TAKE_ENDING_RESET (R23, R85): the engine becomes IDLE and the port's reset update completes the PORT-RESET. -/
def takeEndingResetOf (e : EngineId) (s : State) : State :=
  match s.engine e with
  | .closing r .reset => if s.bound then s else (s.releaseEngine e).completePortReset r.port true
  | _ => s

/-! ## The host's commands on findings -/

/-- A change of a port's findings outside a run is applied with the verdicts derived again, and its verdict edges are
handed to the Line Guard (R119, R120). -/
def State.changeFindings (s : State) (p : Port) (r : LineRecord) : State :=
  let s1 := s.commit p (r.rederive s.settings)
  match verdictEdges (s.port p).record (s1.port p).record with
  | [] => s1
  | edges => s1.modPort p fun ps => { ps with firings := ps.firings ++ [.edges edges] }

/-- RETIRE (R122). -/
def retireCommand (portByte indexByte : Byte) (s : State) : State :=
  match portOf? portByte.toNat with
  | none => s.refuse .badPort none
  | some p =>
    let r := (s.port p).record
    if indexByte.toNat < r.findings.length then
      (s.changeFindings p { r with findings := r.findings.eraseIdx indexByte.toNat }).withReply replyAccepted
    else s.refuse .notFound (some p)

/-- A pair's account with its flags cleared (R123). -/
def PairAccount.clearFlags (x : PairAccount) : PairAccount := { x with probed := false, more := false, truncated := false }

/-- CLEAR-FINDINGS (R123). -/
def clearFindingsCommand (portByte : Byte) (s : State) : State :=
  match portOf? portByte.toNat with
  | none => s.refuse .badPort none
  | some p =>
    let r := (s.port p).record
    (s.changeFindings p
      { r with findings := [], pairs := .build fun q => (r.pairs.get q).clearFlags }).withReply replyAccepted

/-! ## The commands -/

/-- TAKE_ENDING_COMPLETE. -/
def execTakeEndingComplete (e : EngineId) (s : State) : Host.Outcome State Fault Refusal :=
  .next (takeEndingCompleteOf e s)

/-- TAKE_ENDING_ABORTED. -/
def execTakeEndingAborted (e : EngineId) (s : State) : Host.Outcome State Fault Refusal := .next (takeEndingAbortedOf e s)

/-- TAKE_ENDING_RESET. -/
def execTakeEndingReset (e : EngineId) (s : State) : Host.Outcome State Fault Refusal := .next (takeEndingResetOf e s)

end Sys2Proof.Machine
end

