-- ==== Sys2Proof/Machine/Link.lean ====
section
/-! DEFINITION. The Line Signal Link's commands (02_line_signal_link.md): receiving a frame, falling silent, and
sending frames. -/

namespace Sys2Proof.Machine

/-- The silence limit, 1 ms (R24). -/
def silenceLimit : Nat := Config.millis 1

/-- The silence timer of a LINKED group starts again from zero, and a SILENT group becomes LINKED (R24, R25). -/
def GroupLink.heard (g : GroupLink) : GroupLink := { g with linked := true, silence := some silenceLimit }

/-- The relink message is placed on a port's transmit list (R33). -/
def PortState.relinked (ps : PortState) : PortState := { ps with transmit := ps.transmit ++ [ps.agreeing] }

/-- A SILENT group is relinked: one message for each of its ports, chosen by the port's mode (R33). -/
def State.relinkPorts (s : State) (g : Group) : State :=
  allIndexes.foldl (fun t i => t.modPort (portAt g i) PortState.relinked) s

/-- A group hears a valid frame (R24, R25, R33). -/
def State.hear (s : State) (g : Group) : State :=
  if (s.group g).linked then s.setGroup g (s.group g).heard
  else (s.setGroup g (s.group g).heard).relinkPorts g

/-- A message is placed in the inbox of a port (R27). -/
def State.place (s : State) (p : Port) (m : Inbound) : State :=
  s.modPort p fun ps => { ps with inbox := ps.inbox.place m }

/-- A frame is received on group `g` (R25, R26): one that is not valid is discarded; a valid one is heard, and then its
message, if it carries one, is placed in the inbox of the port it names. -/
def receiveFrame (g : Group) (bytes : List Byte) (s : State) : State :=
  match judgeFrame bytes with
  | none => s
  | some f =>
    match messageOf? f with
    | none => s.hear g
    | some m => (s.hear g).place (portAt g f.index) m

/-- What silence does to one port: its transmit list is emptied, and ENERGY absent and POWER on every pair without
fault are placed (R32). -/
def PortState.silenced (ps : PortState) : PortState :=
  { ps with
    transmit := []
    inbox := (ps.inbox.place (.energy false)).place (.power 0xF#4 false) }

/-- The silence timer of a LINKED group has run out: the group becomes SILENT (R32). -/
def silenceExpiryOf (g : Group) (s : State) : State :=
  if (s.group g).linked && decide ((s.group g).silence = some 0) then
    allIndexes.foldl (fun t i => t.modPort (portAt g i) PortState.silenced)
      (s.setGroup g { s.group g with linked := false, silence := none })
  else s

/-- A frame is sent on a group: it is on the wire, and the idle frame timer starts again (R25). -/
def GroupLink.send (g : GroupLink) (frame : List Byte) : GroupLink :=
  { g with sent := some frame, idle := Config.idlePeriod }

/-- An idle frame has fallen due and is sent, in either state of the group (R25). -/
def idleFrameSendOf (g : Group) (s : State) : State :=
  if (s.group g).idle = 0 then s.setGroup g ((s.group g).send idleFrame) else s

/-- The indexes in the order in which the lists are served, from `start` on, wrapping from 7 to 0 (R29). -/
def servingOrder (start : GroupIndex) : List GroupIndex := allIndexes.map fun i => start + i

/-- The index served next: the first from the turn on whose list holds a message (R29). -/
def State.serves? (s : State) (g : Group) : Option GroupIndex :=
  (servingOrder (s.group g).turn).find? fun i => !(s.port (portAt g i)).transmit.isEmpty

/-- The group sends the head of the next port's list and removes it (R29). A due idle frame goes first. -/
def transmitMessageOf (g : Group) (s : State) : State :=
  if (s.group g).idle = 0 then s
  else
    match s.serves? g with
    | none => s
    | some i =>
      match (s.port (portAt g i)).transmit with
      | [] => s
      | m :: rest =>
        (s.modPort (portAt g i) fun ps => { ps with transmit := rest }).setGroup g
          { (s.group g).send (messageFrame i m) with turn := i + 1 }

/-- FRAME_RECEIVE. -/
def execFrameReceive (g : Group) (bytes : List Byte) (s : State) : Host.Outcome State Fault Refusal :=
  .next (receiveFrame g bytes s)

/-- SILENCE_EXPIRY. -/
def execSilenceExpiry (g : Group) (s : State) : Host.Outcome State Fault Refusal := .next (silenceExpiryOf g s)

/-- IDLE_FRAME_SEND. -/
def execIdleFrameSend (g : Group) (s : State) : Host.Outcome State Fault Refusal := .next (idleFrameSendOf g s)

/-- TRANSMIT_MESSAGE. -/
def execTransmitMessage (g : Group) (s : State) : Host.Outcome State Fault Refusal := .next (transmitMessageOf g s)

end Sys2Proof.Machine
end

