-- ==== Sys2Proof/Machine/Operands.lean ====
section
/-! DEFINITION. Every operand form of the Management Port: the decoding of a COMMAND-WRITE by its opcode and the page
(R146, R170), the checks on operands, and the checks on written bytes (R143, R144, R157, R158, R171). -/

namespace Sys2Proof.Machine

/-! ## Command transactions -/

/-- The commands of R146's table, each with its operand bytes (R170). -/
inductive HostCommand where
  | setCursor (port offset : Byte)
  | setWalk (mode : Byte)
  | setPage (page : Byte)
  | bind (n : Byte)
  | aim (port n : Byte)
  | readError
  | clearError
  | takeChange
  | search (kind value start : Byte)
  | deviceReset
  | park (port : Byte)
  | unpark (port : Byte)
  | restart (port : Byte)
  | rearm (port : Byte)
  | portReset (port : Byte)
  | probe (port pairs cls : Byte)
  | cancel (port : Byte)
  | retire (port index : Byte)
  | clearFindings (port : Byte)
  deriving DecidableEq, Repr

/-- What a COMMAND-WRITE is decoded to (R146). -/
inductive Decoded where
  | taken (c : HostCommand)
  | unknown
  | short
  deriving DecidableEq, Repr

/-- A command with no operand. -/
def needs0 (c : HostCommand) : Decoded := .taken c

/-- A command with one operand byte; bytes beyond it are ignored (R146). -/
def needs1 (f : Byte → HostCommand) : List Byte → Decoded
  | a :: _ => .taken (f a)
  | _ => .short

/-- A command with two operand bytes. -/
def needs2 (f : Byte → Byte → HostCommand) : List Byte → Decoded
  | a :: b :: _ => .taken (f a b)
  | _ => .short

/-- A command with three operand bytes. -/
def needs3 (f : Byte → Byte → Byte → HostCommand) : List Byte → Decoded
  | a :: b :: c :: _ => .taken (f a b c)
  | _ => .short

/-- The command an opcode names on a page, with the operand bytes that follow (R146). -/
def decodeOpcode (page1 : Bool) (opcode : Nat) (operands : List Byte) : Decoded :=
  match opcode with
  | 0x01 => needs2 .setCursor operands
  | 0x02 => needs1 .setWalk operands
  | 0x03 => needs1 .setPage operands
  | 0x04 => needs1 .bind operands
  | 0x05 => needs2 .aim operands
  | 0x06 => needs0 .readError
  | 0x07 => needs0 .clearError
  | 0x08 => needs0 .takeChange
  | 0x09 => needs3 .search operands
  | 0x0F => needs0 .deviceReset
  | 0x10 => if page1 then needs3 .probe operands else needs1 .park operands
  | 0x11 => if page1 then needs1 .cancel operands else needs1 .unpark operands
  | 0x12 => if page1 then needs2 .retire operands else needs1 .restart operands
  | 0x13 => if page1 then needs1 .clearFindings operands else needs1 .rearm operands
  | 0x14 => if page1 then .unknown else needs1 .portReset operands
  | _ => .unknown

/-- A COMMAND-WRITE decoded from the bytes after its control byte: without an opcode byte it is short (R137, R146). -/
def decodeCommand (page1 : Bool) : List Byte → Decoded
  | [] => .short
  | op :: operands => decodeOpcode page1 op.toNat operands

/-- READ-ERROR, CLEAR-ERROR and DEVICE-RESET pass the jam check (R165). -/
def passesJam : List Byte → Bool
  | op :: _ => decide (op.toNat = 0x06) || decide (op.toNat = 0x07) || decide (op.toNat = 0x0F)
  | [] => false

/-! ## Operand checks -/

/-- The last offset of a cursor port; none outside 0 to 50 (R140). -/
def lastOffset? (port : Nat) : Option Nat :=
  if port < 48 then some 135
  else if port = 48 then some 15
  else if port = 49 then some 63
  else if port = 50 then some 95
  else none

/-- The cursor lies within the ranges of R140. -/
def Cursor.inRange (c : Cursor) : Bool :=
  match lastOffset? c.port with
  | some last => decide (c.offset ≤ last)
  | none => false

/-- The walk mode a walk byte names (R170). -/
def walkOf? (b : Byte) : Option Walk :=
  if b.toNat < 4 then some { byPort := b.getLsbD 0, down := b.getLsbD 1 } else none

/-- The page an operand names (R146). -/
def pageOf? (b : Byte) : Option Bool :=
  if b = 0x00#8 then some false else if b = 0x01#8 then some true else none

/-- A bind length, 1 to 32 (R151). -/
def bindLength? (b : Byte) : Option Nat := if 1 ≤ b.toNat ∧ b.toNat ≤ 32 then some b.toNat else none

/-- The largest value of a SEARCH kind (R149). -/
def SearchKind.lastValue : SearchKind → Nat
  | .mode => 6
  | .verdict => 5
  | .probeStatus => 6
  | .heldCause => 6
  | .findingCount => 16

/-! ## Written bytes -/

/-- What becomes of a written byte (R143, R144): refused, kept in the write hold, or applied to the settings, the
templates or one of the three fields of a record. -/
inductive WriteEffect where
  | readOnly
  | badValue
  | hold
  | settings (set : Settings)
  | template (t : TemplateId) (x : Template)
  | offer (p : Port) (v : RateSet)
  | rights (p : Port) (v : BitVec 4)
  | guardMask (p : Port) (v : BitVec 5)
  deriving DecidableEq, Repr

/-- A value checked against a range. -/
def ifInRange (low high n : Nat) (ok : WriteEffect) : WriteEffect :=
  if low ≤ n ∧ n ≤ high then ok else .badValue

/-- A byte written to port `p`'s record (R4, R6, R143, R171). -/
def writeRecord (p : Port) (offset : Nat) (b : Byte) : WriteEffect :=
  match offset with
  | 2 => ifInRange 0 0x0F b.toNat (.offer p (b.setWidth 4))
  | 3 => ifInRange 0 0x0F b.toNat (.rights p (b.setWidth 4))
  | 4 => ifInRange 0 0x1F b.toNat (.guardMask p (b.setWidth 5))
  | _ => .readOnly

/-- Two bytes as one value, the low byte from the write hold (R144). -/
def joined (hold b : Byte) : Nat := b.toNat * 256 + hold.toNat

/-- A byte written to the Operating Settings (R143, R144, R157, R171). -/
def writeSetting (set : Settings) (hold : Byte) (offset : Nat) (b : Byte) : WriteEffect :=
  match offset with
  | 0 => .hold
  | 1 => ifInRange 64 2047 (joined hold b) (.settings { set with probe := { set.probe with window := joined hold b } })
  | 2 => ifInRange 0 63 b.toNat (.settings { set with probe := { set.probe with blanking := b.toNat } })
  | 3 => ifInRange 2 50 b.toNat (.settings { set with probe := { set.probe with threshold := b.toNat } })
  | 4 =>
    let tries := b.toNat % 8
    let confirm := b.toNat / 16
    if 1 ≤ tries ∧ b.getLsbD 3 = false ∧ 1 ≤ confirm ∧ confirm ≤ 4 then
      .settings { set with tries := tries, probe := { set.probe with confirm := confirm } }
    else .badValue
  | 5 => ifInRange 60 80 b.toNat (.settings { set with probe := { set.probe with velocity := b.toNat } })
  | 6 => ifInRange 1 15 b.toNat (.settings { set with tolerance := b.toNat })
  | 7 => ifInRange 5 60 b.toNat (.settings { set with marginal := b.toNat })
  | 8 => ifInRange 0 63 b.toNat (.settings { set with skewLimit := b.toNat })
  | 9 => .hold
  | 10 => ifInRange 100 5000 (joined hold b) (.settings { set with listen := joined hold b })
  | 11 => .settings { set with lowWater := b.toNat }
  | 12 =>
    if b.getLsbD 0 = true ∧ b.toNat < 8 then
      .settings { set with alertChg := b.getLsbD 1, alertLow := b.getLsbD 2 }
    else .badValue
  | _ => .readOnly

/-- A byte written to template `t` (R143, R144, R158, R171). -/
def writeTemplate (t : TemplateId) (x : Template) (hold : Byte) (offset : Nat) (b : Byte) : WriteEffect :=
  match offset with
  | 0 => ifInRange 0 1 b.toNat (.template t { x with valid := b.getLsbD 0 })
  | 1 => ifInRange 0 0x0F b.toNat (.template t { x with pairs := b.setWidth 4 })
  | 2 => ifInRange 0 47 b.toNat (.template t { x with firstPort := b.toNat })
  | 3 => ifInRange 0 47 b.toNat (.template t { x with lastPort := b.toNat })
  | 4 => .hold
  | 5 => ifInRange 0 65534 (joined hold b) (.template t { x with low := joined hold b })
  | 6 => .hold
  | 7 => ifInRange 0 65534 (joined hold b) (.template t { x with high := joined hold b })
  | _ => .readOnly

/-- The template a pseudo-port 49 offset lies in (R142). -/
def templateAt (offset : Nat) : TemplateId := ⟨offset / 8 % 8, by omega⟩

/-- A byte written at the cursor (R143). -/
def State.writeEffect (s : State) (b : Byte) : WriteEffect :=
  match portOf? s.cursor.port with
  | some p => writeRecord p s.cursor.offset b
  | none =>
    if s.cursor.port = 48 then writeSetting s.settings s.writeHold s.cursor.offset b
    else if s.cursor.port = 49 then
      writeTemplate (templateAt s.cursor.offset) (s.templates[templateAt s.cursor.offset]) s.writeHold
        (s.cursor.offset % 8) b
    else .readOnly

end Sys2Proof.Machine
end

