-- ==== Sys2Proof/Machine/Images.lean ====
section
/-! DEFINITION. The bytes the host sees: the record space (R142, R171), the status image (R139) and the Error Slot
image (R166, R170). Each image is written as the list of its bytes from offset 0. -/

namespace Sys2Proof.Machine

/-! ## Line Record image -/

/-- A two-byte field, low byte first. -/
def twoBytes (n : Nat) : List Byte := [lowByte n, highByte n]

/-- The partner set: bits 0 to 3 rates, bit 7 present (R171). -/
def partnerByte : Option RateSet → Byte
  | none => 0x00#8
  | some r => byte (128 + r.toNat)

/-- The flags byte of offset 11 (R171). -/
def flagsByte (f : TcFields) : Byte :=
  byte (flag f.armed 1 + flag f.autoSpent 2 + flag f.energy 4 + flag f.powerFault 8)

/-- The probe outcome byte of offset 16 (R171). -/
def outcomeByte : Option ProbeOutcome → Byte
  | none => 0x00#8
  | some o => byte (o.cause.code + 16 * o.skipped.toNat)

/-- A pair status byte (R171). -/
def pairByte (x : PairAccount) : Byte :=
  byte (x.verdict.code + 8 * reasonCode x.reason + flag x.probed 32 + flag x.more 64 + flag x.truncated 128)

/-- A fault distance; absent reads 0FFFFh (R171). -/
def distanceBytes : Option Nat → List Byte
  | none => [0xFF#8, 0xFF#8]
  | some d => twoBytes d

/-- A skew; absent reads 0FFh (R171). -/
def skewByte : Option Nat → Byte
  | none => noneByte
  | some k => byte k

/-- The polarity byte of offset 33: bits 0 to 3 present, bits 4 to 7 inverted (R171). -/
def polarityByte (v : PerPair (Option Bool)) : Byte :=
  byte ((Pair.all.map fun q => flag (v.get q).isSome (2 ^ q.index) + flag ((v.get q).getD false) (2 ^ (q.index + 4))).sum)

/-- The return mode as the host reads it: DARK while the mode is not LENT (R2, R171). -/
def returnModeShown (f : TcFields) : ReturnMode := if f.mode = .lent then f.returnMode else .dark

/-- Offsets 0 to 39 of a record image (R171). -/
def recordFields (r : LineRecord) : List Byte :=
  [byte r.tc.mode.code, byte (returnModeShown r.tc).mode.code, byte r.offer.toNat, byte r.rights.toNat, byte r.guardMask.toNat,
   byte r.effectiveOffer.toNat, byte r.tc.struck.toNat, rateByte r.ceiling, partnerByte r.tc.partner,
   rateByte r.tc.resolved, byte r.tc.attempts, flagsByte r.tc, byte (heldCauseCode r.tc.heldCause),
   byte (sourceCode r.lastSource), byte r.tc.powered.toNat, byte r.sched.status.code, outcomeByte r.sched.outcome]
  ++ r.pairs.toList.map pairByte
  ++ r.pairs.toList.flatMap (fun x => distanceBytes x.faultDistance)
  ++ r.tc.skew.toList.map skewByte
  ++ [polarityByte r.tc.polarity, byte r.tc.swap.code, byte r.findings.length]
  ++ twoBytes r.generation.toNat
  ++ [0x00#8, 0x00#8]

/-- A finding slot's six bytes (R171). -/
def slotBytes : Option Finding → List Byte
  | none => [0, 0, 0, 0, 0, 0]
  | some f =>
    [byte (f.kind.code + 16 * f.state.code + 64 * f.pair.index), byte f.kind.detail, lowByte f.distance,
     highByte f.distance, BitVec.ofInt 8 f.amplitude, byte f.runs]

/-- A record image, offsets 0 to 135 (R1, R142). -/
def recordImage (r : LineRecord) : List Byte :=
  recordFields r ++ (List.range Config.findingsPerPort).flatMap fun k => slotBytes r.findings[k]?

/-! ## Pseudo-ports -/

/-- The Operating Settings image by the offset table of R171 and the defaults of R157; R171's list of their bytes at device
reset has one byte more than there are offsets (notes/assumptions/36.md). -/
def settingsImage (s : State) : List Byte :=
  let x := s.settings
  twoBytes x.probe.window
  ++ [byte x.probe.blanking, byte x.probe.threshold, byte (x.tries + 16 * x.probe.confirm), byte x.probe.velocity,
      byte x.tolerance, byte x.marginal, byte x.skewLimit]
  ++ twoBytes x.listen
  ++ [byte x.lowWater, byte (1 + flag x.alertChg 2 + flag x.alertLow 4), byte s.queue.length]
  ++ twoBytes (poolFree s)

/-- A template's eight bytes (R171). -/
def templateBytes (t : Template) : List Byte :=
  [byte (flag t.valid 1), byte t.pairs.toNat, byte t.firstPort, byte t.lastPort] ++ twoBytes t.low ++ twoBytes t.high

/-- The templates image (R142). -/
def templatesImage (s : State) : List Byte := s.templates.toList.flatMap templateBytes

/-- A queue slot of the scheduler view (R87, R171). -/
def queueSlotBytes : Option Entry → List Byte
  | none => [noneByte, 0, 0, 0, 0]
  | some x =>
    [byte x.port.val, byte x.cls.code, byte (flag x.suspended.isSome 1), byte x.pairs.toNat,
     match x.suspended with
     | some ctx => byte (completedSet ctx.completed).toNat
     | none => 0]

/-- An engine's four bytes of the scheduler view (R105, R171). -/
def engineBytes : Engine → List Byte
  | .idle => [0x00#8, noneByte, noneByte, 0]
  | .attaching r _ => [byte (1 + 16 * r.cls.code), byte r.port.val, noneByte, 0]
  | .sweeping r q n _ _ => [byte (2 + 16 * r.cls.code), byte r.port.val, byte q.index, byte n]
  | .closing r _ => [byte (3 + 16 * r.cls.code), byte r.port.val, noneByte, 0]

/-- The scheduler view (R87, R105). -/
def schedulerImage (s : State) : List Byte :=
  ((List.range Config.queueSize).flatMap fun k => queueSlotBytes s.queue[k]?) ++ s.engines.toList.flatMap engineBytes

/-! ## Reading at the cursor -/

/-- The image of a cursor port as it stands (R142). -/
def State.image (s : State) (port : Nat) : List Byte :=
  match portOf? port with
  | some p => recordImage (s.port p).record
  | none =>
    if port = 48 then settingsImage s
    else if port = 49 then templatesImage s
    else schedulerImage s

/-- The byte at a place of the record space, as it stands. -/
def State.byteAt (s : State) (c : Cursor) : Byte := (s.image c.port).getD c.offset 0

/-- The offset is the low byte of a two-byte field: the fault distances and the generation of a record, the distance of
each finding slot, window, listen and the pool free count, the distances of a template (R144, R171). -/
def isLowByte (port offset : Nat) : Bool :=
  if port < 48 then
    if offset < 40 then [21, 23, 25, 27, 36].contains offset else decide ((offset - 40) % 6 = 2)
  else if port = 48 then [0, 9, 14].contains offset
  else if port = 49 then decide (offset % 8 = 4) || decide (offset % 8 = 6)
  else false

/-- The offset is the high byte of a two-byte field. -/
def isHighByte (port offset : Nat) : Bool := decide (0 < offset) && isLowByte port (offset - 1)

/-- The byte a DATA-READ returns at the cursor (R142, R145). -/
def State.readValue (s : State) : Byte :=
  if isHighByte s.cursor.port s.cursor.offset then s.readHold else s.byteAt s.cursor

/-- The read hold after a DATA-READ byte at the cursor (R145). -/
def State.readHoldAfter (s : State) : Byte :=
  if isLowByte s.cursor.port s.cursor.offset then
    s.byteAt { port := s.cursor.port, offset := s.cursor.offset + 1 }
  else s.readHold

/-! ## Status and error images -/

/-- The status image: the status byte, the cursor and the reply area (R139). -/
def statusImage (s : State) : List Byte :=
  statusByte s :: byte s.cursor.port :: byte s.cursor.offset :: s.reply.toList

/-- The first `n` bytes of the status image, with 00h for every further byte (R139). -/
def statusBytes (s : State) (n : Nat) : List Byte :=
  (statusImage s).take n ++ List.replicate (n - (statusImage s).length) 0

/-- The slot flags byte (R170). -/
def slotFlags (x : ErrorSlot) : Byte :=
  byte
    (flag (decide (x.first.map (fun f => f.origin) = some .event)) 1
      + flag ((x.first.map fun f => f.cause.retry).getD false) 2 + flag x.second.isSome 4 + flag x.jammed 8
      + flag (decide (x.second.map (fun f => f.origin) = some .event)) 16)

/-- The port byte of an Error Slot image: 0FFh for none (R170). -/
def errorPortByte (x : ErrorSlot) : Byte :=
  match x.first with
  | some f =>
    match f.port with
    | some p => byte p.val
    | none => noneByte
  | none => noneByte

/-- The reply of READ-ERROR (R166, R170). -/
def replyError (x : ErrorSlot) : Vector Byte 8 :=
  #v[0x00, byte ((x.first.map fun f => f.cause.code).getD 0), errorPortByte x, slotFlags x,
     byte ((x.second.map fun f => f.cause.code).getD 0), 0, 0, 0]

end Sys2Proof.Machine
end

