-- ==== Sys2Proof/Machine/Management.lean ====
section
/-! DEFINITION. The Management Port (08_management_port.md): how a transaction is judged, what each host command does,
data bytes and the walk of the cursor, status reads, binds and their ends, and the SEARCH scan. -/

namespace Sys2Proof.Machine

/-! ## Judging a transaction -/

/-- The judgment of a transaction (R138, R159, R165). A command that passes the jam check meets the BUSY check. -/
def State.judge (s : State) (passes : Bool) : Judgment :=
  if s.inReset then .inReset
  else if s.errors.jammed && !passes then .jammed
  else if s.busy.isSome then .busy
  else .taken

/-! ## The Management Port's own commands -/

/-- SET-CURSOR (R140). -/
def setCursorCommand (port offset : Byte) (s : State) : State :=
  let c : Cursor := { port := port.toNat, offset := offset.toNat }
  if c.inRange then ({ s with cursor := c }).withReply replyAccepted else s.refuse .badArg none

/-- SET-WALK (R141). -/
def setWalkCommand (mode : Byte) (s : State) : State :=
  match walkOf? mode with
  | some w => ({ s with walk := w }).withReply replyAccepted
  | none => s.refuse .badArg none

/-- SET-PAGE (R146). -/
def setPageCommand (page : Byte) (s : State) : State :=
  match pageOf? page with
  | some b => ({ s with page := b }).withReply replyAccepted
  | none => s.refuse .badArg none

/-- BIND (R151): the accepted command opens or restarts the bind in place of counting. -/
def bindCommand (n : Byte) (s : State) : State :=
  match bindLength? n with
  | some k => (s.openBind k).withReply replyAccepted
  | none => (s.refuse .badArg none).countAccess

/-- An aim of `k` accesses at a cursor port: the cursor is saved unless a restore is pending, set to (port, 0), and the
bind opens or restarts (R154). -/
def State.aimAt (s : State) (port k : Nat) : State :=
  ({ s with saved := some (s.saved.getD s.cursor), cursor := { port := port, offset := 0 } }).openBind k

/-- AIM (R154). -/
def aimCommand (port n : Byte) (s : State) : State :=
  match lastOffset? port.toNat, bindLength? n with
  | some _, some k => (s.aimAt port.toNat k).withReply replyAccepted
  | _, _ => (s.refuse .badArg none).countAccess

/-- READ-ERROR (R166). -/
def readErrorCommand (s : State) : State := s.withReply (replyError s.errors)

/-- CLEAR-ERROR (R167). -/
def clearErrorCommand (s : State) : State := ({ s with errors := .empty }).withReply replyAccepted

/-- The lowest-numbered port of the change set (R15). -/
def State.firstChanged (s : State) : Option Port := allPorts.find? fun p => (s.port p).inChangeSet

/-- TAKE-CHANGE (R16). -/
def takeChangeCommand (s : State) : State :=
  match s.firstChanged with
  | some p =>
    (s.modPort p fun ps => { ps with inChangeSet := false }).withReply
      (replyPort (some (p, (s.port p).record.generation)))
  | none => s.withReply (replyPort none)

/-- SEARCH (R149): the start port, then the kind and the value; accepted, it begins a scan and writes no reply yet. -/
def searchCommand (kind value start : Byte) (s : State) : State :=
  match portOf? start.toNat with
  | none => s.refuse .badPort none
  | some p =>
    match searchKindOf? kind.toNat with
    | some k =>
      if value.toNat ≤ k.lastValue then { s with busy := some (.search k value.toNat p.val none) }
      else s.refuse .badArg none
    | none => s.refuse .badArg none

/-! ## Commands handed on -/

/-- A command on one port: a port outside 0 to 47 is refused with BAD-PORT (R146). -/
def onPort (portByte : Byte) (f : Port → State → State) (s : State) : State :=
  match portOf? portByte.toNat with
  | some p => f p s
  | none => s.refuse .badPort none

/-- A host command on the Training Controller's machine of a port, accepted (R20, R38). -/
def State.machineCommand (s : State) (p : Port) (out : TcEffect) : State := (s.tcEvent true p out).withReply replyAccepted

/-- PARK of a port in range (R60). -/
def parkPort (p : Port) (s : State) : State := s.machineCommand p (s.port p).tc.park

/-- UNPARK of a port in range (R61). -/
def unparkPort (p : Port) (s : State) : State := s.machineCommand p ((s.port p).tc.unpark (s.tcContext p))

/-- RESTART of a port in range (R62). -/
def restartPort (p : Port) (s : State) : State :=
  match (s.port p).tc.restart? (s.tcContext p) with
  | some out => s.machineCommand p out
  | none => s.refuse .notPermitted (some p)

/-- REARM of a port in range (R63). -/
def rearmPort (p : Port) (s : State) : State := s.machineCommand p ((s.port p).tc.rearm (s.tcContext p))

/-! ## One command transaction -/

/-- A decoded command is carried out by the block its rule names, and the access is counted; BIND and AIM count
themselves, and no bind survives DEVICE-RESET (R146, R152, R159). -/
def performCommand (c : HostCommand) (s : State) : State :=
  match c with
  | .bind n => bindCommand n s
  | .aim port n => aimCommand port n s
  | .deviceReset => s.beginDeviceReset
  | .setCursor port offset => (setCursorCommand port offset s).countAccess
  | .setWalk mode => (setWalkCommand mode s).countAccess
  | .setPage page => (setPageCommand page s).countAccess
  | .readError => (readErrorCommand s).countAccess
  | .clearError => (clearErrorCommand s).countAccess
  | .takeChange => (takeChangeCommand s).countAccess
  | .search kind value start => (searchCommand kind value start s).countAccess
  | .park port => (onPort port parkPort s).countAccess
  | .unpark port => (onPort port unparkPort s).countAccess
  | .restart port => (onPort port restartPort s).countAccess
  | .rearm port => (onPort port rearmPort s).countAccess
  | .portReset port => (onPort port portResetPort s).countAccess
  | .probe port pairs cls => (probeCommand port pairs cls s).countAccess
  | .cancel port => (onPort port cancelPort s).countAccess
  | .retire port index => (retireCommand port index s).countAccess
  | .clearFindings port => (clearFindingsCommand port s).countAccess

/-- What a COMMAND-WRITE is decoded to is carried out, or refused (R146). -/
def carryOut (d : Decoded) (s : State) : State :=
  match d with
  | .taken c => performCommand c s
  | .unknown => (s.refuse .unknownCmd none).countAccess
  | .short => (s.refuse .shortFrame none).countAccess

/-- A COMMAND-WRITE is taken at the rising of CSn, given by the bytes after its control byte (R137, R138). -/
def commandWrite (bytes : List Byte) (s : State) : State :=
  let t := { s with transfer := none }
  match t.judge (passesJam bytes) with
  | .inReset => t
  | .jammed => t.countAccess
  | .busy => (t.refuse .busy none).countAccess
  | .taken => carryOut (decodeCommand t.page bytes) t

/-! ## Data bytes -/

/-- An offset stepped within 0 to `last`, wrapping (R141). -/
def stepWithin (down : Bool) (last n : Nat) : Nat :=
  if down then if n = 0 then last else n - 1 else if last ≤ n then 0 else n + 1

/-- The cursor after one data byte (R141). -/
def Cursor.walked (w : Walk) (c : Cursor) : Cursor :=
  if w.byPort && decide (c.port < 48) then { c with port := stepWithin w.down 47 c.port }
  else { c with offset := stepWithin w.down ((lastOffset? c.port).getD 0) c.offset }

/-- The cursor walks (R141). -/
def State.walkCursor (s : State) : State := { s with cursor := s.cursor.walked s.walk }

/-- A data transaction begins: it is judged at its control byte (R138). -/
def beginTransfer (write : Bool) (s : State) : State :=
  { s with transfer := some { write := write, judgment := s.judge false, raised := false, fetched := none } }

/-- The data transaction raises its one error, if it has raised none (R138, R143). -/
def State.raiseOnce (s : State) (t : Transfer) (c : Cause) (p : Option Port) : State :=
  if t.raised then s else { s.report c .command p with transfer := some { t with raised := true } }

/-- The host is given a byte on SDO. -/
def State.shiftOut (s : State) (b : Byte) : State := { s with sdo := s.sdo ++ [b] }

/-- The byte under way of a DATA-READ and the read hold its taking leaves: as fetched when the byte began, or, where it
begins and is taken with nothing between, as they stand at the cursor (R137, R142, R145). -/
def State.readUnderWay (s : State) (t : Transfer) : Byte × Byte := t.fetched.getD (s.readValue, s.readHoldAfter)

/-- A DATA-READ byte is taken at its eighth bit (R137, R142, R145): the byte under way has been shifted out, and then the
cursor walks. -/
def takeReadByte (t : Transfer) (s : State) : State :=
  State.walkCursor
    { s.shiftOut (s.readUnderWay t).1 with
      readHold := (s.readUnderWay t).2, transfer := some { t with fetched := none } }

/-- A data byte of the DATA-READ under way begins: it is fetched from the cursor (R137). One cut short by the rising of
CSn goes with its transaction, and leaves nothing. -/
def fetchReadByte (s : State) : State :=
  match s.transfer with
  | some t =>
    if t.write || decide (t.judgment ≠ .taken) then s
    else { s with transfer := some { t with fetched := some (s.readUnderWay t) } }
  | none => s

/-- One byte of a DATA-READ as its transaction was judged (R138, R159, R165). -/
def readByteAs (t : Transfer) (s : State) : State :=
  match t.judgment with
  | .taken => (takeReadByte t s).countAccess
  | .busy => ((s.raiseOnce t .busy none).shiftOut 0).countAccess
  | .jammed => (s.shiftOut 0).countAccess
  | .inReset => s.shiftOut 0

/-- A data byte of the DATA-READ under way. -/
def dataReadByte (s : State) : State :=
  match s.transfer with
  | some t => if t.write then s else readByteAs t s
  | none => s

/-- A written byte has its effect (R143, R144): refused with the transaction's one error, kept in the write hold,
applied to the settings or the templates, or applied to a record as the host's update. -/
def writeByteEffect (t : Transfer) (b : Byte) (s : State) : State :=
  match s.writeEffect b with
  | .readOnly => s.raiseOnce t .readOnly (portOf? s.cursor.port)
  | .badValue => s.raiseOnce t .badValue (portOf? s.cursor.port)
  | .hold => { s with writeHold := b }
  | .settings x => { s with settings := x }
  | .template i x => { s with templates := s.templates.set i x }
  | .offer p v => s.commit p { (s.port p).record with offer := v }
  | .rights p v => s.commit p { (s.port p).record with rights := v }
  | .guardMask p v => s.commit p { (s.port p).record with guardMask := v }

/-- One byte of a DATA-WRITE as its transaction was judged (R138, R143, R159, R165). -/
def writeByteAs (t : Transfer) (b : Byte) (s : State) : State :=
  match t.judgment with
  | .taken => (writeByteEffect t b s).walkCursor.countAccess
  | .busy => (s.raiseOnce t .busy none).countAccess
  | .jammed => s.countAccess
  | .inReset => s

/-- A data byte of the DATA-WRITE under way. -/
def dataWriteByte (b : Byte) (s : State) : State :=
  match s.transfer with
  | some t => if t.write then writeByteAs t b s else s
  | none => s

/-- DATA_READ: its control byte, or the beginning or the taking of one of its data bytes. -/
def dataReadPart (part : ReadPart) (s : State) : State :=
  match part with
  | .control => beginTransfer false { s with sdo := [] }
  | .fetch => fetchReadByte s
  | .byte => dataReadByte s

/-- DATA_WRITE: its control byte, or one of its data bytes. -/
def dataWritePart (part : WritePart) (s : State) : State :=
  match part with
  | .control => beginTransfer true s
  | .byte b => dataWriteByte b s

/-! ## Status reads -/

/-- STATUS_READ (R139): the first `n` bytes of the image are shifted out; nothing else of the part changes. It is a
transaction of its own, so the data transaction before it has ended. -/
def statusReadBytes (n : Nat) (s : State) : State :=
  if n = 0 then { s with transfer := none } else { s with transfer := none, sdo := statusBytes s n }

/-! ## The end of a bind -/

/-- One access of the host, carried out as its transaction gives (R138). -/
def runAccess (a : Access) (s : State) : State :=
  match a with
  | .command bytes => commandWrite bytes s
  | .readByte => dataReadByte s
  | .writeByte b => dataWriteByte b s

/-- The access finds the bind's count at one. -/
def State.lastAccess (s : State) : Bool :=
  match s.bind with
  | some b => decide (b.left = 1)
  | none => false

/-- BIND_COUNT_END (R152): the access that brings the count to zero is carried out and the bind ends in the same event.
An access that does not bring the count to zero (a BIND or AIM that restarts it, a device reset, a data byte without
its transaction) is not this event. -/
def bindCountEndBy (a : Access) (s : State) : State :=
  if s.lastAccess && (runAccess a s).bind.isNone && !(runAccess a s).inReset then runAccess a s else s

/-- BIND_EXPIRY (R153): the timer of the open bind has run out. -/
def bindExpiryOf (s : State) : State :=
  match s.bind with
  | some b => if b.timer = 0 then (s.report .bindExpired .event none).endBind else s
  | none => s

/-! ## The SEARCH scan -/

/-- A record meets a SEARCH condition (R149). -/
def LineRecord.meets (r : LineRecord) (value : Nat) : SearchKind → Bool
  | .mode => decide (r.tc.mode.code = value)
  | .verdict => r.pairs.toList.any fun x => decide (x.verdict.code = value)
  | .probeStatus => decide (r.sched.status.code = value)
  | .heldCause => decide (heldCauseCode r.tc.heldCause = value)
  | .findingCount => decide (value ≤ r.findings.length)

/-- SCAN_EXAMINE_RECORD (R149): the next record is examined as it stands applied; the scan stops at the first match. -/
def scanExamine (s : State) : State :=
  match s.busy with
  | some (.search k v next none) =>
    match portOf? next with
    | some p =>
      let r := (s.port p).record
      if r.meets v k then { s with busy := some (.search k v next (some (p, r.generation))) }
      else { s with busy := some (.search k v (next + 1) none) }
    | none => s
  | _ => s

/-- SEARCH_COMPLETE (R149): at a match the cursor moves to it; the reply is written and BUSY ends. -/
def searchCompleteOf (s : State) : State :=
  match s.busy with
  | some (.search _ _ _ (some (p, g))) =>
    ({ s with busy := none, cursor := { port := p.val, offset := 0 } }).withReply (replyPort (some (p, g)))
  | some (.search _ _ next none) =>
    if 48 ≤ next then ({ s with busy := none }).withReply (replyPort none) else s
  | _ => s

/-! ## The commands -/

/-- BIND_COUNT_END. -/
def execBindCountEnd (a : Access) (s : State) : Host.Outcome State Fault Refusal := .next (bindCountEndBy a s)

/-- BIND_EXPIRY. -/
def execBindExpiry (s : State) : Host.Outcome State Fault Refusal := .next (bindExpiryOf s)

/-- STATUS_READ. -/
def execStatusRead (n : Nat) (s : State) : Host.Outcome State Fault Refusal := .next (statusReadBytes n s)

/-- DATA_READ. -/
def execDataRead (part : ReadPart) (s : State) : Host.Outcome State Fault Refusal := .next (dataReadPart part s)

/-- DATA_WRITE. -/
def execDataWrite (part : WritePart) (s : State) : Host.Outcome State Fault Refusal := .next (dataWritePart part s)

/-- SET_CURSOR: a COMMAND-WRITE of opcode 01h. -/
def execSetCursor (operands : List Byte) (s : State) : Host.Outcome State Fault Refusal :=
  .next (commandWrite (0x01#8 :: operands) s)

/-- SET_WALK: a COMMAND-WRITE of opcode 02h. -/
def execSetWalk (operands : List Byte) (s : State) : Host.Outcome State Fault Refusal :=
  .next (commandWrite (0x02#8 :: operands) s)

/-- SET_PAGE: a COMMAND-WRITE of opcode 03h. -/
def execSetPage (operands : List Byte) (s : State) : Host.Outcome State Fault Refusal :=
  .next (commandWrite (0x03#8 :: operands) s)

/-- BIND: a COMMAND-WRITE of opcode 04h. -/
def execBind (operands : List Byte) (s : State) : Host.Outcome State Fault Refusal :=
  .next (commandWrite (0x04#8 :: operands) s)

/-- AIM: a COMMAND-WRITE of opcode 05h. -/
def execAim (operands : List Byte) (s : State) : Host.Outcome State Fault Refusal :=
  .next (commandWrite (0x05#8 :: operands) s)

/-- READ_ERROR: a COMMAND-WRITE of opcode 06h. -/
def execReadError (operands : List Byte) (s : State) : Host.Outcome State Fault Refusal :=
  .next (commandWrite (0x06#8 :: operands) s)

/-- CLEAR_ERROR: a COMMAND-WRITE of opcode 07h. -/
def execClearError (operands : List Byte) (s : State) : Host.Outcome State Fault Refusal :=
  .next (commandWrite (0x07#8 :: operands) s)

/-- TAKE_CHANGE: a COMMAND-WRITE of opcode 08h. -/
def execTakeChange (operands : List Byte) (s : State) : Host.Outcome State Fault Refusal :=
  .next (commandWrite (0x08#8 :: operands) s)

/-- SEARCH: a COMMAND-WRITE of opcode 09h. -/
def execSearch (operands : List Byte) (s : State) : Host.Outcome State Fault Refusal :=
  .next (commandWrite (0x09#8 :: operands) s)

/-- SEARCH_COMPLETE. -/
def execSearchComplete (s : State) : Host.Outcome State Fault Refusal := .next (searchCompleteOf s)

/-- SCAN_EXAMINE_RECORD. -/
def execScanExamineRecord (s : State) : Host.Outcome State Fault Refusal := .next (scanExamine s)

/-- PARK: a COMMAND-WRITE of opcode 10h, decoded on the page that stands (R146). -/
def execPark (operands : List Byte) (s : State) : Host.Outcome State Fault Refusal :=
  .next (commandWrite (0x10#8 :: operands) s)

/-- UNPARK: a COMMAND-WRITE of opcode 11h. -/
def execUnpark (operands : List Byte) (s : State) : Host.Outcome State Fault Refusal :=
  .next (commandWrite (0x11#8 :: operands) s)

/-- RESTART: a COMMAND-WRITE of opcode 12h. -/
def execRestart (operands : List Byte) (s : State) : Host.Outcome State Fault Refusal :=
  .next (commandWrite (0x12#8 :: operands) s)

/-- REARM: a COMMAND-WRITE of opcode 13h. -/
def execRearm (operands : List Byte) (s : State) : Host.Outcome State Fault Refusal :=
  .next (commandWrite (0x13#8 :: operands) s)

/-- PORT_RESET: a COMMAND-WRITE of opcode 14h. -/
def execPortReset (operands : List Byte) (s : State) : Host.Outcome State Fault Refusal :=
  .next (commandWrite (0x14#8 :: operands) s)

/-- PROBE: a COMMAND-WRITE of opcode 10h. -/
def execProbe (operands : List Byte) (s : State) : Host.Outcome State Fault Refusal :=
  .next (commandWrite (0x10#8 :: operands) s)

/-- CANCEL: a COMMAND-WRITE of opcode 11h. -/
def execCancel (operands : List Byte) (s : State) : Host.Outcome State Fault Refusal :=
  .next (commandWrite (0x11#8 :: operands) s)

/-- RETIRE: a COMMAND-WRITE of opcode 12h. -/
def execRetire (operands : List Byte) (s : State) : Host.Outcome State Fault Refusal :=
  .next (commandWrite (0x12#8 :: operands) s)

/-- CLEAR_FINDINGS: a COMMAND-WRITE of opcode 13h. -/
def execClearFindings (operands : List Byte) (s : State) : Host.Outcome State Fault Refusal :=
  .next (commandWrite (0x13#8 :: operands) s)

/-- UNDECODED_COMMAND_WRITE: a COMMAND-WRITE given by all its bytes (R146). -/
def execUndecodedCommandWrite (bytes : List Byte) (s : State) : Host.Outcome State Fault Refusal :=
  .next (commandWrite bytes s)

end Sys2Proof.Machine
end

