-- ==== Sys2Proof/Machine/Resets.lean ====
section
/-! DEFINITION. The device reset (R159): its three causes, its completion, and the reset pin. -/

namespace Sys2Proof.Machine

/-- RESETN_ASSERT (R159): RESETn falls. A pin already low cannot fall. -/
def resetnFalls (s : State) : State := if s.resetN then { s.beginDeviceReset with resetN := false } else s

/-- RESETN_RELEASE (R159): RESETn returns high, and the part goes on to complete the reset. -/
def resetnRises (s : State) : State := { s with resetN := true }

/-- DEVICE_RESET_COMPLETE (R159): a reset in progress completes, but not while RESETn is held low. -/
def deviceResetCompletes (s : State) : State := if s.inReset && s.resetN then s.endDeviceReset else s

/-- DEVICE_RESET: a COMMAND-WRITE of opcode 0Fh. -/
def execDeviceReset (operands : List Byte) (s : State) : Host.Outcome State Fault Refusal :=
  .next (commandWrite (0x0F#8 :: operands) s)

/-- RESETN_ASSERT. -/
def execResetnAssert (s : State) : Host.Outcome State Fault Refusal := .next (resetnFalls s)

/-- RESETN_RELEASE. -/
def execResetnRelease (s : State) : Host.Outcome State Fault Refusal := .next (resetnRises s)

/-- POWER_UP (R159): power comes up. -/
def execPowerUp (s : State) : Host.Outcome State Fault Refusal := .next s.beginDeviceReset

/-- DEVICE_RESET_COMPLETE. -/
def execDeviceResetComplete (s : State) : Host.Outcome State Fault Refusal := .next (deviceResetCompletes s)

end Sys2Proof.Machine
end

