-- ==== Sys2Proof/Machine/Dispatch.lean ====
section
/-! DEFINITION. The meaning of every command: one arm per row of the table. -/

namespace Sys2Proof.Machine

/-- A command's effect on everything but the queue of waiting commands. -/
def exec (i : Instr) (s : State) : Host.Outcome State Fault Refusal :=
  match i with
  | .frameReceive g bytes => Sys2Proof.Machine.execFrameReceive g bytes s
  | .silenceExpiry g => Sys2Proof.Machine.execSilenceExpiry g s
  | .idleFrameSend g => Sys2Proof.Machine.execIdleFrameSend g s
  | .transmitMessage g => Sys2Proof.Machine.execTransmitMessage g s
  | .takePower p => Sys2Proof.Machine.execTakePower p s
  | .takeDetached p => Sys2Proof.Machine.execTakeDetached p s
  | .takeEnergy p => Sys2Proof.Machine.execTakeEnergy p s
  | .takeLost p => Sys2Proof.Machine.execTakeLost p s
  | .takeResultPass p => Sys2Proof.Machine.execTakeResultPass p s
  | .takeResultFail p => Sys2Proof.Machine.execTakeResultFail p s
  | .takePage p => Sys2Proof.Machine.execTakePage p s
  | .listenExpiry p => Sys2Proof.Machine.execListenExpiry p s
  | .trainExpiry p => Sys2Proof.Machine.execTrainExpiry p s
  | .takeWithdraw p => Sys2Proof.Machine.execTakeWithdraw p s
  | .guardFiring p => Sys2Proof.Machine.execGuardFiring p s
  | .autoProbeRequest p => Sys2Proof.Machine.execAutoProbeRequest p s
  | .powerNotice p => Sys2Proof.Machine.execPowerNotice p s
  | .dispatch => Sys2Proof.Machine.execDispatch s
  | .resumption => Sys2Proof.Machine.execResumption s
  | .preemption => Sys2Proof.Machine.execPreemption s
  | .waitExpiry e => Sys2Proof.Machine.execWaitExpiry e s
  | .sweepCompletion e echoes => Sys2Proof.Machine.execSweepCompletion e echoes s
  | .takeEndingComplete e => Sys2Proof.Machine.execTakeEndingComplete e s
  | .takeEndingAborted e => Sys2Proof.Machine.execTakeEndingAborted e s
  | .takeEndingReset e => Sys2Proof.Machine.execTakeEndingReset e s
  | .bindCountEnd access => Sys2Proof.Machine.execBindCountEnd access s
  | .bindExpiry => Sys2Proof.Machine.execBindExpiry s
  | .statusRead count => Sys2Proof.Machine.execStatusRead count s
  | .dataRead part => Sys2Proof.Machine.execDataRead part s
  | .dataWrite part => Sys2Proof.Machine.execDataWrite part s
  | .setCursor operands => Sys2Proof.Machine.execSetCursor operands s
  | .setWalk operands => Sys2Proof.Machine.execSetWalk operands s
  | .setPage operands => Sys2Proof.Machine.execSetPage operands s
  | .bind operands => Sys2Proof.Machine.execBind operands s
  | .aim operands => Sys2Proof.Machine.execAim operands s
  | .readError operands => Sys2Proof.Machine.execReadError operands s
  | .clearError operands => Sys2Proof.Machine.execClearError operands s
  | .takeChange operands => Sys2Proof.Machine.execTakeChange operands s
  | .search operands => Sys2Proof.Machine.execSearch operands s
  | .searchComplete => Sys2Proof.Machine.execSearchComplete s
  | .park operands => Sys2Proof.Machine.execPark operands s
  | .unpark operands => Sys2Proof.Machine.execUnpark operands s
  | .restart operands => Sys2Proof.Machine.execRestart operands s
  | .rearm operands => Sys2Proof.Machine.execRearm operands s
  | .portReset operands => Sys2Proof.Machine.execPortReset operands s
  | .probe operands => Sys2Proof.Machine.execProbe operands s
  | .cancel operands => Sys2Proof.Machine.execCancel operands s
  | .retire operands => Sys2Proof.Machine.execRetire operands s
  | .clearFindings operands => Sys2Proof.Machine.execClearFindings operands s
  | .deviceReset operands => Sys2Proof.Machine.execDeviceReset operands s
  | .resetnAssert => Sys2Proof.Machine.execResetnAssert s
  | .powerUp => Sys2Proof.Machine.execPowerUp s
  | .deviceResetComplete => Sys2Proof.Machine.execDeviceResetComplete s
  | .undecodedCommandWrite bytes => Sys2Proof.Machine.execUndecodedCommandWrite bytes s
  | .resetnRelease => Sys2Proof.Machine.execResetnRelease s
  | .scanExamineRecord => Sys2Proof.Machine.execScanExamineRecord s

end Sys2Proof.Machine
end

