-- ==== Sys2Proof/Machine/Timers.lean ====
section
/-! DEFINITION. The passing of time: one tick of 2 ns, the engine sample period (R94), lowers every timer of the part
that runs (notes/assumptions/3.md). A timer that has run out waits for its expiry to be taken. -/

namespace Sys2Proof.Machine

/-- A timer one tick later. -/
def Timer.tick (t : Timer) : Timer := t.map fun n => n - 1

/-- A group link one tick later (R24, R25). -/
def GroupLink.tick (g : GroupLink) : GroupLink := { g with silence := Timer.tick g.silence, idle := g.idle - 1 }

/-- A port one tick later (R47, R49). -/
def PortState.tick (ps : PortState) : PortState :=
  { ps with tc := { ps.tc with listen := Timer.tick ps.tc.listen, train := Timer.tick ps.tc.train } }

/-- An engine one tick later: its DETACH wait falls (R90), or one sample of the sweep is taken (R94). -/
def Engine.tick : Engine → Engine
  | .attaching r wait => .attaching r (wait - 1)
  | .sweeping r q n left table => .sweeping r q n (left - 1) table
  | x => x

/-- A bind one tick later (R151). -/
def Bind.tick (b : Bind) : Bind := { b with timer := b.timer - 1 }

/-- The part one tick later. -/
def tick (s : State) : State :=
  { s with
    ports := mapVector PortState.tick s.ports
    groups := mapVector GroupLink.tick s.groups
    engines := mapVector Engine.tick s.engines
    bind := s.bind.map Bind.tick }

end Sys2Proof.Machine
end

