-- ==== Sys2Proof/Machine/Step.lean ====
section
/-! DEFINITION. One step of the part: the command at the front of the queue, or, with no command waiting, one tick of
time (notes/assumptions/3.md). -/

namespace Sys2Proof.Machine

/-- The command at the front of the queue is taken and carried out with the queue's rest; on an empty queue a tick
passes. -/
def step (s : State) : Host.Outcome State Fault Refusal :=
  match s.pending with
  | c :: rest => exec c { s with pending := rest }
  | [] => .next (tick s)

/-- The state with the command that a word spells by the table's bits at the front of its queue; the state itself where
the word spells none, as every word does here (notes/assumptions/4.md). -/
def State.withFetchWord (s : State) (nbits w : Nat) : State :=
  match decodeTableWord nbits w with
  | some c => { s with pending := c :: s.pending }
  | none => s

end Sys2Proof.Machine
end

