-- ==== Sys2Proof/Machine/Transactions.lean ====
section
/-! DEFINITION. A transaction as the host clocks it in: its bits read as bytes, its kind read from the control byte, and
the commands it is (R137, R170). -/

namespace Sys2Proof.Machine

/-- The kinds of a transaction (R137). -/
inductive TransactionKind where
  | commandWrite | dataWrite | dataRead | statusRead
  deriving DecidableEq, Repr

/-- The kind the control byte carries in bits 7 and 6; its low six bits are ignored (R137, R170). -/
def transactionKind (control : Byte) : TransactionKind :=
  match control.getLsbD 7, control.getLsbD 6 with
  | false, false => .commandWrite
  | false, true => .dataWrite
  | true, false => .dataRead
  | true, true => .statusRead

/-- The byte of eight bits, most significant bit first (R137). -/
def byteOfBits (bits : List Bool) : Byte := bits.foldl (fun acc b => acc <<< 1 ||| BitVec.ofNat 8 b.toNat) 0

/-- The whole bytes of the bits clocked in, with the bits of a last byte cut short by the rising of CSn (R137). -/
def bytesAndCut : List Bool → List Byte × List Bool
  | a :: b :: c :: d :: e :: f :: g :: h :: rest =>
    let r := bytesAndCut rest
    (byteOfBits [a, b, c, d, e, f, g, h] :: r.1, r.2)
  | cut => ([], cut)

/-- The row of the table that a COMMAND-WRITE is on a page, by its opcode (R146), given by the bytes after the control
byte. -/
def hostCommand (page1 : Bool) : List Byte → Instr
  | [] => .undecodedCommandWrite []
  | op :: operands =>
    match op.toNat with
    | 0x01 => .setCursor operands
    | 0x02 => .setWalk operands
    | 0x03 => .setPage operands
    | 0x04 => .bind operands
    | 0x05 => .aim operands
    | 0x06 => .readError operands
    | 0x07 => .clearError operands
    | 0x08 => .takeChange operands
    | 0x09 => .search operands
    | 0x0F => .deviceReset operands
    | 0x10 => if page1 then .probe operands else .park operands
    | 0x11 => if page1 then .cancel operands else .unpark operands
    | 0x12 => if page1 then .retire operands else .restart operands
    | 0x13 => if page1 then .clearFindings operands else .rearm operands
    | 0x14 => if page1 then .undecodedCommandWrite (op :: operands) else .portReset operands
    | _ => .undecodedCommandWrite (op :: operands)

/-- The commands a transaction is, from the bits clocked in between the falling and the rising of CSn, first bit first
(R137): a byte cut short is discarded, but a byte of a DATA-READ has been fetched when it began; a transaction without a
whole control byte is none. -/
def transactionCommands (page1 : Bool) (bits : List Bool) : List Instr :=
  match bytesAndCut bits with
  | ([], _) => []
  | (control :: bytes, cut) =>
    match transactionKind control with
    | .commandWrite => [hostCommand page1 bytes]
    | .dataWrite => .dataWrite .control :: bytes.map fun b => .dataWrite (.byte b)
    | .dataRead =>
      .dataRead .control :: (bytes.flatMap fun _ => [.dataRead .fetch, .dataRead .byte])
        ++ if cut.isEmpty then [] else [.dataRead .fetch]
    | .statusRead => [.statusRead bytes.length]

/-- The host clocks in a whole transaction: the commands it is join the queue. The rows of one opcode have one meaning, so
that a page changed before the command is taken makes no difference (notes/assumptions/5.md). -/
def State.clockIn (s : State) (bits : List Bool) : State :=
  { s with pending := s.pending ++ transactionCommands s.page bits }

end Sys2Proof.Machine
end

