-- ==== Sys2Proof/Machine/Pins.lean ====
section
/-! DEFINITION. The serial pins edge by edge (R137): what each edge of CSn and SCK does to the transaction under way. The
table has no row for an edge, so an edge is no command of the queue: it acts at once, by the operations that carry out
the rows of the host's transactions (notes/assumptions/28.md). -/

namespace Sys2Proof.Machine

/-- The bits of a byte in the order they are shifted, most significant bit first (R137). -/
def bitsOfByte (b : Byte) : List Bool := (List.range 8).map fun i => b.getLsbD (7 - i)

/-- An edge the host drives. SDI is sampled on a rising edge of SCK, so its level there comes with the edge (R137). -/
inductive PinEdge where
  | csnFalls
  | sckRises (sdi : Bool)
  | sckFalls
  | csnRises
  deriving DecidableEq, Repr

/-! ## CSn falls -/

/-- The pins as CSn falls: SCK is at its rest level and nothing has been clocked (R137). -/
def Serial.begun : Serial := { Serial.idle with selected := true }

/-- CSn falls: a transaction begins, and the one before it has ended (R137). -/
def State.csnFalls (s : State) : State :=
  if s.serial.selected then s else { s with transfer := none, serial := .begun }

/-! ## SCK rises: SDI is sampled -/

/-- A bit is sampled. The eighth one makes the byte whole (R137). -/
def Serial.sampled (sdi : Bool) (t : Serial) : Serial :=
  if t.bits.length < 7 then { t with sck := true, bits := t.bits ++ [sdi] }
  else { t with sck := true, bytes := t.bytes ++ [byteOfBits (t.bits ++ [sdi])], bits := [] }

/-- A data transaction whose control byte is taken after a device reset has ended it reads 00h and writes nothing (R159,
notes/assumptions/24.md). -/
def State.asEnded (s : State) : State :=
  if s.serial.ended then { s with transfer := s.transfer.map Transfer.cut } else s

/-- The status image is taken with the control byte of a STATUS-READ (R139). -/
def takeImage (s : State) : State :=
  { s with
    transfer := none
    serial := { s.serial with image := if s.serial.ended then [] else statusImage s } }

/-- Byte `k` of a status image, with 00h for every byte after its end (R139). -/
def Serial.imageByte (t : Serial) (k : Nat) : Byte := t.image.getD k 0

/-- Data byte `k` of a STATUS-READ has been shifted out. -/
def shiftImageByte (k : Nat) (s : State) : State :=
  { s with sdo := (if k = 0 then [] else s.sdo) ++ [s.serial.imageByte k] }

/-- The control byte has been sampled: a data transaction is judged, and a STATUS-READ takes its image (R138, R139). -/
def controlSampled (kind : TransactionKind) (s : State) : State :=
  match kind with
  | .commandWrite => s
  | .dataWrite => (dataWritePart .control s).asEnded
  | .dataRead => (dataReadPart .control s).asEnded
  | .statusRead => takeImage s

/-- Byte `k` after the control byte has been sampled whole: a data byte is taken at its eighth bit, and a byte of a command
is collected (R137). -/
def byteSampled (kind : TransactionKind) (k : Nat) (b : Byte) (s : State) : State :=
  match kind with
  | .commandWrite => s
  | .dataWrite => dataWritePart (.byte b) s
  | .dataRead => dataReadPart .byte s
  | .statusRead => shiftImageByte k s

/-- What the byte just made whole does. -/
def lastByteSampled (s : State) : State :=
  match s.serial.bytes with
  | [] => s
  | control :: bytes =>
    match bytes.getLast? with
    | none => controlSampled (transactionKind control) s
    | some b => byteSampled (transactionKind control) (bytes.length - 1) b s

/-- SCK rises: SDI is sampled (R137). With CSn high, SCK is at rest. -/
def State.sckRises (sdi : Bool) (s : State) : State :=
  if s.serial.selected && !s.serial.sck then
    let s' := { s with serial := s.serial.sampled sdi }
    if s'.serial.bits.isEmpty then lastByteSampled s' else s'
  else s

/-! ## SCK falls: SDO changes -/

/-- The byte that is being shifted out, where the manual gives one: a byte of the status image, or the byte under way of a
DATA-READ, 00h where it was not taken (R137, R138, R139, R159). The manual gives SDO no bits in the control byte and in
a writing transaction. -/
def State.sdoByte? (s : State) : Option Byte :=
  match s.serial.bytes with
  | [] => none
  | control :: bytes =>
    match transactionKind control with
    | .statusRead => some (s.serial.imageByte bytes.length)
    | .dataRead => s.transfer.map fun t => if t.judgment = .taken then (s.readUnderWay t).1 else 0
    | .commandWrite | .dataWrite => none

/-- SCK falls: SDO changes to the next bit of the byte being shifted out (R137). With the first bit the byte begins, and a
byte of a DATA-READ is fetched. -/
def State.sckFalls (s : State) : State :=
  if s.serial.selected && s.serial.sck then
    let s' := if s.serial.bits.isEmpty then fetchReadByte s else s
    let out := (s'.sdoByte?.map fun b => b.getLsbD (7 - s.serial.bits.length)).toList
    { s' with serial := { s.serial with sck := false, out := s.serial.out ++ out } }
  else s

/-! ## CSn rises -/

/-- The pins as CSn rises: SCK is at rest, and nothing is under way (R137). -/
def Serial.deselected (t : Serial) : Serial := { Serial.idle with out := t.out }

/-- CSn rises: the transaction ends, a byte cut short is discarded, and a COMMAND-WRITE is taken with its whole bytes
(R137), unless a device reset has ended it (R159). -/
def State.csnRises (s : State) : State :=
  if s.serial.selected then
    let s' := { s with serial := s.serial.deselected }
    match s.serial.bytes with
    | [] => s'
    | control :: bytes =>
      if !s.serial.ended && decide (transactionKind control = .commandWrite) then commandWrite bytes s' else s'
  else s

/-! ## Every edge -/

/-- What an edge of the host does. -/
def State.edge (s : State) : PinEdge → State
  | .csnFalls => s.csnFalls
  | .sckRises sdi => s.sckRises sdi
  | .sckFalls => s.sckFalls
  | .csnRises => s.csnRises

/-- The edges of a whole transaction, from the bits the host drives on SDI. -/
def transactionEdges (bits : List Bool) : List PinEdge :=
  .csnFalls :: (bits.flatMap fun b => [.sckRises b, .sckFalls]) ++ [.csnRises]

end Sys2Proof.Machine
end

