-- ==== Sys2Proof/Safety.lean ====
section
/-! DEFINITION. What the statements speak of: frames, what the publishing of an event does, and the invariants of the
part. -/

namespace Sys2Proof.Machine

/-! ## Frames -/

/-- Only what is kept for the ports may differ. -/
def SameOutsidePorts (s t : State) : Prop := { t with ports := s.ports } = s

/-- Only what is kept for port `p` may differ. -/
def OnlyPort (p : Port) (s t : State) : Prop :=
  SameOutsidePorts s t ∧ ∀ q, q ≠ p → t.port q = s.port q

/-- Only group link `g` and the ports of its group may differ. -/
def OnlyGroup (g : Group) (s t : State) : Prop :=
  { t with ports := s.ports, groups := s.groups } = s ∧ (∀ h, h ≠ g → t.group h = s.group h)
    ∧ ∀ q, groupOf q ≠ g → t.port q = s.port q

/-- The Management Port takes the host's next transaction: it is not BUSY and the Error Slot is not JAMMED (R138). -/
def State.takesHost (s : State) : Prop := s.busy = none ∧ s.errors.jammed = false

/-- `ps` with its record, its place in the change set and its waiting updates as `qs` has them. -/
def PortState.publishedAs (ps qs : PortState) : PortState :=
  { ps with
    record := qs.record, inChangeSet := qs.inChangeSet, tcWaiting := qs.tcWaiting, schedWaiting := qs.schedWaiting
    guardWaiting := qs.guardWaiting, jointWaiting := qs.jointWaiting }

/-- A record is as it was, or some field of it has changed, its effective offer has been recomputed, its generation has
advanced by one and its port has joined the change set (R12, R14, R15). -/
def AdvancesOnce (ps qs : PortState) : Prop :=
  (qs.record = ps.record ∧ qs.inChangeSet = ps.inChangeSet)
    ∨ ({ qs.record with effectiveOffer := ps.record.effectiveOffer, generation := ps.record.generation } ≠ ps.record
      ∧ qs.record.effectiveOffer = offeredRates qs.record.offer qs.record.tc.struck qs.record.ceiling
      ∧ qs.record.generation = ps.record.generation + 1 ∧ qs.inChangeSet = true)

/-- An event's update is applied at once: a host command made it, or no bind is open (R13, R18, R20). -/
def State.atOnce (s : State) (host : Bool) : Prop := host = true ∨ s.bind = none

/-- What an event of the Training Controller and the Scheduler at port `p` may do to what is published of the port (R13 to
R15, R18 to R20, R67). The update writes the fields the event changed and the `carried` ones. Applied at once, it shows each
of them at its new value, and none of them waits; every other field shows what it showed and waits if it waited, and the
waiting updates of the two blocks, where they were one, stay one unless it takes out the whole part of either. Held back,
it leaves the record and the change set still, and the fields it writes wait with those that waited. The fields of the
other writers, and the Line Guard's waiting update, stay as they are. -/
def Publishes (host : Bool) (carried : List TcField) (p : Port) (s t : State) : Prop :=
  let a := s.port p
  let b := t.port p
  let writes (f : TcField) : Prop := TcField.differs a.tc.f b.tc.f f = true ∨ f ∈ carried
  (s.atOnce host →
      (∀ f, writes f → TcField.differs b.record.tc b.tc.f f = false ∧ f ∉ b.tcWaiting)
      ∧ (∀ f, ¬ writes f → TcField.differs b.record.tc a.record.tc f = false ∧ (f ∈ b.tcWaiting ↔ f ∈ a.tcWaiting))
      ∧ (b.sched.status ≠ a.sched.status → b.record.sched.status = b.sched.status ∧ .status ∉ b.schedWaiting)
      ∧ (b.sched.status = a.sched.status →
        b.record.sched.status = a.record.sched.status ∧ (.status ∈ b.schedWaiting ↔ .status ∈ a.schedWaiting))
      ∧ (b.sched.outcome ≠ a.sched.outcome → b.record.sched.outcome = b.sched.outcome ∧ .outcome ∉ b.schedWaiting)
      ∧ (b.sched.outcome = a.sched.outcome →
        b.record.sched.outcome = a.record.sched.outcome ∧ (.outcome ∈ b.schedWaiting ↔ .outcome ∈ a.schedWaiting))
      ∧ (b.jointWaiting = true ↔ a.jointWaiting = true ∧ (b.tcWaiting = [] ↔ a.tcWaiting = [])
        ∧ (b.schedWaiting = [] ↔ a.schedWaiting = [])))
    ∧ (¬ s.atOnce host →
      b.record = a.record ∧ b.inChangeSet = a.inChangeSet
      ∧ (∀ f, f ∈ b.tcWaiting ↔ f ∈ a.tcWaiting ∨ writes f)
      ∧ (.status ∈ b.schedWaiting ↔ .status ∈ a.schedWaiting ∨ b.sched.status ≠ a.sched.status)
      ∧ (.outcome ∈ b.schedWaiting ↔ .outcome ∈ a.schedWaiting ∨ b.sched.outcome ≠ a.sched.outcome)
      ∧ (b.jointWaiting = true ↔ a.jointWaiting = true ∨ ((∃ f, writes f) ∧ b.sched ≠ a.sched)))
    ∧ b.guardWaiting = a.guardWaiting ∧ b.record.lastSource = a.record.lastSource
    ∧ b.record.offer = a.record.offer ∧ b.record.rights = a.record.rights ∧ b.record.guardMask = a.record.guardMask
    ∧ b.record.findings = a.record.findings ∧ AdvancesOnce a b

/-- The verdicts with all that belongs to them, and the ceiling, are as they were. -/
def KeepsVerdicts (p : Port) (s t : State) : Prop :=
  (t.port p).record.pairs = (s.port p).record.pairs ∧ (t.port p).record.ceiling = (s.port p).record.ceiling

/-- The messages of an event have been handed for port `p` (R28 to R31). -/
def Handed (p : Port) (msgs : List Outbound) (s t : State) : Prop :=
  (t.port p).transmit
    = msgs.foldl (handOne (s.group (groupOf p)).linked (t.port p).agreeing) (s.port p).transmit

/-- An event of the Training Controller, the Scheduler or both has left port `p` as `expected` says, but for what is
published of it and its transmit list: these follow from the update and from the messages handed. Nothing else of the part
has changed. The verdicts may have been derived again. -/
def EventLeavesButVerdicts (host : Bool) (carried : List TcField) (p : Port) (expected : PortState)
    (msgs : List Outbound) (s t : State) : Prop :=
  OnlyPort p s t ∧ Publishes host carried p s t ∧ Handed p msgs s t
    ∧ t.port p = { expected.publishedAs (t.port p) with transmit := (t.port p).transmit }

/-- As `EventLeavesButVerdicts`, with the verdicts and the ceiling kept. -/
def EventLeaves (host : Bool) (carried : List TcField) (p : Port) (expected : PortState) (msgs : List Outbound)
    (s t : State) : Prop :=
  EventLeavesButVerdicts host carried p expected msgs s t ∧ KeepsVerdicts p s t

/-- The reset update of port `p` has been applied, its run aborted or not (R23, R66, R126, R134): the findings are retired,
every field is at its reset value but energy, powered pairs and power fault, the probe status says whether a run was
aborted, the generation has advanced by one, nothing of the port waits, and HALT has been handed. -/
def PortResetLeaves (aborted : Bool) (p : Port) (s t : State) : Prop :=
  let f := (s.port p).tc.f
  let machine : PortMachine :=
    { f := { TcFields.reset with energy := f.energy, powered := f.powered, powerFault := f.powerFault }
      listen := none, train := none }
  let sched : SchedFields :=
    if aborted then { status := .aborted, outcome := some { cause := .reset, skipped := 0 } }
    else { status := .none, outcome := none }
  OnlyPort p s t ∧ Handed p [.halt] s t
    ∧ t.port p =
      { s.port p with
        record := { LineRecord.reset with
          tc := machine.f, sched := sched, generation := (s.port p).record.generation + 1 }
        inChangeSet := true, tc := machine, sched := sched, lastSource := none, tcWaiting := [], schedWaiting := []
        guardWaiting := false, jointWaiting := false, withdraws := [], transmit := (t.port p).transmit }

/-- The effective offer of port `p` as the Training Controller forms it, E (R12, R38). -/
def State.E (s : State) (p : Port) : RateSet :=
  offeredRates (s.port p).record.offer (s.port p).tc.f.struck (s.port p).record.ceiling

/-- The machine stopped in a mode: no timer runs, no rate is resolved and attempts is 0. -/
def PortMachine.stoppedIn (mode : Mode) (m : PortMachine) : PortMachine :=
  { f := { m.f with mode := mode, resolved := none, attempts := 0 }, listen := none, train := none }

/-- The machine in LISTEN with its timer started with the listen setting (R47). -/
def PortMachine.listening (listenMs : Nat) (m : PortMachine) : PortMachine :=
  { m.stoppedIn .listen with listen := some (Config.millis listenMs) }

/-- The machine in HELD with a cause (R46, R51, R58). -/
def PortMachine.heldFor (cause : HeldCause) (m : PortMachine) : PortMachine :=
  { m.stoppedIn .held with f := { (m.stoppedIn .held).f with heldCause := some cause } }

/-- The machine in TRAIN at a rate, its train timer started (R49). -/
def PortMachine.training (rate : Rate) (attempts : Nat) (m : PortMachine) : PortMachine :=
  { f := { m.f with mode := .train, resolved := some rate, attempts := attempts }
    listen := none
    train := some (trainWindow rate) }

/-- Where a machine that would advertise ends, and the message it hands: LISTEN with ADVERTISE, or, where the offer `e`
is empty, HELD with cause EXHAUSTED and HALT, unless the event has handed HALT already (R45, R46). -/
def PortMachine.advertised (e : RateSet) (listenMs : Nat) (halted : Bool) (m : PortMachine) :
    PortMachine × List Outbound :=
  if e = 0 then (m.heldFor .exhausted, if halted then [] else [.halt]) else (m.listening listenMs, [.advertise e])

/-- The machine lent out: the attempt is left, and the return mode is PARKED from PARKED, HELD from HELD and DARK from any
other mode (R2, R56). -/
def PortMachine.lentOut (m : PortMachine) : PortMachine :=
  { m.stoppedIn .lent with
    f := { (m.stoppedIn .lent).f with
      returnMode := if m.f.mode = .parked then .parked else if m.f.mode = .held then .held else .dark } }

/-- Where a lent machine ends at RETURN, and the messages it hands: the return mode, with the struck set emptied after a
COMPLETE run, and from DARK on to LISTEN or HELD EXHAUSTED where energy is present (R57, R45). `offer` and `ceiling` are the
record's. -/
def PortMachine.returned (complete : Bool) (offer : RateSet) (ceiling : Option Rate) (listenMs : Nat) (m : PortMachine) :
    PortMachine × List Outbound :=
  let struck := if complete then 0 else m.f.struck
  let back := { m with f := { m.f with struck := struck, returnMode := .dark } }
  let next := back.advertised (offeredRates offer struck ceiling) listenMs false
  match m.f.returnMode with
  | .parked => ({ back with f := { back.f with mode := .parked } }, [.attach])
  | .held => ({ back with f := { back.f with mode := .held } }, [.attach])
  | .dark => if m.f.energy then (next.1, .attach :: next.2) else (back.stoppedIn .dark, [.attach])

/-! ## Inbound messages as frames carry them (R172) -/

/-- The kind codes of the inbound messages. -/
def Inbound.code : Inbound → Nat
  | .energy _ => 1
  | .page _ => 2
  | .result _ => 3
  | .lost => 4
  | .power _ _ => 5
  | .detached => 6

/-- The payload of an inbound message. -/
def Inbound.payload : Inbound → List Byte
  | .energy present => [byte (flag present 1)]
  | .page rates => [byte rates.toNat]
  | .result .fail => [0x00#8]
  | .result (.pass inverted skew swap) =>
    [0x01#8, byte inverted.toNat, byte swap.code, byte skew.a, byte skew.b, byte skew.c, byte skew.d]
  | .lost => []
  | .power pairs fault => [byte (pairs.toNat + flag fault 16)]
  | .detached => []

/-- Every skew of a RESULT pass lies in 0 to 63 (R26). -/
def Inbound.inRange : Inbound → Prop
  | .result (.pass _ skew _) => skew.a ≤ 63 ∧ skew.b ≤ 63 ∧ skew.c ≤ 63 ∧ skew.d ≤ 63
  | _ => True

/-! ## Invariants of one port's training machine (R2, R39, R59) -/

/-- The machine keeps R2, R39 and R59: the resolved rate is present exactly in TRAIN and UP, attempts is 0 without it
and never above 7, each timer runs only in its mode, the held cause is present exactly in HELD and in LENT with return
mode HELD, and the return mode is DARK outside LENT. -/
def PortMachine.consistent (m : PortMachine) : Prop :=
  (m.f.resolved ≠ none ↔ m.f.mode = .train ∨ m.f.mode = .up)
    ∧ (m.f.resolved = none → m.f.attempts = 0)
    ∧ m.f.attempts ≤ 7
    ∧ (m.listen ≠ none → m.f.mode = .listen)
    ∧ (m.train ≠ none → m.f.mode = .train)
    ∧ (m.f.heldCause ≠ none ↔ m.f.mode = .held ∨ (m.f.mode = .lent ∧ m.f.returnMode = .held))
    ∧ (m.f.mode ≠ .lent → m.f.returnMode = .dark)

/-- Every setting lies in its range (R157). -/
def Settings.inRange (x : Settings) : Prop :=
  (64 ≤ x.probe.window ∧ x.probe.window ≤ 2047) ∧ x.probe.blanking ≤ 63
    ∧ (2 ≤ x.probe.threshold ∧ x.probe.threshold ≤ 50) ∧ (1 ≤ x.probe.confirm ∧ x.probe.confirm ≤ 4)
    ∧ (60 ≤ x.probe.velocity ∧ x.probe.velocity ≤ 80) ∧ (1 ≤ x.tolerance ∧ x.tolerance ≤ 15)
    ∧ (5 ≤ x.marginal ∧ x.marginal ≤ 60) ∧ x.skewLimit ≤ 63 ∧ (1 ≤ x.tries ∧ x.tries ≤ 7)
    ∧ (100 ≤ x.listen ∧ x.listen ≤ 5000) ∧ x.lowWater ≤ 255

/-- Every field of a template lies in its range (R158). -/
def Template.inRange (x : Template) : Prop :=
  x.firstPort ≤ 47 ∧ x.lastPort ≤ 47 ∧ x.low ≤ 65534 ∧ x.high ≤ 65534

/-- The settings and the eight templates lie in their ranges (R157, R158). -/
def State.settingsOk (s : State) : Prop := s.settings.inRange ∧ ∀ i : TemplateId, (s.templates[i]).inRange

/-- Every port's machine is consistent, with the settings in range. -/
def State.machinesOk (s : State) : Prop := s.settingsOk ∧ ∀ p, (s.port p).tc.consistent

/-! ## Invariants of the Management Port and the Error Slot -/

/-- The cursor and a saved cursor lie in the ranges of R140, an open bind has 1 to 32 accesses left (R151), a cursor is
saved only under a bind (R154), and an operation's SEARCH lies in the ports (R149). -/
def State.managementOk (s : State) : Prop :=
  s.cursor.inRange = true
    ∧ (∀ c, s.saved = some c → c.inRange = true)
    ∧ (∀ b, s.bind = some b → 1 ≤ b.left ∧ b.left ≤ 32 ∧ b.timer ≤ bindWindow)
    ∧ (s.saved ≠ none → s.bind ≠ none)
    ∧ (∀ k v n m, s.busy = some (.search k v n m) → n ≤ 48)

/-- A second error is held only with a first, and JAMMED is set only with a second (R161). -/
def ErrorSlot.consistent (x : ErrorSlot) : Prop :=
  (x.second ≠ none → x.first ≠ none) ∧ (x.jammed = true → x.second ≠ none)

/-! ## Invariants of the records -/

/-- The ceiling is the one the verdicts give (R11), and the effective offer is the offer minus the struck set minus the
rates above the ceiling (R12). -/
def LineRecord.derived (r : LineRecord) : Prop :=
  r.ceiling = ceilingOf r.verdicts ∧ r.effectiveOffer = offeredRates r.offer r.tc.struck r.ceiling

/-- Every record's derived fields agree with their inputs. -/
def State.recordsDerived (s : State) : Prop := ∀ p, (s.port p).record.derived

/-- The transmit lists: at most eight messages (R29), and none in a SILENT group (R31, R32). -/
def State.transmitOk (s : State) : Prop :=
  ∀ p, (s.port p).transmit.length ≤ Config.transmitSize
    ∧ ((s.group (groupOf p)).linked = false → (s.port p).transmit = [])

/-- No update of the port's blocks waits. -/
def PortState.nothingWaits (ps : PortState) : Prop :=
  ps.tcWaiting = [] ∧ ps.schedWaiting = [] ∧ ps.guardWaiting = false ∧ ps.jointWaiting = false

/-- Every field whose update does not wait shows in the record as its block has it (R13, R19). -/
def PortState.published (ps : PortState) : Prop :=
  (∀ f, f ∉ ps.tcWaiting → TcField.differs ps.record.tc ps.tc.f f = false)
    ∧ (.status ∉ ps.schedWaiting → ps.record.sched.status = ps.sched.status)
    ∧ (.outcome ∉ ps.schedWaiting → ps.record.sched.outcome = ps.sched.outcome)
    ∧ (ps.guardWaiting = false → ps.record.lastSource = ps.lastSource)

/-- A PORT-RESET of port `p` waits for its run's ending (R150). -/
def State.resetting (s : State) (p : Port) : Prop := ∃ b, s.busy = some (.portReset p b)

/-- An update that waits for both blocks as one has a part of each (R19, R67). -/
def PortState.jointHasBothParts (ps : PortState) : Prop :=
  ps.jointWaiting = true → ps.tcWaiting ≠ [] ∧ ps.schedWaiting ≠ []

/-- Nothing waits without a bind (R21), an update of two blocks has a part of each, and every port with no PORT-RESET of it
under way is published. -/
def State.recordsPublished (s : State) : Prop :=
  ∀ p, (s.bind = none → (s.port p).nothingWaits) ∧ (s.port p).jointHasBothParts
    ∧ (¬ s.resetting p → (s.port p).published)

/-! ## Invariants of the Probe Scheduler and the engines -/

/-- The queue: at most 16 entries, each port at most once, URGENT entries first, pairs never empty, and only ROUTINE
entries suspended (R67, R68). -/
def queueOk (q : List Entry) : Prop :=
  q.length ≤ Config.queueSize
    ∧ (q.map fun x => x.port).Nodup
    ∧ (∀ x ∈ routinePart q, x.cls = .routine)
    ∧ (∀ x ∈ q, x.pairs ≠ 0)
    ∧ (∀ x ∈ q, x.suspended ≠ none → x.cls = .routine)

/-- The engines: no port on two of them, none of their ports in the queue, requested pairs never empty, and the order of
dispatch lists exactly those that hold a run (R67, R74). -/
def State.enginesOk (s : State) : Prop :=
  (∀ e f r q, (s.engine e).run? = some r → (s.engine f).run? = some q → r.port = q.port → e = f)
    ∧ (∀ e r, (s.engine e).run? = some r → r.requested ≠ 0 ∧ ∀ x ∈ s.queue, x.port ≠ r.port)
    ∧ s.order.Nodup
    ∧ (∀ e, e ∈ s.order ↔ (s.engine e).run? ≠ none)

/-- An engine holds port `p`. -/
def State.onEngine (s : State) (p : Port) : Prop := ∃ e r, (s.engine e).run? = some r ∧ r.port = p

/-- Port `p` has a queued entry, not suspended. -/
def State.hasQueued (s : State) (p : Port) : Prop := ∃ x ∈ s.queue, x.port = p ∧ x.suspended = none

/-- Port `p` has a suspended run: an entry, or, while a PORT-RESET of it waits behind a bind, that reset (R85). -/
def State.hasSuspended (s : State) (p : Port) : Prop :=
  (∃ x ∈ s.queue, x.port = p ∧ x.suspended ≠ none) ∨ s.busy = some (.portReset p true)

/-- The probe status says where each port stands, and a port is LENT exactly while its run is RUNNING or SUSPENDED (R9,
R67). -/
def State.statusOk (s : State) : Prop :=
  ∀ p, ((s.port p).sched.status = .running ↔ s.onEngine p)
    ∧ ((s.port p).sched.status = .queued ↔ s.hasQueued p)
    ∧ ((s.port p).sched.status = .suspended ↔ s.hasSuspended p)
    ∧ ((s.port p).tc.f.mode = .lent ↔ (s.port p).sched.status = .running ∨ (s.port p).sched.status = .suspended)

/-- An ending RESET is held exactly by the engine of the port whose PORT-RESET is under way, and a PORT-RESET that waits
for an end of bind waits under a bind with no entry of its port (R85, R103, R150). -/
def State.resetOk (s : State) : Prop :=
  (∀ e r, s.engine e = .closing r .reset → s.busy = some (.portReset r.port false))
    ∧ (∀ p, s.busy = some (.portReset p false) → ∃ e r, s.engine e = .closing r .reset ∧ r.port = p)
    ∧ (∀ p, s.busy = some (.portReset p true) → s.bind ≠ none ∧ (∀ x ∈ s.queue, x.port ≠ p) ∧ ¬ s.onEngine p)

/-- The Scheduler's account as a whole (R67, R68, R74). -/
def State.schedulerOk (s : State) : Prop := queueOk s.queue ∧ s.enginesOk ∧ s.statusOk ∧ s.resetOk

/-- The port and pair an engine drives: the current pair while it is SWEEPING (R89). -/
def State.drives (s : State) (e : EngineId) : Option (Port × Pair) :=
  match s.engine e with
  | .sweeping r q _ _ _ => some (r.port, q)
  | _ => none

/-- A run has no pair to sweep that its port's latest POWER message reported as powered (R75, R76, R89). -/
def State.runUnpowered (s : State) (r : Run) : Prop :=
  r.toSweep &&& (s.port r.port).tc.f.powered = 0

/-- What keeps every driven pair unpowered (R89): runs in ATTACHING and SWEEPING sweep no powered pair, and the current
pair is one of the pairs to sweep. -/
def State.powerOk (s : State) : Prop :=
  ∀ e, match s.engine e with
    | .attaching r _ => s.runUnpowered r
    | .sweeping r q _ _ _ => s.runUnpowered r ∧ pairIn q r.toSweep = true
    | _ => True

/-! ## Invariants of the findings -/

/-- At most four results for each finished pair (R98). -/
def resultsBounded (l : List PairResult) : Prop := ∀ x ∈ l, x.results.length ≤ Config.findingsPerPair

/-- Every run and every saved context holds at most four results for each pair. -/
def State.resultsOk (s : State) : Prop :=
  (∀ e r, (s.engine e).run? = some r → resultsBounded r.completed)
    ∧ ∀ x ∈ s.queue, ∀ ctx, x.suspended = some ctx → resultsBounded ctx.completed

/-- A finding list holds at most four findings for each pair (R106) and is ordered (R108). -/
def listOk (l : List Finding) : Prop :=
  (∀ q, (l.filter fun f => decide (f.pair = q)).length ≤ Config.findingsPerPair)
    ∧ l.Pairwise fun f g => keyLe f.key g.key = true

/-- The Finding Pool and the lists (R106, R108). -/
def State.findingsOk (s : State) : Prop :=
  s.resultsOk ∧ poolUsed s ≤ Config.poolSize ∧ ∀ p, listOk (s.port p).record.findings

/-! ## The host's commands as the host sends them (R146) -/

/-- The bytes after the control byte of a command transaction: the opcode and the operand bytes. -/
def commandBytes : Instr → Option (List Byte)
  | .setCursor l => some (0x01#8 :: l)
  | .setWalk l => some (0x02#8 :: l)
  | .setPage l => some (0x03#8 :: l)
  | .bind l => some (0x04#8 :: l)
  | .aim l => some (0x05#8 :: l)
  | .readError l => some (0x06#8 :: l)
  | .clearError l => some (0x07#8 :: l)
  | .takeChange l => some (0x08#8 :: l)
  | .search l => some (0x09#8 :: l)
  | .deviceReset l => some (0x0F#8 :: l)
  | .park l => some (0x10#8 :: l)
  | .probe l => some (0x10#8 :: l)
  | .unpark l => some (0x11#8 :: l)
  | .cancel l => some (0x11#8 :: l)
  | .restart l => some (0x12#8 :: l)
  | .retire l => some (0x12#8 :: l)
  | .rearm l => some (0x13#8 :: l)
  | .clearFindings l => some (0x13#8 :: l)
  | .portReset l => some (0x14#8 :: l)
  | .undecodedCommandWrite l => some l
  | _ => none

/-- How many operand bytes the command of an opcode needs on a page; none where the page has no such command (R146). -/
def operandsNeeded (page1 : Bool) (opcode : Nat) : Option Nat :=
  match opcode with
  | 0x01 => some 2
  | 0x02 => some 1
  | 0x03 => some 1
  | 0x04 => some 1
  | 0x05 => some 2
  | 0x06 => some 0
  | 0x07 => some 0
  | 0x08 => some 0
  | 0x09 => some 3
  | 0x0F => some 0
  | 0x10 => some (if page1 then 3 else 1)
  | 0x11 => some 1
  | 0x12 => some (if page1 then 2 else 1)
  | 0x13 => some 1
  | 0x14 => if page1 then none else some 1
  | _ => none

/-! ## Commands and edges in turn -/

/-- The commands run one after another. -/
def State.runAll (s : State) (commands : List Instr) : State :=
  commands.foldl (fun t c => match exec c t with | .next u => u | _ => t) s

/-- The edges of the host's pins one after another. -/
def State.edges (s : State) (es : List PinEdge) : State := es.foldl State.edge s

/-- The states agree but for the data transaction under way and what the pins have clocked. -/
def SameButUnderWay (s t : State) : Prop := { s with transfer := t.transfer, serial := t.serial } = t

/-! ## Kinds of command -/

/-- The commands that are the host's transactions. -/
def isHost : Instr → Bool
  | .bindCountEnd _ | .statusRead _ | .dataRead _ | .dataWrite _ | .setCursor _ | .setWalk _ | .setPage _ | .bind _
  | .aim _ | .readError _ | .clearError _ | .takeChange _ | .search _ | .park _ | .unpark _ | .restart _ | .rearm _
  | .portReset _ | .probe _ | .cancel _ | .retire _ | .clearFindings _ | .deviceReset _ | .undecodedCommandWrite _ =>
    true
  | _ => false

/-- The commands that start or complete a device reset. -/
def isReset : Instr → Bool
  | .resetnAssert | .powerUp | .deviceResetComplete => true
  | _ => false

end Sys2Proof.Machine
end

