-- ==== Sys2Proof/Certificates/Slice0/Obligations.lean ====
section
/-! DEFINITION. The statements for the provers, chapter by chapter of the spec. Each is about every state, reachable or
not; where it names an invariant as a premise, that invariant is a statement of its own. -/

section

open Sys2Proof Sys2Proof.Machine

/-! ## The queue of commands -/

/-- The command at the front of the queue runs with the queue's rest. -/
def Obligations.StepRunsTheFrontCommand : Prop :=
  ∀ (c : Instr) (rest : List Instr) (s : State),
    s.pending = c :: rest → step s = exec c { s with pending := rest }

/-- With no command waiting a step is one tick: every running timer falls by one, a sweep takes one sample, and nothing
else changes. DESIGN CHOICE (notes/assumptions/3.md). -/
def Obligations.StepWithoutCommandsIsOneTick : Prop :=
  ∀ s : State, s.pending = [] →
    ∃ t, step s = .next t
      ∧ { t with ports := s.ports, groups := s.groups, engines := s.engines, bind := s.bind } = s
      ∧ (∀ p, t.port p =
          { s.port p with
            tc := { (s.port p).tc with
              listen := (s.port p).tc.listen.map fun n => n - 1, train := (s.port p).tc.train.map fun n => n - 1 } })
      ∧ (∀ g, t.group g =
          { s.group g with silence := (s.group g).silence.map fun n => n - 1, idle := (s.group g).idle - 1 })
      ∧ (∀ e, t.engine e =
          match s.engine e with
          | .attaching r wait => .attaching r (wait - 1)
          | .sweeping r q n left table => .sweeping r q n (left - 1) table
          | x => x)
      ∧ t.bind = s.bind.map fun b => { b with timer := b.timer - 1 }

/-- Every command answers a next state, from every state, and leaves the queue as it stands. That a command answers
a next state also where its event's conditions do not hold is the model's choice (DESIGN CHOICE,
notes/assumptions/2.md). -/
def Obligations.EveryCommandCompletesAndKeepsTheQueue : Prop :=
  ∀ (c : Instr) (s : State), ∃ t, exec c s = .next t ∧ t.pending = s.pending

/-! ## Device reset (R22, R35, R65, R86, R125, R136, R159, R160, R161) -/

/-- The reset state holds the values the spec gives every block. -/
def Obligations.ResetStateHoldsTheStatedValues : Prop :=
  (∀ p : Port,
    (State.reset.port p).record =
      { tc :=
          { mode := .parked, returnMode := .dark, heldCause := none, armed := true, struck := 0, partner := none
            resolved := none, attempts := 0, autoSpent := false, energy := false, powered := 0, powerFault := false
            polarity := .const none, skew := .const none, swap := .unknown }
        sched := { status := .none, outcome := none }
        lastSource := none, offer := 0xF#4, rights := 0b1101#4, guardMask := 0b01010#5, effectiveOffer := 0xF#4
        ceiling := some .t2500
        pairs := .const
          { verdict := .untested, reason := none, faultDistance := none, probed := false, more := false
            truncated := false }
        findings := [], generation := 0 }
    ∧ (State.reset.port p).tc.f = (State.reset.port p).record.tc
    ∧ (State.reset.port p).sched = (State.reset.port p).record.sched ∧ (State.reset.port p).lastSource = none
    ∧ (State.reset.port p).tc.listen = none ∧ (State.reset.port p).tc.train = none
    ∧ (State.reset.port p).inChangeSet = false ∧ (State.reset.port p).nothingWaits
    ∧ (State.reset.port p).transmit = [] ∧ (State.reset.port p).inbox.next? = none)
  ∧ (∀ g : Group, (State.reset.group g).linked = false ∧ (State.reset.group g).silence = none)
  ∧ (∀ e : EngineId, State.reset.engine e = .idle)
  ∧ State.reset.queue = [] ∧ State.reset.order = [] ∧ poolFree State.reset = 256
  ∧ State.reset.errors = { first := none, second := none, jammed := false }
  ∧ State.reset.cursor = { port := 0, offset := 0 } ∧ State.reset.walk = { byPort := false, down := false }
  ∧ State.reset.page = false ∧ State.reset.bind = none ∧ State.reset.saved = none
  ∧ State.reset.reply = #v[0, 0, 0, 0, 0, 0, 0, 0] ∧ State.reset.writeHold = 0 ∧ State.reset.readHold = 0
  ∧ State.reset.busy = none
  ∧ State.reset.settings =
      { probe := { window := 1024, blanking := 8, threshold := 10, confirm := 3, velocity := 68 }
        tolerance := 5, marginal := 25, skewLimit := 40, tries := 3, listen := 1500, lowWater := 32
        alertChg := true, alertLow := false }
  ∧ (∀ i : TemplateId, (State.reset.templates[i]) =
      { valid := false, pairs := 0, firstPort := 0, lastPort := 0, low := 0, high := 0 })
  ∧ statusByte State.reset = 0x00#8 ∧ alertAsserted State.reset = false

/-- RESETn falling, power coming up, and DEVICE-RESET while not BUSY, whatever the Error Slot holds, each put every
block to its reset values in one step and make the part BUSY; the status byte then reads 80h and ALERTn is released.
What is outside the blocks (the pins, the bytes already shifted out, the queue of the model) is not part of it, but a
transaction under way ends: of a data transaction the byte begun is lost, and each further one reads 00h and writes
nothing, also where its control byte comes after the reset has begun; what is left of a status image is gone; and a
COMMAND-WRITE that was being clocked in is not taken as CSn rises, whether the reset has completed by then or not. No
other command touches what the pins have clocked (notes/assumptions/24.md). The reset completes only with RESETn high, and then every block stands at its reset values,
not BUSY, with the status byte 00h. RESETn returning high changes the pin alone. The reset values include the model's
own of notes/assumptions/17.md and 18.md. -/
def Obligations.DeviceResetBeginsAtEveryCauseAndCompletes : Prop :=
  (∀ s : State,
     let underReset (t : State) : Prop :=
       { t with transfer := none, sdo := [], serial := State.reset.serial, resetN := true, pending := [] }
           = { State.reset with busy := some .deviceReset }
         ∧ statusByte t = 0x80#8 ∧ alertAsserted t = false ∧ t.sdo = s.sdo ∧ t.pending = s.pending
         ∧ t.serial = { s.serial with ended := s.serial.selected, image := [] }
     let cut := s.transfer.map fun tr => { tr with judgment := .inReset, fetched := none }
     (s.resetN = true → ∃ t, exec .resetnAssert s = .next t ∧ underReset t ∧ t.resetN = false ∧ t.transfer = cut)
     ∧ (∃ t, exec .powerUp s = .next t ∧ underReset t ∧ t.resetN = s.resetN ∧ t.transfer = cut)
     ∧ (∀ extra, s.busy = none →
       ∃ t, exec (.deviceReset extra) s = .next t ∧ underReset t ∧ t.resetN = s.resetN ∧ t.transfer = none))
  ∧ (∀ s : State,
       (s.busy = some .deviceReset → s.resetN = true → ∃ t, exec .deviceResetComplete s = .next t
         ∧ { t with transfer := none, sdo := [], serial := State.reset.serial, pending := [] } = State.reset
         ∧ statusByte t = 0x00#8 ∧ t.sdo = s.sdo ∧ t.pending = s.pending ∧ t.serial = s.serial
         ∧ t.transfer = s.transfer.map fun tr => { tr with judgment := .inReset, fetched := none })
       ∧ (s.resetN = false → exec .deviceResetComplete s = .next s)
       ∧ exec .resetnRelease s = .next { s with resetN := true })
  ∧ (∀ (c : Instr) (s t : State), exec c s = .next t →
       t.serial = s.serial ∨ t.serial = { s.serial with ended := s.serial.selected, image := [] })
  ∧ ∀ s : State, s.serial.selected = true → s.serial.ended = true →
      (∀ e, e ≠ .csnRises → (s.edge e).serial.selected = true ∧ (s.edge e).serial.ended = true)
      ∧ s.edge .csnRises =
        { s with
          serial :=
            { selected := false, sck := false, bytes := [], bits := [], image := [], out := s.serial.out
              ended := false } }
      ∧ ∀ b : Byte, s.serial.sck = false → s.serial.bytes = [] →
          s.serial.bits =
            [b.getLsbD 7, b.getLsbD 6, b.getLsbD 5, b.getLsbD 4, b.getLsbD 3, b.getLsbD 2, b.getLsbD 1] →
          let t := s.edge (.sckRises (b.getLsbD 0))
          (b.getLsbD 7 ≠ b.getLsbD 6 →
            t.transfer = some { write := b.getLsbD 6, judgment := .inReset, raised := false, fetched := none })
          ∧ (b.getLsbD 7 = true → b.getLsbD 6 = true → t.serial.image = [])

/-! ## Line Signal Link (R25 to R33, R172) -/

/-- A frame whose check fails, or whose length byte is above 7, changes nothing. -/
def Obligations.DamagedFrameChangesNothing : Prop :=
  (∀ (g : Group) (body : List Byte) (check : Byte) (s : State),
      check ≠ crc8 body → exec (.frameReceive g (body ++ [check])) s = .next s)
    ∧ ∀ (g : Group) (header len : Byte) (rest : List Byte) (s : State),
      7 < len.toNat → exec (.frameReceive g (header :: len :: rest)) s = .next s

/-- Every inbound message in range, framed as R172 gives, is placed in the inbox of the port its frame names, and the
frame restarts the silence timer of the LINKED group; nothing else changes. -/
def Obligations.EveryInboundMessageReachesItsPort : Prop :=
  ∀ (g : Group) (i : GroupIndex) (m : Inbound) (s : State),
    m.inRange → (s.group g).linked = true →
    exec (.frameReceive g (frameOf m.code i m.payload)) s =
      .next ((s.setGroup g { s.group g with silence := some (Config.millis 1) }).modPort (portAt g i) fun ps =>
        { ps with inbox := ps.inbox.place m })

/-- Every valid frame, whatever its kind and contents, restarts the silence timer of a LINKED group and relinks a SILENT
one, each of whose eight ports gets one message, chosen by the mode in the Training Controller. A frame of an inbound
kind with its payload in range then places its message in the inbox of the port its header names; an idle frame, an
outbound or undefined kind and a payload out of range place nothing. Nothing else changes. -/
def Obligations.ValidFrameRelinksASilentGroup : Prop :=
  ∀ (g : Group) (header : Byte) (payload : List Byte) (s : State), payload.length ≤ 7 →
    let body := header :: BitVec.ofNat 8 payload.length :: payload
    let named : Port := portAt g ⟨header.toNat % 8, by omega⟩
    let carries (m : Inbound) : Prop := m.inRange ∧ header.toNat / 16 = m.code ∧ payload = m.payload
    ∃ u, OnlyGroup g s u
      ∧ u.group g = { s.group g with linked := true, silence := some (Config.millis 1) }
      ∧ ((s.group g).linked = true → ∀ i : GroupIndex, u.port (portAt g i) = s.port (portAt g i))
      ∧ ((s.group g).linked = false → ∀ i : GroupIndex, ∃ m,
        u.port (portAt g i) = { s.port (portAt g i) with transmit := (s.port (portAt g i)).transmit ++ [m] }
          ∧ ((s.port (portAt g i)).tc.f.mode ∈ [Mode.parked, Mode.dark, Mode.held, Mode.up] → m = .halt)
          ∧ ((s.port (portAt g i)).tc.f.mode = .listen → m = .advertise (s.E (portAt g i)))
          ∧ (∀ r, (s.port (portAt g i)).tc.f.mode = .train → (s.port (portAt g i)).tc.f.resolved = some r → m = .start r)
          ∧ ((s.port (portAt g i)).tc.f.mode = .lent → m = .detach))
      ∧ (∀ m, carries m → exec (.frameReceive g (body ++ [crc8 body])) s =
        .next (u.modPort named fun ps => { ps with inbox := ps.inbox.place m }))
      ∧ ((∀ m, ¬ carries m) → exec (.frameReceive g (body ++ [crc8 body])) s = .next u)

/-- When the silence timer of a LINKED group has run out, the group is SILENT, and each of its ports loses its
untransmitted messages and is told energy absent, and power on all four pairs without fault; nothing else changes. -/
def Obligations.SilenceReportsNoPartnerAndPowerEverywhere : Prop :=
  ∀ (g : Group) (s : State), (s.group g).linked = true → (s.group g).silence = some 0 →
    ∃ t, exec (.silenceExpiry g) s = .next t ∧ OnlyGroup g s t
      ∧ t.group g = { s.group g with linked := false, silence := none }
      ∧ ∀ i : GroupIndex, t.port (portAt g i) =
        { s.port (portAt g i) with
          transmit := []
          inbox := { (s.port (portAt g i)).inbox with energy := some false, power := some (0xF#4, false) } }

/-- After 100 µs without a frame sent, an idle frame is sent, in either state of the group. With no idle frame due, the
group sends the oldest message of the first port, from the turn on, whose list holds one; that message leaves the list
and the next index is served next. With no list holding a message nothing happens. -/
def Obligations.GroupSendsIdleFramesAndMessages : Prop :=
  ∀ (g : Group) (s : State),
    ((s.group g).idle = 0 →
      exec (.idleFrameSend g) s =
        .next (s.setGroup g { s.group g with sent := some [0x00#8, 0x00#8, 0x00#8], idle := Config.micros 100 }))
    ∧ ((s.group g).idle ≠ 0 →
      (∀ (i : GroupIndex) (m : Outbound) (rest : List Outbound),
        (s.port (portAt g i)).transmit = m :: rest →
        (∀ j : GroupIndex, (j - (s.group g).turn).val < (i - (s.group g).turn).val →
          (s.port (portAt g j)).transmit = []) →
        exec (.transmitMessage g) s =
          .next ((s.modPort (portAt g i) fun ps => { ps with transmit := rest }).setGroup g
            { s.group g with
              sent := some (frameOf m.code i m.payload), idle := Config.micros 100, turn := i + 1 }))
      ∧ ((∀ j : GroupIndex, (s.port (portAt g j)).transmit = []) → exec (.transmitMessage g) s = .next s))

/-- Messages handed for a port join the tail of its list in order while the group is LINKED and eight suffice; a message
handed to a list of eight leaves only the message that agrees with the port's mode; in a SILENT group all are
discarded. -/
def Obligations.HandedMessagesJoinOverflowOrVanish : Prop :=
  ∀ (s : State) (p : Port) (msgs : List Outbound),
    OnlyPort p s (s.hand p msgs)
    ∧ ((s.group (groupOf p)).linked = false → s.hand p msgs = s)
    ∧ ((s.group (groupOf p)).linked = true → (s.port p).transmit.length + msgs.length ≤ 8 →
        (s.hand p msgs).port p = { s.port p with transmit := (s.port p).transmit ++ msgs })
    ∧ (∀ m, (s.group (groupOf p)).linked = true → 8 ≤ (s.port p).transmit.length →
        (s.hand p [m]).port p = { s.port p with transmit := [(s.port p).agreeing] })

/-! ## Link Training (R40 to R63) -/

/-- POWER is taken in every mode: the pairs and the fault are recorded, and a fault fires POWER-FAULT. A powered pair of
a LENT port gives the power notice: an engine that holds the port in ATTACHING or SWEEPING stops in the same event, with
POWER-ABORT raised; one in CLOSING goes on; and with no engine on the port the notice is out. That the notice is taken
in this event exactly where an engine holds the port is notes/assumptions/12.md (DEDUCED). -/
def Obligations.PowerIsRecordedAndFires : Prop :=
  ∀ (p : Port) (pairs : PairSet) (fault : Bool) (s : State),
    s.takesSlot p .power = true → (s.port p).inbox.power = some (pairs, fault) →
    let leaves (notice : Bool) (after : State) : Prop :=
      ∃ t, exec (.takePower p) s = .next t
        ∧ EventLeaves false [] p
          { s.port p with
            tc := { (s.port p).tc with f := { (s.port p).tc.f with powered := pairs, powerFault := fault } }
            inbox := { (s.port p).inbox with power := none }
            firings := (s.port p).firings ++ if fault then [.source .powerFault] else []
            powerNotice := notice }
          [] after t
    ((s.port p).tc.f.mode ≠ .lent ∨ pairs = 0 → leaves (s.port p).powerNotice s)
    ∧ ((s.port p).tc.f.mode = .lent → pairs ≠ 0 →
      (∀ e r, s.engineHolding p = some e →
        ((∃ wait, s.engine e = .attaching r wait) ∨ (∃ q n left table, s.engine e = .sweeping r q n left table) →
          leaves (s.port p).powerNotice
            ((s.report .powerAbort .event (some p)).setEngine e (.closing { r with completed := [] } .power)))
        ∧ (∀ ending, s.engine e = .closing r ending → leaves (s.port p).powerNotice s))
      ∧ (s.engineHolding p = none → leaves true s))

/-- DETACHED of a LENT port starts the first sweep of the engine that holds it in ATTACHING; in every other case it is
discarded. No record changes. -/
def Obligations.DetachedStartsTheSweepsOrIsDiscarded : Prop :=
  ∀ (p : Port) (s : State), s.takesSlot p .detached = true →
    let taken := s.setInbox p { (s.port p).inbox with detached := false }
    (∀ (e : EngineId) (r : Run) (wait : Nat) (q : Pair),
      (s.port p).tc.f.mode = .lent → s.engineHolding p = some e → s.engine e = .attaching r wait → r.completed = [] →
      pairIn q r.toSweep = true → (∀ q' : Pair, q'.index < q.index → pairIn q' r.toSweep = false) →
      exec (.takeDetached p) s = .next (taken.setEngine e (.sweeping r q 1 r.latched.window [])))
    ∧ (((s.port p).tc.f.mode ≠ .lent ∨ s.engineHolding p = none
          ∨ ∃ e, s.engineHolding p = some e ∧ ∀ r wait, s.engine e ≠ .attaching r wait) →
      exec (.takeDetached p) s = .next taken)

/-- ENERGY absent halts a port in LISTEN, TRAIN or UP to DARK and clears the partner set everywhere; ENERGY present in
DARK leaves DARK, to LISTEN or, where the offer is empty, to HELD EXHAUSTED; elsewhere it is recorded. LOST in UP hands
HALT and clears the resolved rate; with energy the port advertises again, or is HELD EXHAUSTED where the offer is empty,
and without energy it is DARK. -/
def Obligations.EnergyAndLostMoveThePort : Prop :=
  (∀ (p : Port) (present : Bool) (s : State),
     s.takesSlot p .energy = true → (s.port p).inbox.energy = some present →
     let m := { (s.port p).tc with f := { (s.port p).tc.f with energy := present } }
     let gone := { m with f := { m.f with partner := none } }
     let leaves (m' : PortMachine) (msgs : List Outbound) : Prop :=
       ∃ t, exec (.takeEnergy p) s = .next t
         ∧ EventLeaves false [] p { s.port p with tc := m', inbox := { (s.port p).inbox with energy := none } } msgs s t
     (present = false → (s.port p).tc.f.mode ∈ [Mode.listen, Mode.train, Mode.up] →
       leaves (gone.stoppedIn .dark) [.halt])
     ∧ (present = false → (s.port p).tc.f.mode ∉ [Mode.listen, Mode.train, Mode.up] → leaves gone [])
     ∧ (present = true → (s.port p).tc.f.mode = .dark →
       leaves (m.advertised (s.E p) s.settings.listen false).1 (m.advertised (s.E p) s.settings.listen false).2)
     ∧ (present = true → (s.port p).tc.f.mode ≠ .dark → leaves m []))
  ∧ (∀ (p : Port) (s : State), s.takesSlot p .lost = true → (s.port p).tc.f.mode = .up →
       let next := (s.port p).tc.advertised (s.E p) s.settings.listen true
       let leaves (m' : PortMachine) (msgs : List Outbound) : Prop :=
         ∃ t, exec (.takeLost p) s = .next t
           ∧ EventLeaves false [] p { s.port p with tc := m', inbox := { (s.port p).inbox with lost := false } } msgs s t
       ((s.port p).tc.f.energy = true → leaves next.1 (.halt :: next.2))
       ∧ ((s.port p).tc.f.energy = false → leaves ((s.port p).tc.stoppedIn .dark) [.halt]))

/-- The Training Controller takes the first full slot of a port's inbox in the order POWER, DETACHED, ENERGY, LOST,
RESULT, PAGE. While an update of it for the port waits behind a bind it takes no message and no expiry of the port; in a
device reset it takes no message (notes/assumptions/16.md). That an update all of whose fields host commands have
taken out waits no longer is notes/assumptions/38.md (DESIGN CHOICE). A message not next to be taken, and an expiry of a port
whose update waits, change nothing. In the modes where they mean nothing, PAGE, RESULT and LOST are discarded: taking
one empties its slot and changes nothing else, the record included. -/
def Obligations.MeaninglessMessagesOnlyEmptyTheirSlot : Prop :=
  (∀ (p : Port) (s : State),
    let box := (s.port p).inbox
    let takes : Prop := s.busy ≠ some .deviceReset ∧ (s.port p).tcWaiting = []
    let untaken (slot : Slot) (c : Instr) : Prop := s.takesSlot p slot = false → exec c s = .next s
    (s.takesSlot p .power = true ↔ takes ∧ box.power ≠ none)
    ∧ (s.takesSlot p .detached = true ↔ takes ∧ box.power = none ∧ box.detached = true)
    ∧ (s.takesSlot p .energy = true ↔ takes ∧ box.power = none ∧ box.detached = false ∧ box.energy ≠ none)
    ∧ (s.takesSlot p .lost = true ↔
      takes ∧ box.power = none ∧ box.detached = false ∧ box.energy = none ∧ box.lost = true)
    ∧ (s.takesSlot p .result = true ↔
      takes ∧ box.power = none ∧ box.detached = false ∧ box.energy = none ∧ box.lost = false ∧ box.result ≠ none)
    ∧ (s.takesSlot p .page = true ↔
      takes ∧ box.power = none ∧ box.detached = false ∧ box.energy = none ∧ box.lost = false ∧ box.result = none
        ∧ box.page ≠ none)
    ∧ untaken .power (.takePower p) ∧ untaken .detached (.takeDetached p) ∧ untaken .energy (.takeEnergy p)
    ∧ untaken .lost (.takeLost p) ∧ untaken .result (.takeResultPass p) ∧ untaken .result (.takeResultFail p)
    ∧ untaken .page (.takePage p)
    ∧ ((s.port p).tcWaiting ≠ [] → exec (.listenExpiry p) s = .next s ∧ exec (.trainExpiry p) s = .next s))
  ∧ ∀ (p : Port) (s : State),
      (s.takesSlot p .page = true → (s.port p).tc.f.mode ∈ [Mode.parked, Mode.dark, Mode.held, Mode.lent] →
        exec (.takePage p) s = .next (s.setInbox p { (s.port p).inbox with page := none }))
      ∧ (s.takesSlot p .result = true →
          (s.port p).tc.f.mode ∈ [Mode.parked, Mode.dark, Mode.listen, Mode.up, Mode.held, Mode.lent] →
        ((s.port p).inbox.result = some .fail →
          exec (.takeResultFail p) s = .next (s.setInbox p { (s.port p).inbox with result := none }))
        ∧ (∀ inverted skew swap, (s.port p).inbox.result = some (.pass inverted skew swap) →
          exec (.takeResultPass p) s = .next (s.setInbox p { (s.port p).inbox with result := none })))
      ∧ (s.takesSlot p .lost = true →
          (s.port p).tc.f.mode ∈ [Mode.parked, Mode.dark, Mode.listen, Mode.train, Mode.held, Mode.lent] →
        exec (.takeLost p) s = .next (s.setInbox p { (s.port p).inbox with lost := false }))

/-- RESULT pass in TRAIN brings the port UP, keeps the reports of the pairs trained at the resolved rate and no others,
and, with no bind open, has every verdict and the ceiling derived again in the same update, also where no skew value
changed: that its update carries skew in any case is notes/assumptions/21.md (DEDUCED; also 9.md). -/
def Obligations.ResultPassBringsThePortUp : Prop :=
  ∀ (p : Port) (inverted : PairSet) (skew : PerPair Nat) (swap : Swap) (rate : Rate) (s : State),
    s.takesSlot p .result = true → (s.port p).inbox.result = some (.pass inverted skew swap) →
    (s.port p).tc.f.mode = .train → (s.port p).tc.f.resolved = some rate →
    let trained (q : Pair) : Bool := decide (rate = .t1000 ∨ rate = .t2500 ∨ q = .a ∨ q = .b)
    ∃ t, exec (.takeResultPass p) s = .next t
      ∧ EventLeavesButVerdicts false [.skew] p
        { s.port p with
          inbox := { (s.port p).inbox with result := none }
          tc :=
            { f := { (s.port p).tc.f with
                mode := .up, attempts := 0, autoSpent := false
                polarity := .build fun q => if trained q then some (pairIn q inverted) else none
                skew := .build fun q => if trained q then some (skew.get q) else none
                swap := swap }
              listen := none, train := none } }
        [] s t
      ∧ (s.bind = none →
        (∀ q, (t.port p).record.pairs.get q =
          deriveAccount s.settings (s.port p).record.findings ((t.port p).record.tc.skew.get q) q
            ((s.port p).record.pairs.get q))
        ∧ (t.port p).record.ceiling = ceilingOf (t.port p).record.verdicts)

/-- RESULT fail in TRAIN, and the expiry of the train timer, count a failure: below tries the attempt is repeated; at
tries without SHIFT the count starts again; at tries with SHIFT the rate is struck, DOWNSHIFT fires, an auto-probe is
requested where AUTO is held and not spent, and the port is withdrawn, advertises, or is HELD EXHAUSTED. The train
window is 100 ms at T10 and T100, 750 ms at T1000 and 1500 ms at T2500. That the strike's own update comes before the
Line Guard's is notes/assumptions/35.md (DESIGN CHOICE). -/
def Obligations.FailedAttemptRetriesOrStrikes : Prop :=
  [Rate.t10, .t100, .t1000, .t2500].map trainWindow =
    [Config.millis 100, Config.millis 100, Config.millis 750, Config.millis 1500]
  ∧ ∀ (p : Port) (rate : Rate) (c : Instr) (box : Inbox) (s : State),
    ((c = .takeResultFail p ∧ s.takesSlot p .result = true ∧ (s.port p).inbox.result = some .fail
        ∧ box = { (s.port p).inbox with result := none })
      ∨ (c = .trainExpiry p ∧ (s.port p).tcWaiting = [] ∧ (s.port p).tc.train = some 0 ∧ box = (s.port p).inbox)) →
    (s.port p).tc.f.mode = .train → (s.port p).tc.f.resolved = some rate →
    let f := (s.port p).tc.f
    let r := (s.port p).record
    let auto := r.rights.getLsbD 2 && !f.autoSpent
    let struck : PortMachine :=
      { (s.port p).tc with
        f := { f with
          struck := f.struck ||| BitVec.ofNat 4 (2 ^ rate.index), attempts := 0, autoSpent := f.autoSpent || auto } }
    let next := struck.advertised (offeredRates r.offer struck.f.struck r.ceiling) s.settings.listen false
    let leaves (expected : PortState) (msgs : List Outbound) : Prop :=
      ∃ t, exec c s = .next t ∧ EventLeaves false [] p { expected with inbox := box } msgs s t
    let strikes (m' : PortMachine) (msgs : List Outbound) : Prop :=
      leaves
        { s.port p with
          tc := m', firings := (s.port p).firings ++ [.source .downshift]
          autoRequests := (s.port p).autoRequests + if auto then 1 else 0 } msgs
    (f.attempts + 1 < s.settings.tries →
      leaves { s.port p with tc := (s.port p).tc.training rate (f.attempts + 1) } [.start rate])
    ∧ (s.settings.tries ≤ f.attempts + 1 → r.rights.getLsbD 3 = false →
      leaves { s.port p with tc := (s.port p).tc.training rate 0 } [.start rate])
    ∧ (s.settings.tries ≤ f.attempts + 1 → r.rights.getLsbD 3 = true → r.guardMask.getLsbD 4 = true → f.armed = true →
      strikes
        { struck.heldFor .downshift with f := { (struck.heldFor .downshift).f with armed := false } } [.halt])
    ∧ (s.settings.tries ≤ f.attempts + 1 → r.rights.getLsbD 3 = true →
      (r.guardMask.getLsbD 4 = false ∨ f.armed = false) → strikes next.1 next.2)

/-- PAGE in LISTEN, TRAIN and UP records the partner set and resolves: the highest rate in both E and the page is
started with attempts 0; with no such rate LISTEN stays as it is, and TRAIN and UP advertise again or are HELD
EXHAUSTED. From UP, HALT goes first. -/
def Obligations.PageResolvesTheHighestCommonRate : Prop :=
  ∀ (p : Port) (rates : RateSet) (s : State),
    s.takesSlot p .page = true → (s.port p).inbox.page = some rates →
    let m : PortMachine := { (s.port p).tc with f := { (s.port p).tc.f with partner := some rates } }
    let common := s.E p &&& rates
    let up := decide ((s.port p).tc.f.mode = .up)
    let first : List Outbound := if up then [.halt] else []
    let next := m.advertised (s.E p) s.settings.listen up
    let leaves (m' : PortMachine) (msgs : List Outbound) : Prop :=
      ∃ t, exec (.takePage p) s = .next t
        ∧ EventLeaves false [] p { s.port p with tc := m', inbox := { (s.port p).inbox with page := none } } msgs s t
    (∀ rate : Rate, (s.port p).tc.f.mode ∈ [Mode.listen, Mode.train, Mode.up] → common.getLsbD rate.index = true →
      (∀ r : Rate, rate.index < r.index → common.getLsbD r.index = false) →
      leaves (m.training rate 0) (first ++ [.start rate]))
    ∧ (common = 0 → (s.port p).tc.f.mode = .listen → leaves m [])
    ∧ (common = 0 → (s.port p).tc.f.mode ∈ [Mode.train, Mode.up] → leaves next.1 (first ++ next.2))

/-- The listen timer expires in LISTEN: ADVERTISE goes out again and the timer starts again, or, with an empty offer,
the port is HELD EXHAUSTED with HALT. -/
def Obligations.ListenExpiryAdvertisesAgain : Prop :=
  ∀ (p : Port) (s : State),
    (s.port p).tcWaiting = [] → (s.port p).tc.listen = some 0 → (s.port p).tc.f.mode = .listen →
    let next := (s.port p).tc.advertised (s.E p) s.settings.listen false
    ∃ t, exec (.listenExpiry p) s = .next t ∧ EventLeaves false [] p { s.port p with tc := next.1 } next.2 s t

/-- WITHDRAW takes an active port to HELD with the source as cause and armed no; on a lent port it lands on the return
mode, unless that is PARKED; in PARKED and HELD it has no effect. That the oldest WITHDRAW handed is taken in an event
of its own is notes/assumptions/13.md (DEDUCED). -/
def Obligations.WithdrawTakesThePortOutOfService : Prop :=
  ∀ (p : Port) (src : GuardSource) (rest : List GuardSource) (s : State),
    (s.port p).withdraws = src :: rest →
    let m := (s.port p).tc
    let leaves (m' : PortMachine) (msgs : List Outbound) : Prop :=
      ∃ t, exec (.takeWithdraw p) s = .next t ∧ EventLeaves false [] p { s.port p with tc := m', withdraws := rest } msgs s t
    (m.f.mode ∈ [Mode.dark, Mode.listen, Mode.train, Mode.up] →
      leaves
        { m.heldFor src.heldCause with f := { (m.heldFor src.heldCause).f with armed := false } } [.halt])
    ∧ (m.f.mode = .lent → m.f.returnMode ≠ .parked →
      leaves { m with f := { m.f with returnMode := .held, heldCause := some src.heldCause, armed := false } } [])
    ∧ (m.f.mode = .lent → m.f.returnMode = .parked → leaves m [])
    ∧ (m.f.mode ∈ [Mode.parked, Mode.held] → leaves m [])

/-- PARK is accepted in every mode: HALT and PARKED, or, on a lent port, return mode PARKED. The held cause is cleared
and armed, the partner set, the struck set and AUTO-SPENT are kept. UNPARK releases a PARKED port: AUTO-SPENT is cleared
and the port is DARK, or goes on at once to LISTEN or HELD EXHAUSTED where it has energy. On a lent port it turns return
mode PARKED into DARK; elsewhere it changes nothing. UNPARK's update writes the fields its rule has it set also where
they stand so already (R20, R45; notes/assumptions/9.md). Where either writes the mode it writes the fields tied to it too:
the return mode (R2), and the held cause, the resolved rate and attempts (DEDUCED, notes/assumptions/40.md). -/
def Obligations.ParkKeepsThePortOutAndUnparkReleasesIt : Prop :=
  (∀ (b : Byte) (extra : List Byte) (p : Port) (s : State),
     s.takesHost → s.page = false → portOf? b.toNat = some p →
     let m := (s.port p).tc
     let parked := { m.stoppedIn .parked with f := { (m.stoppedIn .parked).f with heldCause := none } }
     let leaves (writes : List TcField) (m' : PortMachine) (msgs : List Outbound) : Prop :=
       ∃ u, exec (.park (b :: extra)) s = .next (u.withReply replyAccepted).countAccess
         ∧ EventLeaves true writes p { s.port p with tc := m' } msgs { s with transfer := none } u
     (m.f.mode ∉ [Mode.lent, Mode.parked] →
       leaves [.mode, .returnMode, .heldCause, .resolved, .attempts] parked [.halt])
     ∧ (m.f.mode = .parked → leaves [] parked [.halt])
     ∧ (m.f.mode = .lent → leaves [] { m with f := { m.f with returnMode := .parked, heldCause := none } } []))
  ∧ (∀ (b : Byte) (extra : List Byte) (p : Port) (s : State),
       s.takesHost → s.page = false → portOf? b.toNat = some p →
       let m := (s.port p).tc
       let fresh := { m with f := { m.f with autoSpent := false } }
       let next := fresh.advertised (s.E p) s.settings.listen false
       let leaves (writes : List TcField) (m' : PortMachine) (msgs : List Outbound) : Prop :=
         ∃ u, exec (.unpark (b :: extra)) s = .next (u.withReply replyAccepted).countAccess
           ∧ EventLeaves true writes p { s.port p with tc := m' } msgs { s with transfer := none } u
       let released : List TcField := [.mode, .returnMode, .heldCause, .resolved, .attempts, .autoSpent]
       (m.f.mode = .parked → m.f.energy = true → leaves released next.1 next.2)
       ∧ (m.f.mode = .parked → m.f.energy = false → leaves released (fresh.stoppedIn .dark) [])
       ∧ (m.f.mode = .lent → m.f.returnMode = .parked →
         leaves [.returnMode, .autoSpent] { m with f := { m.f with returnMode := .dark, autoSpent := false } } [])
       ∧ ((m.f.mode ≠ .parked ∧ (m.f.mode ≠ .lent ∨ m.f.returnMode ≠ .parked)) → leaves [] m []))

/-- RESTART begins a new episode in DARK, LISTEN, TRAIN and UP, with the struck set emptied, AUTO-SPENT no and attempts
0; the live modes hand HALT and go on from DARK. In PARKED, HELD and LENT it is refused with NOT-PERMITTED. REARM sets
armed to yes in every mode. It releases a HELD port to DARK and on to LISTEN or HELD EXHAUSTED where it has energy, with
the held cause cleared and a new episode begun; on a lent port whose return mode is HELD it does so to the return mode.
The update of each writes the fields its rule has it set also where they stand so already (R20, R45;
notes/assumptions/9.md), and where either writes the mode the fields tied to it too: the return mode (R2), and the held
cause, the resolved rate and attempts (DEDUCED, notes/assumptions/40.md). -/
def Obligations.RestartAndRearmBeginANewEpisode : Prop :=
  (∀ (b : Byte) (extra : List Byte) (p : Port) (s : State),
     s.takesHost → s.page = false → portOf? b.toNat = some p →
     let m := (s.port p).tc
     let r := (s.port p).record
     let fresh := { m with f := { m.f with struck := 0, autoSpent := false, attempts := 0 } }
     let next := fresh.advertised (offeredRates r.offer 0 r.ceiling) s.settings.listen true
     let leaves (writes : List TcField) (m' : PortMachine) (msgs : List Outbound) : Prop :=
       ∃ u, exec (.restart (b :: extra)) s = .next (u.withReply replyAccepted).countAccess
         ∧ EventLeaves true writes p { s.port p with tc := m' } msgs { s with transfer := none } u
     let begun : List TcField := [.mode, .returnMode, .heldCause, .resolved, .attempts, .struck, .autoSpent]
     (m.f.mode ∈ [Mode.listen, Mode.train, Mode.up] → m.f.energy = true → leaves begun next.1 (.halt :: next.2))
     ∧ (m.f.mode ∈ [Mode.listen, Mode.train, Mode.up] → m.f.energy = false →
       leaves begun (fresh.stoppedIn .dark) [.halt])
     ∧ (m.f.mode = .dark → leaves [.struck, .attempts, .autoSpent] fresh [])
     ∧ (m.f.mode ∈ [Mode.parked, Mode.held, Mode.lent] →
       exec (.restart (b :: extra)) s =
         .next ({ s with transfer := none }.refuse .notPermitted (some p)).countAccess))
  ∧ (∀ (b : Byte) (extra : List Byte) (p : Port) (s : State),
       s.takesHost → s.page = false → portOf? b.toNat = some p →
       let m := (s.port p).tc
       let r := (s.port p).record
       let fresh :=
         { m with f := { m.f with struck := 0, autoSpent := false, attempts := 0, heldCause := none, armed := true } }
       let next := fresh.advertised (offeredRates r.offer 0 r.ceiling) s.settings.listen false
       let leaves (writes : List TcField) (m' : PortMachine) (msgs : List Outbound) : Prop :=
         ∃ u, exec (.rearm (b :: extra)) s = .next (u.withReply replyAccepted).countAccess
           ∧ EventLeaves true writes p { s.port p with tc := m' } msgs { s with transfer := none } u
       let released : List TcField :=
         [.mode, .returnMode, .heldCause, .resolved, .attempts, .armed, .struck, .autoSpent]
       (m.f.mode = .held → m.f.energy = true → leaves released next.1 next.2)
       ∧ (m.f.mode = .held → m.f.energy = false → leaves released (fresh.stoppedIn .dark) [])
       ∧ (m.f.mode = .lent → m.f.returnMode = .held →
         leaves [.returnMode, .heldCause, .armed, .struck, .autoSpent]
           { m with
             f := { m.f with returnMode := .dark, heldCause := none, armed := true, struck := 0, autoSpent := false } } [])
       ∧ ((m.f.mode ≠ .held ∧ (m.f.mode ≠ .lent ∨ m.f.returnMode ≠ .held)) →
         leaves [.armed] { m with f := { m.f with armed := true } } []))

/-! ## Updates and binds (R12 to R16, R18 to R21, R151 to R154) -/

/-- The Store applies a record whole: one that changes nothing has no effect, and any other advances the generation by
one, joins the change set, and has its effective offer recomputed. The effective offer is the offer without the struck
rates and those above the ceiling; the ceiling is given by R11's table of the four verdicts, and a pair's verdict,
reason and fault distance by R118's table. -/
def Obligations.AppliedUpdateAdvancesTheGenerationOnce : Prop :=
  (∀ (p : Port) (r : LineRecord) (s : State),
    (r = (s.port p).record → s.commit p r = s)
    ∧ (r ≠ (s.port p).record →
      s.commit p r =
        s.setPort p
          { s.port p with
            record :=
              { r with
                effectiveOffer := offeredRates r.offer r.tc.struck r.ceiling
                generation := (s.port p).record.generation + 1 }
            inChangeSet := true }))
  ∧ (∀ (offer struck : RateSet) (ceiling : Option Rate) (rate : Rate),
       (offeredRates offer struck ceiling).getLsbD rate.index = true ↔
         offer.getLsbD rate.index = true ∧ struck.getLsbD rate.index = false
           ∧ ∃ top, ceiling = some top ∧ rate.index ≤ top.index)
  ∧ (∀ v : PerPair Verdict,
       let good (q : Pair) : Prop := v.get q = .good ∨ v.get q = .untested
       let usable (q : Pair) : Prop := good q ∨ v.get q = .marginal
       ((∀ q, good q) → ceilingOf v = some .t2500)
       ∧ ((¬ ∀ q, good q) → (∀ q, usable q) → ceilingOf v = some .t1000)
       ∧ ((¬ ∀ q, usable q) → usable .a ∧ usable .b → ceilingOf v = some .t100)
       ∧ (¬ (usable .a ∧ usable .b) → ceilingOf v = none))
  ∧ ∀ (x : Settings) (findings : List Finding) (skew : Option Nat) (q : Pair) (old : PairAccount),
       let counts (f : Finding) : Prop := f.pair = q ∧ (f.state = .fresh ∨ f.state = .standing)
       let fault (f : Finding) (v : Verdict) : Prop := counts f
         ∧ ((f.kind = .open ∧ v = .open) ∨ (f.kind = .short ∧ v = .short) ∨ ((∃ k, f.kind = .cross k) ∧ v = .cross))
       let marginal (f : Finding) : Prop := counts f ∧ (f.kind = .highZ ∨ f.kind = .lowZ)
         ∧ x.marginal ≤ f.amplitude.natAbs
       let wide := ∃ k, skew = some k ∧ x.skewLimit < k
       let gives (verdict : Verdict) (reason : Option Reason) (distance : Option Nat) : Prop :=
         deriveAccount x findings skew q old =
           { old with verdict := verdict, reason := reason, faultDistance := distance }
       (∀ before f after v, findings = before ++ f :: after → (∀ g ∈ before, ∀ w, ¬ fault g w) → fault f v →
         gives v (some .finding) (some f.distance))
       ∧ ((∀ g ∈ findings, ∀ w, ¬ fault g w) →
         (∀ before f after, findings = before ++ f :: after → (∀ g ∈ before, ¬ marginal g) → marginal f →
           gives .marginal (some .finding) (some f.distance))
         ∧ ((∀ g ∈ findings, ¬ marginal g) →
           (wide → gives .marginal (some .skew) none)
           ∧ (¬ wide → old.probed = true → gives .good none none)
           ∧ (¬ wide → old.probed = false → gives .untested none none)))

/-- TAKE-CHANGE takes the lowest-numbered port out of the change set and replies with it and its generation; with an
empty change set it replies port 0FFh and generation 0 and changes nothing. -/
def Obligations.TakeChangeReportsTheLowestChangedPort : Prop :=
  ∀ (extra : List Byte) (s : State), s.takesHost →
    let s0 := { s with transfer := none }
    (∀ p : Port, (s.port p).inChangeSet = true → (∀ q : Port, q < p → (s.port q).inChangeSet = false) →
      exec (.takeChange extra) s =
        .next ((s0.setPort p { s.port p with inChangeSet := false }).withReply
          #v[0x00#8, BitVec.ofNat 8 p.val, (s.port p).record.generation.setWidth 8,
            ((s.port p).record.generation >>> 8).setWidth 8, 0, 0, 0, 0]).countAccess)
    ∧ ((∀ q : Port, (s.port q).inChangeSet = false) →
      exec (.takeChange extra) s = .next (s0.withReply #v[0x00#8, 0xFF#8, 0, 0, 0, 0, 0, 0]).countAccess)

/-- BIND and AIM with operands in range open the bind or restart it with n accesses and 500 µs; AIM also saves the
cursor, unless one is saved, and sets it to the start of its port. Out of range they are refused with BAD-ARG. -/
def Obligations.BindAndAimOpenABind : Prop :=
  ∀ (p n : Byte) (extra : List Byte) (s : State), s.takesHost →
    let s0 := { s with transfer := none }
    let opened : Bind := { left := n.toNat, timer := Config.micros 500 }
    let refused := Host.Outcome.next (s0.refuse .badArg none).countAccess
    (1 ≤ n.toNat → n.toNat ≤ 32 →
      exec (.bind (n :: extra)) s = .next ({ s0 with bind := some opened }.withReply replyAccepted)
      ∧ (p.toNat ≤ 50 →
        exec (.aim (p :: n :: extra)) s =
          .next ({ s0 with
            bind := some opened
            saved := some (s.saved.getD s.cursor)
            cursor := { port := p.toNat, offset := 0 } }.withReply replyAccepted)))
    ∧ (n.toNat = 0 ∨ 33 ≤ n.toNat → exec (.bind (n :: extra)) s = refused)
    ∧ (n.toNat = 0 ∨ 33 ≤ n.toNat ∨ 51 ≤ p.toNat → exec (.aim (p :: n :: extra)) s = refused)

/-- Every access under a bind lowers its count and restarts its timer at 500 µs, and the access that finds the count at
one ends the bind in its own event, whether it is carried out, refused or discarded; BIND_COUNT_END is that access given
as an operand (notes/assumptions/8.md). A bind whose timer has run out ends with BIND-EXPIRED. -/
def Obligations.BindEndsByCountOrByExpiry : Prop :=
  ∀ (s : State),
    (s.bind = none → s.countAccess = s)
    ∧ (∀ b, s.bind = some b → 2 ≤ b.left →
      s.countAccess = { s with bind := some { left := b.left - 1, timer := Config.micros 500 } })
    ∧ (∀ b, s.bind = some b → b.left = 1 → s.countAccess = s.endBind)
    ∧ (∀ b c op rest, s.bind = some b → b.left = 1 → s.busy ≠ some .deviceReset →
      commandBytes c = some (op :: rest) → op ∉ [0x04#8, 0x05#8, 0x0F#8] →
      ∃ t, exec (.bindCountEnd (.command (op :: rest))) s = .next t ∧ exec c s = .next t ∧ t.bind = none)
    ∧ (∀ b tr, s.bind = some b → b.left = 1 → s.busy ≠ some .deviceReset →
      s.transfer = some tr → tr.judgment ≠ .inReset →
      (tr.write = false →
        ∃ t, exec (.bindCountEnd .readByte) s = .next t ∧ exec (.dataRead .byte) s = .next t ∧ t.bind = none)
      ∧ (tr.write = true → ∀ v,
        ∃ t, exec (.bindCountEnd (.writeByte v)) s = .next t ∧ exec (.dataWrite (.byte v)) s = .next t ∧ t.bind = none))
    ∧ (∀ b, s.bind = some b → b.timer = 0 →
      exec .bindExpiry s = .next (s.report .bindExpired .event none).endBind)

/-- The end of a bind closes it, restores a saved cursor and applies every waiting update, the Training Controller's,
the Scheduler's and the Line Guard's in turn (DESIGN CHOICE, notes/assumptions/8.md), the first two as one with one
generation where they wait as one update (DEDUCED, notes/assumptions/11.md). Each that changes something advances the
generation by one and recomputes the effective offer; one that carries skew values has every verdict and the ceiling
derived again. A PORT-RESET that waits for this end is then made (notes/assumptions/15.md). -/
def Obligations.EndOfBindAppliesEveryWaitingUpdate : Prop :=
  (∀ s : State, (∀ q, s.busy ≠ some (.portReset q true)) →
    let t := s.endBind
    { t with ports := s.ports, bind := s.bind, cursor := s.cursor, saved := s.saved } = s
    ∧ t.bind = none ∧ t.saved = none ∧ t.cursor = s.saved.getD s.cursor
    ∧ ∀ p : Port,
      let a := s.port p
      let rederived (r : LineRecord) : LineRecord :=
        let pairs : PerPair PairAccount := .build fun q =>
          deriveAccount s.settings r.findings (r.tc.skew.get q) q (r.pairs.get q)
        { r with pairs := pairs, ceiling := ceilingOf (.build fun q => (pairs.get q).verdict) }
      let applied (before after : LineRecord) : LineRecord :=
        if after = before then before
        else { after with
          effectiveOffer := offeredRates after.offer after.tc.struck after.ceiling
          generation := before.generation + 1 }
      ∃ (tc : TcFields) (sched : SchedFields),
        (∀ f, TcField.differs tc (if f ∈ a.tcWaiting then a.tc.f else a.record.tc) f = false)
        ∧ sched.status = (if .status ∈ a.schedWaiting then a.sched.status else a.record.sched.status)
        ∧ sched.outcome = (if .outcome ∈ a.schedWaiting then a.sched.outcome else a.record.sched.outcome)
        ∧ (let withTc (r : LineRecord) : LineRecord :=
            if .skew ∈ a.tcWaiting then rederived { r with tc := tc } else { r with tc := tc }
          let withSched (r : LineRecord) : LineRecord := { r with sched := sched }
          let both :=
            if a.jointWaiting then applied a.record (withTc (withSched a.record))
            else applied (applied a.record (withTc a.record)) (withSched (applied a.record (withTc a.record)))
          let last := if a.guardWaiting then applied both { both with lastSource := a.lastSource } else both
          t.port p =
            { a with
              record := last, inChangeSet := a.inChangeSet || decide (last ≠ a.record)
              tcWaiting := [], schedWaiting := [], guardWaiting := false, jointWaiting := false }))
  ∧ ∀ (s : State) (q : Port), s.busy = some (.portReset q true) →
      let u := { s with busy := none }.endBind
      ∃ t, PortResetLeaves true q u t ∧ s.endBind = t.withReply replyAccepted

/-! ## Error Slot (R161 to R167) -/

/-- The Error Slot keeps the first report with its port and origin, the second with its origin, and marks itself JAMMED
at the third; a JAMMED slot keeps nothing more. ERR is set and ALERTn asserted from the first on, JAM while JAMMED. A
refused command writes REFUSED as well, whatever the slot keeps. -/
def Obligations.ErrorSlotTakesAReport : Prop :=
  ∀ (c : Cause) (o : Origin) (p : Option Port) (s : State),
    let t := s.report c o p
    let x := s.errors
    { t with errors := s.errors } = s
    ∧ (x.first = none → t.errors = { x with first := some { cause := c, origin := o, port := p } })
    ∧ (∀ f, x.first = some f → x.second = none →
      t.errors = { x with second := some { cause := c, origin := o } })
    ∧ (∀ f g, x.first = some f → x.second = some g → x.jammed = false → t.errors = { x with jammed := true })
    ∧ (∀ f g, x.first = some f → x.second = some g → x.jammed = true → t.errors = x)
    ∧ (statusByte t).getLsbD 6 = true ∧ (statusByte t).getLsbD 5 = t.errors.jammed ∧ alertAsserted t = true
    ∧ s.refuse c p = (s.report c .command p).withReply #v[0xFF#8, 0, 0, 0, 0, 0, 0, 0]

/-- READ-ERROR replies with the slot's image and leaves the slot; CLEAR-ERROR empties the slot, so that ERR and JAM
clear and ALERTn is held by CHG and LOW alone. Both are taken while the slot is JAMMED. The retry indication of each of
the sixteen causes is fixed by a table. -/
def Obligations.ErrorSlotIsReadAndCleared : Prop :=
  ([Cause.badPort, .badArg, .badValue, .readOnly, .unknownCmd, .shortFrame, .busy, .notPermitted, .powered, .probeActive,
      .queueFull, .notFound, .poolExhausted, .bindExpired, .noDetach, .powerAbort].map Cause.retry =
    [false, false, false, false, false, false, true, false, false, true, true, false, false, false, true, true])
  ∧ ∀ (extra : List Byte) (s : State), s.busy = none →
    let s0 := { s with transfer := none }
    let x := s.errors
    let cleared := { s0 with errors := { first := none, second := none, jammed := false } }.withReply replyAccepted
    (∃ r : Vector Byte 8,
      exec (.readError extra) s = .next (s0.withReply r).countAccess
      ∧ r[0] = 0x00#8
      ∧ r[1] = (match x.first with
        | none => 0x00#8
        | some f => BitVec.ofNat 8 f.cause.code)
      ∧ r[2] = (match x.first.bind fun f => f.port with
        | none => 0xFF#8
        | some q => BitVec.ofNat 8 q.val)
      ∧ (r[3].getLsbD 0 = true ↔ ∃ f, x.first = some f ∧ f.origin = .event)
      ∧ (r[3].getLsbD 1 = true ↔ ∃ f, x.first = some f ∧ f.cause.retry = true)
      ∧ r[3].getLsbD 2 = x.second.isSome
      ∧ r[3].getLsbD 3 = x.jammed
      ∧ (r[3].getLsbD 4 = true ↔ ∃ f, x.second = some f ∧ f.origin = .event)
      ∧ r[3].toNat < 32
      ∧ r[4] = (match x.second with
        | none => 0x00#8
        | some f => BitVec.ofNat 8 f.cause.code)
      ∧ r[5] = 0x00#8 ∧ r[6] = 0x00#8 ∧ r[7] = 0x00#8)
    ∧ exec (.clearError extra) s = .next cleared.countAccess
    ∧ (statusByte cleared).getLsbD 6 = false ∧ (statusByte cleared).getLsbD 5 = false
    ∧ alertAsserted cleared = (chgBit s && s.settings.alertChg || lowBit s && s.settings.alertLow)

/-! ## Management Port (R138 to R149, R155 to R158) -/

/-- The status byte is eight levels of the blocks' state, and ALERTn follows ERR, CHG and LOW under the alert mask.
After a device reset the byte is 00h, and while one is in progress 80h. STATUS-READ shifts out the status byte, the
cursor port and offset, the eight reply bytes and then 00h, in every state, and changes no state. -/
def Obligations.StatusAndAlertFollowTheState : Prop :=
  ((∀ s : State,
     let b := statusByte s
     let changed := ∃ p : Port, (s.port p).inChangeSet = true
     let low := Config.poolSize - poolUsed s < s.settings.lowWater
     b.getLsbD 7 = s.busy.isSome ∧ b.getLsbD 6 = s.errors.first.isSome ∧ b.getLsbD 5 = s.errors.jammed
     ∧ (b.getLsbD 4 = true ↔ changed) ∧ (b.getLsbD 3 = true ↔ low)
     ∧ b.getLsbD 2 = s.bind.isSome ∧ b.getLsbD 1 = s.page ∧ (b.getLsbD 0 = true ↔ s.queue.length = 16)
     ∧ (alertAsserted s = true ↔
       s.errors.first.isSome = true ∨ (changed ∧ s.settings.alertChg = true) ∨ (low ∧ s.settings.alertLow = true)))
   ∧ statusByte State.reset = 0x00#8 ∧ alertAsserted State.reset = false
   ∧ ∀ s : State, statusByte s.beginDeviceReset = 0x80#8 ∧ alertAsserted s.beginDeviceReset = false)
  ∧ (∀ (n : Nat) (s : State), ∃ t, exec (.statusRead n) s = .next t
       ∧ { t with transfer := s.transfer, sdo := s.sdo } = s
       ∧ (1 ≤ n → t.sdo =
           (statusByte s :: BitVec.ofNat 8 s.cursor.port :: BitVec.ofNat 8 s.cursor.offset
             :: (s.reply.toList ++ List.replicate n 0x00#8)).take n))

/-- SET-CURSOR, SET-WALK and SET-PAGE take their operands where they lie in range and are refused with BAD-ARG
otherwise. The cursor walks by the walk mode, wrapping within its range. The reply ACCEPTED without data is eight bytes
00h, and MERGED is 01h and seven bytes 00h. -/
def Obligations.CursorWalkAndPageCommands : Prop :=
  (replyAccepted = #v[0x00#8, 0x00#8, 0x00#8, 0x00#8, 0x00#8, 0x00#8, 0x00#8, 0x00#8]
    ∧ replyMerged = #v[0x01#8, 0x00#8, 0x00#8, 0x00#8, 0x00#8, 0x00#8, 0x00#8, 0x00#8])
  ∧ (∀ (a b : Byte) (extra : List Byte) (s : State), s.takesHost →
    let s0 := { s with transfer := none }
    let refused := Host.Outcome.next (s0.refuse .badArg none).countAccess
    let inRange := (a.toNat ≤ 47 ∧ b.toNat ≤ 135) ∨ (a.toNat = 48 ∧ b.toNat ≤ 15) ∨ (a.toNat = 49 ∧ b.toNat ≤ 63)
      ∨ (a.toNat = 50 ∧ b.toNat ≤ 95)
    (inRange → exec (.setCursor (a :: b :: extra)) s =
      .next ({ s0 with cursor := { port := a.toNat, offset := b.toNat } }.withReply replyAccepted).countAccess)
    ∧ (¬ inRange → exec (.setCursor (a :: b :: extra)) s = refused)
    ∧ (a.toNat ≤ 3 → exec (.setWalk (a :: extra)) s =
      .next ({ s0 with walk := { byPort := a.getLsbD 0, down := a.getLsbD 1 } }.withReply replyAccepted).countAccess)
    ∧ (4 ≤ a.toNat → exec (.setWalk (a :: extra)) s = refused)
    ∧ (a.toNat ≤ 1 → exec (.setPage (a :: extra)) s =
      .next ({ s0 with page := a.getLsbD 0 }.withReply replyAccepted).countAccess)
    ∧ (2 ≤ a.toNat → exec (.setPage (a :: extra)) s = refused))
  ∧ ∀ (w : Walk) (c : Cursor), c.inRange = true →
    let last := if c.port < 48 then 135 else if c.port = 48 then 15 else if c.port = 49 then 63 else 95
    ((w.byPort = false ∨ 48 ≤ c.port) → w.down = false →
      c.walked w = { c with offset := if c.offset = last then 0 else c.offset + 1 })
    ∧ ((w.byPort = false ∨ 48 ≤ c.port) → w.down = true →
      c.walked w = { c with offset := if c.offset = 0 then last else c.offset - 1 })
    ∧ (w.byPort = true → c.port < 48 → w.down = false →
      c.walked w = { c with port := if c.port = 47 then 0 else c.port + 1 })
    ∧ (w.byPort = true → c.port < 48 → w.down = true →
      c.walked w = { c with port := if c.port = 0 then 47 else c.port - 1 })

/-- A command transaction is refused as R159 and the order of R138 and R146 give: nothing at all in a device reset,
discarded in a jam unless it is READ-ERROR, CLEAR-ERROR or DEVICE-RESET, then BUSY, then UNKNOWN-CMD, then SHORT-FRAME,
and BAD-PORT where PARK, UNPARK, RESTART, REARM, PORT-RESET, CANCEL or CLEAR-FINDINGS names a port outside 0 to 47. Each
but the first is an access. -/
def Obligations.CommandsAreRefusedInOrder : Prop :=
  ∀ (c : Instr) (bytes : List Byte) (s : State), commandBytes c = some bytes →
    let s0 := { s with transfer := none }
    let passes := ∃ op rest, bytes = op :: rest ∧ op ∈ [0x06#8, 0x07#8, 0x0F#8]
    (s.busy = some .deviceReset → exec c s = .next s0)
    ∧ (s.busy ≠ some .deviceReset → s.errors.jammed = true → ¬ passes → exec c s = .next s0.countAccess)
    ∧ (s.busy ≠ some .deviceReset → s.busy ≠ none → (s.errors.jammed = false ∨ passes) →
      exec c s = .next (s0.refuse .busy none).countAccess)
    ∧ (s.takesHost →
      (bytes = [] → exec c s = .next (s0.refuse .shortFrame none).countAccess)
      ∧ ∀ op rest, bytes = op :: rest →
        (operandsNeeded s.page op.toNat = none → exec c s = .next (s0.refuse .unknownCmd none).countAccess)
        ∧ (∀ n, operandsNeeded s.page op.toNat = some n → rest.length < n →
          exec c s = .next (s0.refuse .shortFrame none).countAccess)
        ∧ ∀ (b : Byte) extra, rest = b :: extra → 48 ≤ b.toNat →
          ((s.page = false ∧ op ∈ [0x10#8, 0x11#8, 0x12#8, 0x13#8, 0x14#8]) ∨ (s.page = true ∧ op ∈ [0x11#8, 0x13#8])) →
          exec c s = .next (s0.refuse .badPort none).countAccess)

/-- A data transaction is judged once, at its control byte, and a judgment other than taken holds for each of its bytes:
BUSY raises one error, and a discarded byte reads 00h and writes nothing. Each byte discarded as BUSY or in a jam is an
access; a byte of a transaction that a device reset has ended, or that was begun in one, is none, which is
notes/assumptions/24.md (DEDUCED). That the one
BUSY error is raised at the first data byte, and none by a transaction without one, is notes/assumptions/6.md (DEDUCED).
A transaction's bits are read as bytes, most significant bit first; bits 7 and 6 of the first give its kind; a byte cut
short is discarded, but one of a DATA-READ has been fetched; without a whole control byte there is no transaction: that
a transaction is given as its list of bits, and what none is, is notes/assumptions/28.md (DEDUCED). On the pins a
transaction lasts from the falling of CSn to its rising; SCK is low as it begins, and with CSn high its edges are none;
each rising edge of SCK samples one bit of SDI and leaves SDO; each falling edge samples nothing and gives SDO the next
bit of the byte that a reading transaction shifts out, 00h where a DATA-READ was not taken: a byte cut short shows its
first bits. So clocked, a transaction does what its commands do one after another, and SDO gives each byte read, most
significant bit first. That a byte of a DATA-READ begins with the falling edge that gives its first bit, and that an edge
acts at once, is notes/assumptions/39.md (DEDUCED). -/
def Obligations.DataTransactionsAreJudgedOnce : Prop :=
  (∀ (s : State) (j : Judgment),
    j = (if s.busy = some .deviceReset then .inReset else if s.errors.jammed then .jammed
      else if s.busy ≠ none then .busy else .taken) →
    exec (.dataRead .control) s =
      .next { s with sdo := [], transfer := some { write := false, judgment := j, raised := false, fetched := none } }
    ∧ exec (.dataWrite .control) s =
      .next { s with transfer := some { write := true, judgment := j, raised := false, fetched := none } }
    ∧ ∀ (tr : Transfer) (v : Byte), s.transfer = some tr →
      let raised := if tr.raised then s else
        { s.report .busy .command none with transfer := some { tr with raised := true } }
      (tr.write = true ∨ tr.judgment ≠ .taken → exec (.dataRead .fetch) s = .next s)
      ∧ (tr.write = false →
        (tr.judgment = .busy → exec (.dataRead .byte) s = .next { raised with sdo := s.sdo ++ [0x00#8] }.countAccess)
        ∧ (tr.judgment = .jammed → exec (.dataRead .byte) s = .next { s with sdo := s.sdo ++ [0x00#8] }.countAccess)
        ∧ (tr.judgment = .inReset → exec (.dataRead .byte) s = .next { s with sdo := s.sdo ++ [0x00#8] }))
      ∧ (tr.write = true →
        (tr.judgment = .busy → exec (.dataWrite (.byte v)) s = .next raised.countAccess)
        ∧ (tr.judgment = .jammed → exec (.dataWrite (.byte v)) s = .next s.countAccess)
        ∧ (tr.judgment = .inReset → exec (.dataWrite (.byte v)) s = .next s)))
  ∧ (∀ (page1 : Bool) (control : Byte) (bytes : List Byte) (cut : List Bool), cut.length < 8 →
       let bitsOf (b : Byte) : List Bool :=
         [b.getLsbD 7, b.getLsbD 6, b.getLsbD 5, b.getLsbD 4, b.getLsbD 3, b.getLsbD 2, b.getLsbD 1, b.getLsbD 0]
       let commands := transactionCommands page1 ((control :: bytes).flatMap bitsOf ++ cut)
       let kind := (control.getLsbD 7, control.getLsbD 6)
       (kind = (false, false) → ∃ c, commands = [c] ∧ commandBytes c = some bytes)
       ∧ (kind = (false, true) → commands = .dataWrite .control :: bytes.map fun b => .dataWrite (.byte b))
       ∧ (kind = (true, false) →
         commands = .dataRead .control :: (bytes.flatMap fun _ => [.dataRead .fetch, .dataRead .byte])
           ++ if cut = [] then [] else [.dataRead .fetch])
       ∧ (kind = (true, true) → commands = [.statusRead bytes.length])
       ∧ transactionCommands page1 cut = [])
  ∧ (∀ (s : State) (bits : List Bool),
      s.clockIn bits = { s with pending := s.pending ++ transactionCommands s.page bits })
  ∧ (∀ s : State, s.serial.selected = false →
      s.edge .csnFalls =
        { s with
          transfer := none
          serial :=
            { selected := true, sck := false, bytes := [], bits := [], image := [], out := [], ended := false } }
      ∧ (∀ sdi, s.edge (.sckRises sdi) = s) ∧ s.edge .sckFalls = s ∧ s.edge .csnRises = s)
  ∧ (∀ s : State, s.serial.selected = true → s.serial.bits.length < 8 →
      let bitsOf (b : Byte) : List Bool :=
        [b.getLsbD 7, b.getLsbD 6, b.getLsbD 5, b.getLsbD 4, b.getLsbD 3, b.getLsbD 2, b.getLsbD 1, b.getLsbD 0]
      let sampled (t : Serial) : List Bool := t.bytes.flatMap bitsOf ++ t.bits
      let begins := s.serial.bits = []
      let shifts (transfer : Option Transfer) (out : List Bool) : Prop :=
        s.edge .sckFalls =
          { s with transfer := transfer, serial := { s.serial with sck := false, out := s.serial.out ++ out } }
      let bitOf (b : Byte) : Bool := (bitsOf b).getD s.serial.bits.length false
      s.edge .csnFalls = s
      ∧ (s.serial.sck = true → ∀ sdi, s.edge (.sckRises sdi) = s)
      ∧ (s.serial.sck = false → s.edge .sckFalls = s)
      ∧ (s.serial.sck = false → ∀ sdi,
        let t := (s.edge (.sckRises sdi)).serial
        sampled t = sampled s.serial ++ [sdi] ∧ t.bits.length < 8
        ∧ t.sck = true ∧ t.selected = true ∧ t.out = s.serial.out ∧ t.ended = s.serial.ended)
      ∧ (s.serial.sck = true →
        (s.serial.bytes = [] → s.transfer = none → shifts none [])
        ∧ ∀ (control : Byte) (bytes : List Byte), s.serial.bytes = control :: bytes →
          (control.getLsbD 7 = false → (∀ tr, s.transfer = some tr → tr.write = true) → shifts s.transfer [])
          ∧ (control.getLsbD 7 = true → control.getLsbD 6 = true → s.transfer = none →
            shifts none [bitOf (s.serial.image.getD bytes.length 0x00#8)])
          ∧ (∀ tr, control.getLsbD 7 = true → control.getLsbD 6 = false → s.transfer = some tr → tr.write = false →
            (tr.judgment ≠ .taken → shifts s.transfer [false])
            ∧ (tr.judgment = .taken →
              let v := tr.fetched.getD (s.readValue, s.readHoldAfter)
              (begins → shifts (some { tr with fetched := some v }) [bitOf v.1])
              ∧ (¬ begins → shifts s.transfer [bitOf v.1])))))
  ∧ (∀ (s : State) (bits : List Bool), s.serial.selected = false →
      SameButUnderWay (s.edges (transactionEdges bits))
        (({ s with serial := Serial.idle } : State).runAll (transactionCommands s.page bits)))
  ∧ ∀ (s : State) (control : Byte) (bytes : List Byte) (cut : List Bool),
      s.serial.selected = false → control.getLsbD 7 = true → bytes ≠ [] → cut.length < 8 →
      let bitsOf (b : Byte) : List Bool :=
        [b.getLsbD 7, b.getLsbD 6, b.getLsbD 5, b.getLsbD 4, b.getLsbD 3, b.getLsbD 2, b.getLsbD 1, b.getLsbD 0]
      let t := s.edges (transactionEdges ((control :: bytes).flatMap bitsOf ++ cut))
      t.sdo.length = bytes.length ∧ t.serial.out.take (8 * bytes.length) = t.sdo.flatMap bitsOf
      ∧ t.serial.out.length = 8 * bytes.length + cut.length + 1

/-- A DATA-READ byte returns the byte at the cursor as the record space stands when the byte begins, or the read hold
for the high byte of a two-byte field; a low byte puts its high byte in the hold; when the byte has been clocked the
cursor walks and the access is counted. A byte taken with no event between is fetched as it is taken, and a second fetch
is no event (DEDUCED, notes/assumptions/6.md). That the high byte of an empty finding slot reads the read hold too is
notes/assumptions/22.md (DEDUCED). The record space is coded byte by byte as R169 and R171 give; the Operating Settings
at device reset are those of R171's table (notes/assumptions/36.md). -/
def Obligations.DataReadReturnsTheByteAtTheCursor : Prop :=
  (∀ (s : State) (tr : Transfer), s.transfer = some tr → tr.write = false → tr.judgment = .taken →
    let c := s.cursor
    let here : Byte := (s.image c.port).getD c.offset 0
    let above : Byte := (s.image c.port).getD (c.offset + 1) 0
    let takes (v hold : Byte) : Prop :=
      exec (.dataRead .byte) s =
        .next { s with
          sdo := s.sdo ++ [v], readHold := hold, cursor := c.walked s.walk
          transfer := some { tr with fetched := none } }.countAccess
    let reads (v hold : Byte) : Prop :=
      takes v hold ∧ exec (.dataRead .fetch) s = .next { s with transfer := some { tr with fetched := some (v, hold) } }
    let lowOffsets : List Nat :=
      if c.port < 48 then
        [21, 23, 25, 27, 36, 42, 48, 54, 60, 66, 72, 78, 84, 90, 96, 102, 108, 114, 120, 126, 132]
      else if c.port = 48 then [0, 9, 14]
      else if c.port = 49 then [4, 6, 12, 14, 20, 22, 28, 30, 36, 38, 44, 46, 52, 54, 60, 62]
      else []
    (∀ v hold, tr.fetched = some (v, hold) → takes v hold ∧ exec (.dataRead .fetch) s = .next s)
    ∧ (tr.fetched = none → c.inRange = true →
      (c.offset ∈ lowOffsets → reads here above)
      ∧ (∀ n, n ∈ lowOffsets → c.offset = n + 1 → reads s.readHold s.readHold)
      ∧ (c.offset ∉ lowOffsets → (∀ n, n ∈ lowOffsets → c.offset ≠ n + 1) → reads here s.readHold)))
  ∧ (∀ (s : State) (p : Port),
       let r := (s.port p).record
       let code (n : Nat) : Byte := BitVec.ofNat 8 n
       let rate (x : Option Rate) : Byte :=
         match x with
         | none => 0xFF#8
         | some k => code k.index
       let pair (q : Pair) : Byte :=
         let x := r.pairs.get q
         code (x.verdict.code + 8 * reasonCode x.reason + 32 * x.probed.toNat + 64 * x.more.toNat + 128 * x.truncated.toNat)
       let distance (q : Pair) : List Byte :=
         match (r.pairs.get q).faultDistance with
         | none => [0xFF#8, 0xFF#8]
         | some d => [code (d % 256), code (d / 256)]
       let skew (q : Pair) : Byte :=
         match r.tc.skew.get q with
         | none => 0xFF#8
         | some k => code k
       let polarity (q : Pair) : Nat :=
         match r.tc.polarity.get q with
         | none => 0
         | some inverted => 2 ^ q.index + 16 * 2 ^ q.index * inverted.toNat
       let partner : Byte :=
         match r.tc.partner with
         | none => 0x00#8
         | some rates => code (128 + rates.toNat)
       let outcome : Byte :=
         match r.sched.outcome with
         | none => 0x00#8
         | some x => code (x.cause.code + 16 * x.skipped.toNat)
       let returns : Mode :=
         match r.tc.mode, r.tc.returnMode with
         | .lent, .parked => .parked
         | .lent, .held => .held
         | _, _ => .dark
       let slot (k : Nat) : List Byte :=
         match r.findings[k]? with
         | none => [0x00#8, 0x00#8, 0x00#8, 0x00#8, 0x00#8, 0x00#8]
         | some x =>
           [code (x.kind.code + 16 * x.state.code + 64 * x.pair.index), code x.kind.detail, code (x.distance % 256),
             code (x.distance / 256), BitVec.ofInt 8 x.amplitude, code x.runs]
       s.image p.val =
         [code r.tc.mode.code, code returns.code, r.offer.setWidth 8, r.rights.setWidth 8, r.guardMask.setWidth 8,
           r.effectiveOffer.setWidth 8, r.tc.struck.setWidth 8, rate r.ceiling, partner, rate r.tc.resolved,
           code r.tc.attempts,
           code (r.tc.armed.toNat + 2 * r.tc.autoSpent.toNat + 4 * r.tc.energy.toNat + 8 * r.tc.powerFault.toNat),
           code (heldCauseCode r.tc.heldCause), code (sourceCode r.lastSource), r.tc.powered.setWidth 8,
           code r.sched.status.code, outcome, pair .a, pair .b, pair .c, pair .d]
         ++ distance .a ++ distance .b ++ distance .c ++ distance .d
         ++ [skew .a, skew .b, skew .c, skew .d, code (polarity .a + polarity .b + polarity .c + polarity .d),
           code r.tc.swap.code, code r.findings.length, code (r.generation.toNat % 256), code (r.generation.toNat / 256),
           0x00#8, 0x00#8]
         ++ (List.range 16).flatMap slot)
  ∧ (∀ s : State,
       let code (n : Nat) : Byte := BitVec.ofNat 8 n
       let x := s.settings
       let free := 256 - (s.ports.toList.map fun ps => ps.record.findings.length).sum
       let finished (l : List PairResult) (q : Pair) : Nat := if l.any fun y => decide (y.pair = q) then 2 ^ q.index else 0
       let queued (k : Nat) : List Byte :=
         match s.queue[k]? with
         | none => [0xFF#8, 0x00#8, 0x00#8, 0x00#8, 0x00#8]
         | some y =>
           let done : Byte :=
             match y.suspended with
             | none => 0x00#8
             | some ctx =>
               code (finished ctx.completed .a + finished ctx.completed .b + finished ctx.completed .c
                 + finished ctx.completed .d)
           [code y.port.val, code y.cls.code, code y.suspended.isSome.toNat, y.pairs.setWidth 8, done]
       let engine (e : EngineId) : List Byte :=
         match s.engine e with
         | .idle => [0x00#8, 0xFF#8, 0xFF#8, 0x00#8]
         | .attaching r _ => [code (1 + 16 * r.cls.code), code r.port.val, 0xFF#8, 0x00#8]
         | .sweeping r q n _ _ => [code (2 + 16 * r.cls.code), code r.port.val, code q.index, code n]
         | .closing r _ => [code (3 + 16 * r.cls.code), code r.port.val, 0xFF#8, 0x00#8]
       s.image 48 =
         [code (x.probe.window % 256), code (x.probe.window / 256), code x.probe.blanking, code x.probe.threshold,
           code (x.tries + 16 * x.probe.confirm), code x.probe.velocity, code x.tolerance, code x.marginal,
           code x.skewLimit, code (x.listen % 256), code (x.listen / 256), code x.lowWater,
           code (1 + 2 * x.alertChg.toNat + 4 * x.alertLow.toNat), code s.queue.length, code (free % 256),
           code (free / 256)]
       ∧ (s.image 49 = s.templates.toList.flatMap fun y =>
           [code y.valid.toNat, y.pairs.setWidth 8, code y.firstPort, code y.lastPort, code (y.low % 256),
             code (y.low / 256), code (y.high % 256), code (y.high / 256)])
       ∧ s.image 50 = (List.range 16).flatMap queued ++ (engine 0 ++ engine 1 ++ engine 2 ++ engine 3))
  ∧ (State.reset.image 48 =
        [0x00#8, 0x04#8, 0x08#8, 0x0A#8, 0x33#8, 0x44#8, 0x05#8, 0x19#8, 0x28#8, 0xDC#8, 0x05#8, 0x20#8, 0x03#8, 0x00#8,
          0x00#8, 0x01#8]
      ∧ ∀ p : Port, State.reset.image p.val =
        [0x00#8, 0x01#8, 0x0F#8, 0x0D#8, 0x0A#8, 0x0F#8, 0x00#8, 0x03#8, 0x00#8, 0xFF#8, 0x00#8, 0x01#8]
          ++ List.replicate 9 0x00#8 ++ List.replicate 12 0xFF#8 ++ List.replicate 103 0x00#8)
  ∧ ([Mode.parked, .dark, .listen, .train, .up, .held, .lent].map Mode.code = [0, 1, 2, 3, 4, 5, 6]
      ∧ [Rate.t10, .t100, .t1000, .t2500].map Rate.index = [0, 1, 2, 3]
      ∧ [Pair.a, .b, .c, .d].map Pair.index = [0, 1, 2, 3]
      ∧ [Verdict.untested, .good, .marginal, .open, .short, .cross].map Verdict.code = [0, 1, 2, 3, 4, 5]
      ∧ [none, some Reason.finding, some .skew].map reasonCode = [0, 1, 2]
      ∧ (∀ (q : Pair) (t : TemplateId),
          [Kind.open, .short, .cross q, .highZ, .lowZ, .expected t].map Kind.code = [1, 2, 3, 4, 5, 6]
          ∧ [Kind.open, .short, .cross q, .highZ, .lowZ, .expected t].map Kind.detail = [0, 0, q.index, 0, 0, t.val])
      ∧ [FindingState.fresh, .standing, .fading].map FindingState.code = [1, 2, 3]
      ∧ [ProbeStatus.none, .wanted, .queued, .running, .suspended, .done, .aborted].map ProbeStatus.code =
        [0, 1, 2, 3, 4, 5, 6]
      ∧ [Ending.complete, .cancelled, .power, .noDetach, .reset].map Ending.code = [1, 2, 3, 4, 5]
      ∧ [none, some HeldCause.exhausted, some .open, some .short, some .cross, some .powerFault, some .downshift].map
          heldCauseCode = [0, 1, 2, 3, 4, 5, 6]
      ∧ [none, some GuardSource.open, some .short, some .cross, some .powerFault, some .downshift].map sourceCode =
        [0, 2, 3, 4, 5, 6]
      ∧ [GuardSource.open, .short, .cross, .powerFault, .downshift].map GuardSource.bit = [0, 1, 2, 3, 4]
      ∧ [Swap.unknown, .straight, .crossed].map Swap.code = [0, 1, 2]
      ∧ [ReqClass.urgent, .routine].map ReqClass.code = [1, 2]
      ∧ [Cause.badPort, .badArg, .badValue, .readOnly, .unknownCmd, .shortFrame, .busy, .notPermitted, .powered,
          .probeActive, .queueFull, .notFound, .poolExhausted, .bindExpired, .noDetach, .powerAbort].map Cause.code =
        [1, 2, 3, 4, 5, 6, 7, 8, 9, 10, 11, 12, 13, 14, 15, 16])

/-- A DATA-WRITE byte on a record is applied to the offer, the rights or the guard mask at once where it lies in range,
and refused with BAD-VALUE or READ-ONLY otherwise; pseudo-port 50 is READ-ONLY. One on pseudo-port 48 or 49 changes the
setting or template field it names where the value lies in the field's range, and is refused with BAD-VALUE otherwise;
the low byte of a two-byte field only fills the write hold, and its high byte applies both bytes; the read-only settings
and the two spare bytes are refused with READ-ONLY. One error is raised for a transaction. Then the cursor walks and the
access is counted. -/
def Obligations.DataWriteAppliesOneByteOrIsRefused : Prop :=
  (∀ (v : Byte) (s : State) (tr : Transfer), s.transfer = some tr → tr.write = true → tr.judgment = .taken →
     let leaves (w : State) : Prop :=
       exec (.dataWrite (.byte v)) s = .next { w with cursor := s.cursor.walked s.walk }.countAccess
     let refusal (c : Cause) (p : Option Port) : State :=
       if tr.raised then s else { s.report c .command p with transfer := some { tr with raised := true } }
     (∀ p : Port, s.cursor.port = p.val →
       let r := (s.port p).record
       (s.cursor.offset = 2 → v.toNat ≤ 15 → leaves (s.commit p { r with offer := v.setWidth 4 }))
       ∧ (s.cursor.offset = 3 → v.toNat ≤ 15 → leaves (s.commit p { r with rights := v.setWidth 4 }))
       ∧ (s.cursor.offset = 4 → v.toNat ≤ 31 → leaves (s.commit p { r with guardMask := v.setWidth 5 }))
       ∧ (s.cursor.offset = 2 ∨ s.cursor.offset = 3 → 16 ≤ v.toNat → leaves (refusal .badValue (some p)))
       ∧ (s.cursor.offset = 4 → 32 ≤ v.toNat → leaves (refusal .badValue (some p)))
       ∧ (s.cursor.offset ≠ 2 → s.cursor.offset ≠ 3 → s.cursor.offset ≠ 4 → leaves (refusal .readOnly (some p))))
     ∧ (s.cursor.port = 50 → leaves (refusal .readOnly none)))
  ∧ (∀ (v : Byte) (s : State) (tr : Transfer), s.transfer = some tr → tr.write = true → tr.judgment = .taken →
       let leaves (w : State) : Prop :=
         exec (.dataWrite (.byte v)) s = .next { w with cursor := s.cursor.walked s.walk }.countAccess
       let refusal (c : Cause) : State :=
         if tr.raised then s else { s.report c .command none with transfer := some { tr with raised := true } }
       let two := v.toNat * 256 + s.writeHold.toNat
       let judged (n low high : Nat) (w : State) : Prop :=
         (low ≤ n → n ≤ high → leaves w) ∧ (n < low ∨ high < n → leaves (refusal .badValue))
       let x := s.settings
       let setting (y : Settings) : State := { s with settings := y }
       let probe (y : ProbeSettings) : State := setting { x with probe := y }
       (s.cursor.port = 48 →
         (s.cursor.offset = 0 ∨ s.cursor.offset = 9 → leaves { s with writeHold := v })
         ∧ (s.cursor.offset = 1 → judged two 64 2047 (probe { x.probe with window := two }))
         ∧ (s.cursor.offset = 2 → judged v.toNat 0 63 (probe { x.probe with blanking := v.toNat }))
         ∧ (s.cursor.offset = 3 → judged v.toNat 2 50 (probe { x.probe with threshold := v.toNat }))
         ∧ (s.cursor.offset = 4 →
           let fits := 1 ≤ v.toNat % 16 ∧ v.toNat % 16 ≤ 7 ∧ 1 ≤ v.toNat / 16 ∧ v.toNat / 16 ≤ 4
           (fits → leaves (setting { x with tries := v.toNat % 16, probe := { x.probe with confirm := v.toNat / 16 } }))
           ∧ (¬ fits → leaves (refusal .badValue)))
         ∧ (s.cursor.offset = 5 → judged v.toNat 60 80 (probe { x.probe with velocity := v.toNat }))
         ∧ (s.cursor.offset = 6 → judged v.toNat 1 15 (setting { x with tolerance := v.toNat }))
         ∧ (s.cursor.offset = 7 → judged v.toNat 5 60 (setting { x with marginal := v.toNat }))
         ∧ (s.cursor.offset = 8 → judged v.toNat 0 63 (setting { x with skewLimit := v.toNat }))
         ∧ (s.cursor.offset = 10 → judged two 100 5000 (setting { x with listen := two }))
         ∧ (s.cursor.offset = 11 → leaves (setting { x with lowWater := v.toNat }))
         ∧ (s.cursor.offset = 12 →
           (v ∈ [0x01#8, 0x03#8, 0x05#8, 0x07#8] →
             leaves (setting { x with alertChg := v.getLsbD 1, alertLow := v.getLsbD 2 }))
           ∧ (v ∉ [0x01#8, 0x03#8, 0x05#8, 0x07#8] → leaves (refusal .badValue)))
         ∧ (13 ≤ s.cursor.offset → leaves (refusal .readOnly)))
       ∧ (∀ (k : TemplateId) (field : Nat), s.cursor.port = 49 → s.cursor.offset = 8 * k.val + field → field ≤ 7 →
         let y := s.templates[k]
         let template (z : Template) : State := { s with templates := s.templates.set k z }
         (field = 0 → judged v.toNat 0 1 (template { y with valid := v.getLsbD 0 }))
         ∧ (field = 1 → judged v.toNat 0 15 (template { y with pairs := v.setWidth 4 }))
         ∧ (field = 2 → judged v.toNat 0 47 (template { y with firstPort := v.toNat }))
         ∧ (field = 3 → judged v.toNat 0 47 (template { y with lastPort := v.toNat }))
         ∧ (field = 4 ∨ field = 6 → leaves { s with writeHold := v })
         ∧ (field = 5 → judged two 0 65534 (template { y with low := two }))
         ∧ (field = 7 → judged two 0 65534 (template { y with high := two }))))

/-- SEARCH begins a scan at its start port, or is refused with BAD-PORT and then BAD-ARG. The scan examines one record
at a time, upward and without wrapping; it completes at the first match, with the cursor there and its generation in the
reply, or after port 47 with port 0FFh. -/
def Obligations.SearchScansUpward : Prop :=
  (∀ (k v start : Byte) (extra : List Byte) (s : State), s.takesHost →
    let s0 := { s with transfer := none }
    let accepted (kind : SearchKind) : Prop := ∀ p : Port, start.toNat = p.val →
      exec (.search (k :: v :: start :: extra)) s =
        .next { s0 with busy := some (.search kind v.toNat p.val none) }.countAccess
    (k = 1 → v.toNat ≤ 6 → accepted .mode) ∧ (k = 2 → v.toNat ≤ 5 → accepted .verdict)
    ∧ (k = 3 → v.toNat ≤ 6 → accepted .probeStatus) ∧ (k = 4 → v.toNat ≤ 6 → accepted .heldCause)
    ∧ (k = 5 → v.toNat ≤ 16 → accepted .findingCount)
    ∧ (48 ≤ start.toNat →
      exec (.search (k :: v :: start :: extra)) s = .next (s0.refuse .badPort none).countAccess)
    ∧ (start.toNat ≤ 47 →
      (k.toNat = 0 ∨ 6 ≤ k.toNat ∨ (k.toNat ≤ 4 ∧ 7 ≤ v.toNat) ∨ (k = 2 ∧ v = 6) ∨ (k = 5 ∧ 17 ≤ v.toNat)) →
      exec (.search (k :: v :: start :: extra)) s = .next (s0.refuse .badArg none).countAccess))
  ∧ ∀ (kind : SearchKind) (v : Nat) (s : State),
    (∀ p : Port, s.busy = some (.search kind v p.val none) →
      let r := (s.port p).record
      let met := match kind with
        | .mode => r.tc.mode.code = v
        | .verdict => ∃ q, (r.pairs.get q).verdict.code = v
        | .probeStatus => r.sched.status.code = v
        | .heldCause => heldCauseCode r.tc.heldCause = v
        | .findingCount => v ≤ r.findings.length
      (met → exec .scanExamineRecord s =
        .next { s with busy := some (.search kind v p.val (some (p, r.generation))) })
      ∧ (¬ met → exec .scanExamineRecord s = .next { s with busy := some (.search kind v (p.val + 1) none) }))
    ∧ (∀ (next : Nat) (p : Port) (g : BitVec 16), s.busy = some (.search kind v next (some (p, g))) →
      exec .searchComplete s =
        .next { s with
          busy := none, cursor := { port := p.val, offset := 0 }
          reply := #v[0x00#8, BitVec.ofNat 8 p.val, g.setWidth 8, (g >>> 8).setWidth 8, 0, 0, 0, 0] })
    ∧ (∀ next : Nat, s.busy = some (.search kind v next none) → 48 ≤ next →
      exec .searchComplete s = .next { s with busy := none, reply := #v[0x00#8, 0xFF#8, 0, 0, 0, 0, 0, 0] })

/-! ## Line Guard (R127 to R134) -/

/-- A firing is recorded as the last guard source, an update only where it changes, and hands WITHDRAW with the first
source in the mask, other than DOWNSHIFT, of an armed port that is not PARKED. That firings and WITHDRAWs wait in the
order handed, each taken in an event of its own, is notes/assumptions/13.md (DEDUCED). -/
def Obligations.GuardFiringRecordsAndWithdraws : Prop :=
  ∀ (p : Port) (f : Firing) (rest : List Firing) (last : GuardSource) (s : State),
    (s.port p).firings = f :: rest → f.sources.getLast? = some last →
    let a := s.port p
    let selects (x : GuardSource) : Prop := a.record.guardMask.getLsbD x.bit = true ∧ x ≠ .downshift
    let leaves (requests : List GuardSource) : Prop :=
      ∃ t, exec (.guardFiring p) s = .next t ∧ OnlyPort p s t
        ∧ t.port p = { a with
            firings := rest, lastSource := some last, withdraws := a.withdraws ++ requests
            record := (t.port p).record, inChangeSet := (t.port p).inChangeSet
            guardWaiting := (t.port p).guardWaiting }
        ∧ (a.lastSource = some last →
          (t.port p).record = a.record ∧ (t.port p).inChangeSet = a.inChangeSet
            ∧ (t.port p).guardWaiting = a.guardWaiting)
        ∧ (a.lastSource ≠ some last → s.bind = none →
          (t.port p).record.lastSource = some last ∧ (t.port p).guardWaiting = false)
        ∧ (a.lastSource ≠ some last → s.bind ≠ none →
          (t.port p).record = a.record ∧ (t.port p).inChangeSet = a.inChangeSet ∧ (t.port p).guardWaiting = true)
        ∧ { (t.port p).record with
            lastSource := a.record.lastSource, effectiveOffer := a.record.effectiveOffer
            generation := a.record.generation } = a.record
        ∧ AdvancesOnce a (t.port p)
    (∀ before x after, f.sources = before ++ x :: after → (∀ y ∈ before, ¬ selects y) → selects x →
      a.tc.f.armed = true → a.tc.f.mode ≠ .parked → leaves [x])
    ∧ (((∀ y ∈ f.sources, ¬ selects y) ∨ a.tc.f.armed = false ∨ a.tc.f.mode = .parked) → leaves [])

/-! ## Probe Scheduler (R67 to R86) -/

/-- PROBE is checked in the order port, arguments, right, power, activity, place, and the first check that fails gives
the refusal. One that passes joins the tail of its class with status QUEUED, for all four pairs and with reply MERGED
where the port was WANTED. One that passes for a queued port is merged: the pairs are united; an URGENT one moves a
ROUTINE entry to the tail of the URGENT class, and otherwise the entry keeps its class and place. -/
def Obligations.ProbeIsCheckedInOrderAndJoinsOrMerges : Prop :=
  (∀ (pb qb cb : Byte) (extra : List Byte) (s : State), s.takesHost → s.page = true →
     let s0 := { s with transfer := none }
     let answers (u : State) : Prop := exec (.probe (pb :: qb :: cb :: extra)) s = .next u.countAccess
     (48 ≤ pb.toNat → answers (s0.refuse .badPort none))
     ∧ ∀ p : Port, pb.toNat = p.val →
       ((cb.toNat = 0 ∨ 3 ≤ cb.toNat ∨ qb.toNat = 0 ∨ 16 ≤ qb.toNat) → answers (s0.refuse .badArg (some p)))
       ∧ ∀ cls : ReqClass, cb.toNat = cls.code → 1 ≤ qb.toNat → qb.toNat ≤ 15 →
         let pairs : PairSet := qb.setWidth 4
         let f := (s.port p).tc.f
         let r := (s.port p).record
         let allowed := f.mode = .lent ∨ (f.mode = .up ∧ r.rights.getLsbD 1 = true)
           ∨ (f.mode ≠ .up ∧ r.rights.getLsbD 0 = true)
         let unpowered := pairs &&& ~~~f.powered ≠ 0
         let active := (s.port p).sched.status = .running ∨ (s.port p).sched.status = .suspended ∨ f.mode = .lent
         (¬ allowed → answers (s0.refuse .notPermitted (some p)))
         ∧ (allowed → ¬ unpowered → answers (s0.refuse .powered (some p)))
         ∧ (allowed → unpowered → active → answers (s0.refuse .probeActive (some p)))
         ∧ (allowed → unpowered → ¬ active → (∀ x ∈ s.queue, x.port ≠ p) →
           (16 ≤ s.queue.length → answers (s0.refuse .queueFull (some p)))
           ∧ (s.queue.length < 16 → ∀ urgent routine,
             s.queue = urgent ++ routine → (∀ x ∈ urgent, x.cls = .urgent) → (∀ x ∈ routine, x.cls = .routine) →
             let wanted := decide ((s.port p).sched.status = .wanted)
             let new : Entry := { port := p, cls := cls, pairs := if wanted then 0xF#4 else pairs, suspended := none }
             let queue := if cls = .urgent then urgent ++ new :: routine else urgent ++ routine ++ [new]
             ∃ u,
               EventLeaves true [] p { s.port p with sched := { (s.port p).sched with status := .queued } } []
                 { s0 with queue := queue } u
               ∧ answers (u.withReply (if wanted then replyMerged else replyAccepted)))))
  ∧ (∀ (p : Port) (pb qb cb : Byte) (extra : List Byte) (cls : ReqClass) (before after : List Entry) (x : Entry)
       (s : State),
       s.takesHost → s.page = true → pb.toNat = p.val → cb.toNat = cls.code → 1 ≤ qb.toNat → qb.toNat ≤ 15 →
       s.queue = before ++ x :: after → x.port = p → (∀ y ∈ before ++ after, y.port ≠ p) →
       let pairs : PairSet := qb.setWidth 4
       let f := (s.port p).tc.f
       f.mode ≠ .lent → (s.port p).sched.status = .queued →
       ((f.mode = .up ∧ (s.port p).record.rights.getLsbD 1 = true)
         ∨ (f.mode ≠ .up ∧ (s.port p).record.rights.getLsbD 0 = true)) →
       pairs &&& ~~~f.powered ≠ 0 →
       let merges (queue : List Entry) : Prop :=
         exec (.probe (pb :: qb :: cb :: extra)) s =
           .next ({ s with transfer := none, queue := queue }.withReply replyMerged).countAccess
       ((cls = .routine ∨ x.cls = .urgent) → merges (before ++ { x with pairs := x.pairs ||| pairs } :: after))
       ∧ (cls = .urgent → x.cls = .routine → ∀ urgent routine,
         before ++ after = urgent ++ routine → (∀ y ∈ urgent, y.cls = .urgent) → (∀ y ∈ routine, y.cls = .routine) →
         merges (urgent ++ { x with cls := .urgent, pairs := x.pairs ||| pairs } :: routine)))

/-- An auto-probe request is merged into a queued entry, dropped for a port with a run, queued ROUTINE for all four
pairs where there is room, and otherwise leaves the port WANTED (notes/assumptions/33.md for a port that is WANTED
already). A freed place goes to the lowest-numbered WANTED port that holds AUTO, and PROBE-LIVE where it is UP; WANTED
ports below it that fail are set to NONE on the way. -/
def Obligations.AutoProbeRequestsQueueWaitOrArePromoted : Prop :=
  (∀ (p : Port) (n : Nat) (s : State), (s.port p).autoRequests = n + 1 →
     let taken := { s.port p with autoRequests := n }
     let s1 := s.setPort p taken
     let status := (s.port p).sched.status
     let becomes (x : ProbeStatus) (queue : List Entry) : Prop :=
       ∃ t, exec (.autoProbeRequest p) s = .next t
         ∧ EventLeaves false [] p { taken with sched := { taken.sched with status := x } } [] { s1 with queue := queue } t
     ((status = .running ∨ status = .suspended) → exec (.autoProbeRequest p) s = .next s1)
     ∧ (status ≠ .running → status ≠ .suspended →
       (∀ before x after, s.queue = before ++ x :: after → x.port = p → (∀ y ∈ before ++ after, y.port ≠ p) →
         exec (.autoProbeRequest p) s =
           .next { s1 with queue := before ++ { x with pairs := 0xF#4 } :: after })
       ∧ ((∀ y ∈ s.queue, y.port ≠ p) →
         (status = .wanted → exec (.autoProbeRequest p) s = .next s1)
         ∧ (status ≠ .wanted → s.queue.length < 16 →
           becomes .queued (s.queue ++ [{ port := p, cls := .routine, pairs := 0xF#4, suspended := none }]))
         ∧ (status ≠ .wanted → 16 ≤ s.queue.length → becomes .wanted s.queue))))
  ∧ (∀ (host : Bool) (s : State),
       ((∀ p, (s.port p).sched.status ≠ .wanted) → s.offerPlace host = s)
       ∧ ∀ p : Port, (s.port p).sched.status = .wanted → (∀ q : Port, q < p → (s.port q).sched.status ≠ .wanted) →
         let r := (s.port p).record
         let allowed := r.rights.getLsbD 2 = true ∧ ((s.port p).tc.f.mode = .up → r.rights.getLsbD 1 = true)
         let leaves (x : ProbeStatus) (queue : List Entry) (t : State) : Prop :=
           EventLeaves host [] p { s.port p with sched := { (s.port p).sched with status := x } } []
             { s with queue := queue } t
         (allowed →
           leaves .queued (s.queue ++ [{ port := p, cls := .routine, pairs := 0xF#4, suspended := none }])
             (s.offerPlace host))
         ∧ (¬ allowed → ∃ u, leaves .none s.queue u ∧ s.offerPlace host = u.offerPlace host))

/-- CANCEL removes a queued entry with status NONE, ends a suspended run as ABORTED with its port returned, stops an
engine in ATTACHING or SWEEPING, clears WANTED, and changes nothing elsewhere. It always replies ACCEPTED; the places it
frees are offered. That the return of a suspended run's port writes with the mode the fields tied to it is
notes/assumptions/40.md (DEDUCED). -/
def Obligations.CancelByStanding : Prop :=
  ∀ (b : Byte) (extra : List Byte) (p : Port) (s : State), s.takesHost → s.page = true → b.toNat = p.val →
    let s0 := { s with transfer := none }
    let a := s.port p
    let rest := s.queue.filter fun y => decide (y.port ≠ p)
    let answers (u : State) : Prop := exec (.cancel (b :: extra)) s = .next (u.withReply replyAccepted).countAccess
    let becomesNone (queue : List Entry) (u : State) : Prop :=
      EventLeaves true [] p { a with sched := { a.sched with status := .none } } [] { s0 with queue := queue } u
    (∀ e r, s.engineHolding p = some e →
      ((∃ wait, s.engine e = .attaching r wait) ∨ (∃ q n left table, s.engine e = .sweeping r q n left table) →
        answers (s0.setEngine e (.closing { r with completed := [] } .cancelled)))
      ∧ (∀ ending, s.engine e = .closing r ending → answers s0))
    ∧ (s.engineHolding p = none →
      (∀ x, s.entryOf p = some x → x.suspended = none →
        ∃ u, becomesNone rest u ∧ answers (u.offerPlace true))
      ∧ (∀ x ctx, s.entryOf p = some x → x.suspended = some ctx → a.tc.f.mode = .lent →
        let back := a.tc.returned false a.record.offer a.record.ceiling s.settings.listen
        ∃ u,
          EventLeaves true [.mode, .returnMode, .heldCause, .resolved, .attempts] p
            { a with
              tc := back.1
              sched := { status := .aborted, outcome := some { cause := .cancelled, skipped := ctx.skipped } } }
            back.2 { s0 with queue := rest } u
          ∧ answers (u.offerPlace true))
      ∧ (s.entryOf p = none → a.sched.status = .wanted → ∃ u, becomesNone s.queue u ∧ answers u)
      ∧ (s.entryOf p = none → a.sched.status ≠ .wanted → answers s0))

/-- DISPATCH gives the queued head to the lowest-numbered IDLE engine: the powered pairs are skipped, the settings are
latched, the port is LENT with HALT and DETACH handed and status RUNNING, and the freed place is offered. A head with no
pair to sweep ends ABORTED with outcome POWER instead. Under a bind nothing is dispatched. That a notice of an earlier
lending is cleared with the lending is notes/assumptions/12.md (DEDUCED). -/
def Obligations.DispatchLendsThePort : Prop :=
  ∀ (e : EngineId) (x : Entry) (rest : List Entry) (s : State),
    s.engine e = .idle → (∀ f, f < e → s.engine f ≠ .idle) → s.queue = x :: rest → x.suspended = none →
    let a := s.port x.port
    let powered := a.tc.f.powered
    let run : Run :=
      { port := x.port, cls := x.cls, requested := x.pairs, toSweep := x.pairs &&& ~~~powered
        skipped := x.pairs &&& powered, latched := s.settings.probe, completed := [] }
    (s.bind ≠ none → exec .dispatch s = .next s)
    ∧ (s.bind = none → a.tc.f.mode ≠ .lent →
      (run.toSweep = 0 →
        ∃ u,
          EventLeaves false [] x.port
            { a with sched := { status := .aborted, outcome := some { cause := .power, skipped := run.skipped } } } []
            { s with queue := rest } u
          ∧ exec .dispatch s = .next (u.offerPlace false))
      ∧ (run.toSweep ≠ 0 →
        ∃ u,
          EventLeaves false [] x.port
            { a with tc := a.tc.lentOut, sched := { a.sched with status := .running }, powerNotice := false }
            [.halt, .detach]
            ({ s with queue := rest, order := e :: s.order.filter fun y => decide (y ≠ e) }.setEngine e
              (.attaching run (Config.millis 2)))
            u
          ∧ exec .dispatch s = .next (u.offerPlace false)))

/-- RESUMPTION gives a suspended head to the lowest-numbered IDLE engine, which takes its saved context and sweeps the
first of the requested pairs that is neither completed nor powered, with status RUNNING and no place offered. That a run
with no such pair closes COMPLETE is notes/assumptions/30.md (DESIGN CHOICE; R76 has the swept pair always remain). No
power notice of the port is out (notes/assumptions/12.md). -/
def Obligations.ResumptionContinuesASuspendedRun : Prop :=
  ∀ (e : EngineId) (x : Entry) (ctx : Suspended) (rest : List Entry) (s : State),
    s.engine e = .idle → (∀ f, f < e → s.engine f ≠ .idle) → s.queue = x :: rest → x.suspended = some ctx →
    let a := s.port x.port
    let completed (q : Pair) : Prop := ∃ y ∈ ctx.completed, y.pair = q
    let powered := a.tc.f.powered
    let takes (engine : Engine) : Prop :=
      ∃ t, exec .resumption s = .next t
        ∧ EventLeaves false [] x.port { a with sched := { a.sched with status := .running } } []
          ({ s with queue := rest, order := e :: s.order.filter fun y => decide (y ≠ e) }.setEngine e engine) t
    (s.bind ≠ none → exec .resumption s = .next s)
    ∧ (s.bind = none → a.powerNotice = false → ∀ toSweep skipped : PairSet,
      (∀ q, toSweep.getLsbD q.index = true ↔
        x.pairs.getLsbD q.index = true ∧ ¬ completed q ∧ powered.getLsbD q.index = false) →
      (∀ q, skipped.getLsbD q.index = true ↔
        ctx.skipped.getLsbD q.index = true
          ∨ (x.pairs.getLsbD q.index = true ∧ ¬ completed q ∧ powered.getLsbD q.index = true)) →
      let run : Run :=
        { port := x.port, cls := x.cls, requested := x.pairs, toSweep := toSweep, skipped := skipped
          latched := ctx.latched, completed := ctx.completed }
      (∀ q, toSweep.getLsbD q.index = true →
        (∀ q' : Pair, q'.index < q.index → toSweep.getLsbD q'.index = false) →
        takes (.sweeping run q 1 ctx.latched.window []))
      ∧ (toSweep = 0 → takes (.closing run .complete)))

/-- PREEMPTION takes the URGENT head, with no engine IDLE, to the engine whose SWEEPING ROUTINE run was dispatched
latest: that run waits, suspended with its finished pairs, at the front of the ROUTINE class, and the head is lent as at
a dispatch. A head with no pair to sweep ends ABORTED instead and no run is preempted. While a bind is open nothing is
preempted. That a notice of an earlier lending is cleared with the lending is notes/assumptions/12.md (DEDUCED). -/
def Obligations.PreemptionSuspendsTheLatestRoutineRun : Prop :=
  (∀ s : State, s.bind ≠ none → exec .preemption s = .next s)
  ∧ ∀ (e : EngineId) (old : Run) (pair : Pair) (n left : Nat) (table : List Candidate) (later earlier : List EngineId)
    (x : Entry) (rest urgent routine : List Entry) (s : State),
    s.bind = none → (∀ f, s.engine f ≠ .idle) → s.queue = x :: rest → x.cls = .urgent → x.suspended = none →
    (s.port x.port).tc.f.mode ≠ .lent →
    s.order = later ++ e :: earlier → s.engine e = .sweeping old pair n left table → old.cls = .routine →
    (∀ f ∈ later, ∀ r q k l c, s.engine f = .sweeping r q k l c → r.cls = .urgent) →
    rest = urgent ++ routine → (∀ y ∈ urgent, y.cls = .urgent) → (∀ y ∈ routine, y.cls = .routine) →
    let a := s.port x.port
    let powered := a.tc.f.powered
    let run : Run :=
      { port := x.port, cls := x.cls, requested := x.pairs, toSweep := x.pairs &&& ~~~powered
        skipped := x.pairs &&& powered, latched := s.settings.probe, completed := [] }
    let suspended : Entry :=
      { port := old.port, cls := .routine, pairs := old.requested
        suspended := some { completed := old.completed, skipped := old.skipped, latched := old.latched } }
    (run.toSweep ≠ 0 →
      ∃ u t, exec .preemption s = .next t
        ∧ EventLeaves false [] x.port
          { a with tc := a.tc.lentOut, sched := { a.sched with status := .running }, powerNotice := false }
          [.halt, .detach]
          ({ s with
              queue := urgent ++ suspended :: routine
              order := e :: s.order.filter fun y => decide (y ≠ e) }.setEngine e
            (.attaching run (Config.millis 2)))
          u
        ∧ EventLeaves false [] old.port
          { u.port old.port with sched := { (u.port old.port).sched with status := .suspended } } [] u t)
    ∧ (run.toSweep = 0 →
      ∃ u,
        EventLeaves false [] x.port
          { a with sched := { status := .aborted, outcome := some { cause := .power, skipped := run.skipped } } } []
          { s with queue := rest } u
        ∧ exec .preemption s = .next (u.offerPlace false))

/-- A power notice of a LENT port stops the engine that holds it in ATTACHING or SWEEPING, or ends its suspended run
with the port returned, raising POWER-ABORT; an engine in CLOSING and a port no longer LENT are not touched. That the
notice is taken in an event of its own where no engine held the port at its POWER message is notes/assumptions/12.md
(DEDUCED). -/
def Obligations.PowerNoticeAbortsTheRun : Prop :=
  ∀ (p : Port) (s : State), (s.port p).powerNotice = true →
    let a := { s.port p with powerNotice := false }
    let s1 := s.setPort p a
    let noted := s1.report .powerAbort .event (some p)
    (a.tc.f.mode ≠ .lent → exec (.powerNotice p) s = .next s1)
    ∧ (a.tc.f.mode = .lent →
      (∀ e r, s.engineHolding p = some e →
        ((∃ wait, s.engine e = .attaching r wait) ∨ (∃ q n left table, s.engine e = .sweeping r q n left table) →
          exec (.powerNotice p) s = .next (noted.setEngine e (.closing { r with completed := [] } .power)))
        ∧ (∀ ending, s.engine e = .closing r ending → exec (.powerNotice p) s = .next s1))
      ∧ (∀ x ctx, s.engineHolding p = none → s.entryOf p = some x → x.suspended = some ctx →
        let back := a.tc.returned false a.record.offer a.record.ceiling s.settings.listen
        ∃ u,
          EventLeaves false [] p
            { a with
              tc := back.1
              sched := { status := .aborted, outcome := some { cause := .power, skipped := ctx.skipped } } }
            back.2 { noted with queue := s.queue.filter fun y => decide (y.port ≠ p) } u
          ∧ exec (.powerNotice p) s = .next (u.offerPlace false)))

/-! ## Echo Probe Engines (R88 to R104) -/

/-- The DETACH wait that runs out ends the run with NO-DETACH: the engine is CLOSING with nothing kept, and NO-DETACH is
raised with the port. -/
def Obligations.WaitExpiryEndsTheRun : Prop :=
  ∀ (e : EngineId) (r : Run) (s : State), s.engine e = .attaching r 0 →
    exec (.waitExpiry e) s =
      .next ((s.report .noDetach .event (some r.port)).setEngine e (.closing { r with completed := [] } .noDetach))

/-- An echo counts by its coupled or its own amplitude, and is given its kind and amplitude by the first line of R95's
table that holds. One that does not count, or lies below the blanking count, leaves no mark on the table. One that
counts makes a candidate, or matches the candidate of its kind within 2 samples, which it confirms at its sighting
number confirm; a candidate no echo matches has its sightings set to 0. Of several candidates that no earlier echo of
the sweep has matched, an echo matches the nearest, of two equally near the one of lower index, and of two of one index
the one made first (notes/assumptions/30.md); one that matches none makes a candidate in a table of fewer than 8 and is
dropped from a full one. A sweep takes its echoes in order. -/
def Obligations.CountingEchoesAreClassifiedAndTabled : Prop :=
  (∀ (threshold : Nat) (x : Echo),
    (∀ q k, x.coupled = some (q, k) → threshold ≤ k → classifyEcho threshold x = some (.cross q, (k : Int)))
    ∧ ((∀ q k, x.coupled = some (q, k) → k < threshold) →
      (x.amplitude.natAbs < threshold → classifyEcho threshold x = none)
      ∧ (threshold ≤ x.amplitude.natAbs →
        (80 ≤ x.amplitude → classifyEcho threshold x = some (.open, x.amplitude))
        ∧ (x.amplitude ≤ -80 → classifyEcho threshold x = some (.short, x.amplitude))
        ∧ (0 < x.amplitude → x.amplitude < 80 → classifyEcho threshold x = some (.highZ, x.amplitude))
        ∧ (-80 < x.amplitude → x.amplitude ≤ 0 → classifyEcho threshold x = some (.lowZ, x.amplitude)))))
  ∧ ∀ (latched : ProbeSettings) (x : Echo),
    (x.index < latched.blanking ∨ classifyEcho latched.threshold x = none → ∀ table before after,
      sweepTable latched table (before ++ x :: after) = sweepTable latched table (before ++ after))
    ∧ (∀ kind amplitude, latched.blanking ≤ x.index → classifyEcho latched.threshold x = some (kind, amplitude) →
      let new : Candidate :=
        { kind := kind, index := x.index, amplitude := amplitude, sightings := 1
          confirmed := decide (latched.confirm ≤ 1) }
      sweepTable latched [] [x] = [new]
      ∧ ∀ c : Candidate,
        let matched := c.kind = kind ∧ c.index ≤ x.index + 2 ∧ x.index ≤ c.index + 2
        (matched → sweepTable latched [c] [x] =
          [{ c with
              index := x.index, amplitude := amplitude, sightings := c.sightings + 1
              confirmed := c.confirmed || decide (latched.confirm ≤ c.sightings + 1) }])
        ∧ (¬ matched → sweepTable latched [c] [x] = [{ c with sightings := 0 }, new]))
    ∧ (∀ (table : List Candidate) (echoes : List Echo),
      sweepTable latched table echoes =
        (echoes.foldl (takeEcho latched) (table.map fun c => (c, false))).map fun y =>
          if y.2 then y.1 else { y.1 with sightings := 0 })
    ∧ ∀ marked : List (Candidate × Bool),
      (x.index < latched.blanking ∨ classifyEcho latched.threshold x = none → takeEcho latched marked x = marked)
      ∧ (∀ kind amplitude, latched.blanking ≤ x.index → classifyEcho latched.threshold x = some (kind, amplitude) →
        let open? (y : Candidate × Bool) : Prop :=
          y.2 = false ∧ y.1.kind = kind ∧ y.1.index ≤ x.index + 2 ∧ x.index ≤ y.1.index + 2
        let away (c : Candidate) : Nat := (c.index - x.index) + (x.index - c.index)
        (∀ before c after, marked = before ++ (c, false) :: after → open? (c, false) →
          (∀ y ∈ before, open? y → away c < away y.1 ∨ (away c = away y.1 ∧ c.index < y.1.index)) →
          (∀ y ∈ after, open? y → away c < away y.1 ∨ (away c = away y.1 ∧ c.index ≤ y.1.index)) →
          takeEcho latched marked x =
            before
              ++ ({ c with
                    index := x.index, amplitude := amplitude, sightings := c.sightings + 1
                    confirmed := c.confirmed || decide (latched.confirm ≤ c.sightings + 1) }, true)
              :: after)
        ∧ ((∀ y ∈ marked, ¬ open? y) →
          takeEcho latched marked x =
            if marked.length < 8 then
              marked ++ [({ kind := kind, index := x.index, amplitude := amplitude, sightings := 1
                            confirmed := decide (latched.confirm ≤ 1) }, true)]
            else marked))

/-- A sweep completes: below confirm + 2 the next sweep of the pair begins; at confirm + 2 the pair is finished with the
first four of its confirmed candidates in the order of distance, kind code, coupled pair and making, MORE where there
were more, and the next pair to sweep is begun, or the run is COMPLETE. -/
def Obligations.SweepCompletionGoesOnOrFinishesThePair : Prop :=
  ∀ (e : EngineId) (echoes : List Echo) (r : Run) (q : Pair) (n : Nat) (table : List Candidate) (s : State),
    s.engine e = .sweeping r q n 0 table →
    echoesPossible r.latched.window q echoes = true →
    let table' := sweepTable r.latched table echoes
    let confirmed := table'.filter fun c => c.confirmed
    let distance (c : Candidate) : Nat := c.index * r.latched.velocity * 3 / 100
    let first (x y : Candidate × Nat) : Prop :=
      distance x.1 < distance y.1 ∨ (distance x.1 = distance y.1 ∧
        (x.1.kind.code < y.1.kind.code ∨ (x.1.kind.code = y.1.kind.code ∧
          (x.1.kind.detail < y.1.kind.detail ∨ (x.1.kind.detail = y.1.kind.detail ∧ x.2 < y.2)))))
    (n < r.latched.confirm + 2 →
      exec (.sweepCompletion e echoes) s = .next (s.setEngine e (.sweeping r q (n + 1) r.latched.window table')))
    ∧ ∃ order : List (Candidate × Nat), order.Perm confirmed.zipIdx ∧ order.Pairwise first
      ∧ (r.latched.confirm + 2 ≤ n →
        let x : PairResult :=
          { pair := q
            results := (order.take 4).map fun y =>
              { kind := y.1.kind, distance := distance y.1, amplitude := y.1.amplitude }
            more := decide (4 < confirmed.length) }
        let r' := { r with completed := r.completed ++ [x] }
        let left (k : Pair) : Prop := r.toSweep.getLsbD k.index = true ∧ ∀ y ∈ r'.completed, y.pair ≠ k
        (∀ k, left k → (∀ k' : Pair, k'.index < k.index → ¬ left k') →
          exec (.sweepCompletion e echoes) s = .next (s.setEngine e (.sweeping r' k 1 r.latched.window [])))
        ∧ ((∀ k, ¬ left k) →
          exec (.sweepCompletion e echoes) s = .next (s.setEngine e (.closing r' .complete))))

/-- The Store takes an ending only while no bind is open. COMPLETE: the results of the pairs completed and not
skipped are reconciled, the Line Guard records the last of the verdict edges, its WITHDRAW of an armed port lands on the return mode, and then the engine is IDLE and,
as one update, the status is DONE and the port is returned with its struck set emptied. It waits while edges of an
earlier update of the port wait for the Line Guard (DEDUCED, notes/assumptions/13.md), and that the Line Guard's update
comes before the Training Controller's is notes/assumptions/35.md (DESIGN CHOICE); that a pair
skipped at the dispatch and completed after a resumption is not reconciled and is listed as skipped is
notes/assumptions/37.md (DEDUCED). CANCELLED,
POWER or NO-DETACH: without reconciliation, the engine is IDLE and, as one update, the status is ABORTED with that
outcome and the port is returned with its struck set kept. -/
def Obligations.EndingsReconcileAndReturnThePort : Prop :=
  (∀ (e : EngineId) (r : Run) (s : State), s.engine e = .closing r .complete →
     let p := r.port
     let edgesWait := ∃ l, Firing.edges l ∈ (s.port p).firings
     (s.bind ≠ none ∨ edgesWait → exec (.takeEndingComplete e) s = .next s)
     ∧ (s.bind = none → ¬ edgesWait → (s.port p).tc.f.mode = .lent →
       let s1 := s.reconcile p (r.completed.filter fun x => !r.skipped.getLsbD x.pair.index)
       let a1 := s1.port p
       let edges := Pair.all.filterMap fun q =>
         if (a1.record.pairs.get q).verdict = ((s.port p).record.pairs.get q).verdict then none
         else (a1.record.pairs.get q).verdict.source?
       let s2 :=
         match edges.getLast? with
         | none => s1
         | some x =>
           if a1.lastSource = some x then s1
           else (s1.setPort p { a1 with lastSource := some x, guardWaiting := false }).commit p
             { a1.record with lastSource := some x }
       let f := (s.port p).tc.f
       let selects (x : GuardSource) : Prop := (s.port p).record.guardMask.getLsbD x.bit = true
       let withdrawn (x : GuardSource) : PortMachine :=
         if f.returnMode = .parked then (s.port p).tc
         else
           { (s.port p).tc with
             f := { f with returnMode := .held, heldCause := some x.heldCause, armed := false } }
       let returns (u : State) : Prop :=
         let a := u.port p
         let back := a.tc.returned true a.record.offer a.record.ceiling s.settings.listen
         ∃ t, exec (.takeEndingComplete e) s = .next t
           ∧ EventLeaves false [] p
             { a with
               tc := back.1
               sched := { status := .done, outcome := some { cause := .complete, skipped := r.skipped } } }
             back.2 ({ u with order := u.order.filter fun y => decide (y ≠ e) }.setEngine e .idle) t
       (∀ before x after, edges = before ++ x :: after → (∀ y ∈ before, ¬ selects y) → selects x → f.armed = true →
         ∃ s3, EventLeaves false [] p { s2.port p with tc := withdrawn x } [] s2 s3 ∧ returns s3)
       ∧ (((∀ y ∈ edges, ¬ selects y) ∨ f.armed = false) → returns s2)))
  ∧ (∀ (e : EngineId) (r : Run) (cause : Ending) (s : State),
       cause ∈ [Ending.cancelled, Ending.power, Ending.noDetach] → s.engine e = .closing r cause →
       (s.bind ≠ none → exec (.takeEndingAborted e) s = .next s)
       ∧ (s.bind = none → (s.port r.port).tc.f.mode = .lent →
         let a := s.port r.port
         let back := a.tc.returned false a.record.offer a.record.ceiling s.settings.listen
         ∃ t, exec (.takeEndingAborted e) s = .next t
           ∧ EventLeaves false [] r.port
             { a with
               tc := back.1
               sched := { status := .aborted, outcome := some { cause := cause, skipped := r.skipped } } }
             back.2 ({ s with order := s.order.filter fun y => decide (y ≠ e) }.setEngine e .idle) t))

/-! ## Port reset (R23, R66, R85, R126, R150) -/

/-- PORT-RESET of a port without a run resets its account at once, removing a queued entry and offering its place,
and leaves no operation under way. With a run the part stays BUSY: the engine that holds the port closes with RESET,
and the reset is made when that ending is taken, or, for a suspended run, when no bind is open; that without a bind
a suspended run's reset is made in the accepting event is notes/assumptions/15.md (DEDUCED). The place of a queued
entry is offered at once, as the command's own promotion, and that of a suspended one as its run's end (DEDUCED,
notes/assumptions/27.md). Energy and power are kept, HALT is handed, and every waiting update and untaken WITHDRAW
of the port is discarded, while firings and auto-probe requests handed before are kept (DEDUCED,
notes/assumptions/25.md). -/
def Obligations.PortResetResetsTheAccount : Prop :=
  ∀ (p : Port) (s : State),
    let discarded (u : State) : State := u.modPort p fun a =>
      { a with tcWaiting := [], schedWaiting := [], guardWaiting := false, jointWaiting := false }
    (∀ (b : Byte) (extra : List Byte), s.takesHost → s.page = false → b.toNat = p.val →
      let s0 := { s with transfer := none }
      let rest := s.queue.filter fun y => decide (y.port ≠ p)
      let noWanted := s0.modPort p fun a =>
        if a.sched.status = .wanted then { a with sched := { a.sched with status := .none } } else a
      let answers (u : State) : Prop := exec (.portReset (b :: extra)) s = .next u.countAccess
      (s.engineHolding p = none → s.entryOf p = none →
        ∃ t, PortResetLeaves false p noWanted t ∧ answers (t.withReply replyAccepted))
      ∧ (∀ x, s.engineHolding p = none → s.entryOf p = some x → x.suspended = none →
        ∃ t, PortResetLeaves false p ({ noWanted with queue := rest }.offerPlace true) t
          ∧ answers (t.withReply replyAccepted))
      ∧ (∀ x ctx, s.engineHolding p = none → s.entryOf p = some x → x.suspended = some ctx →
        (s.bind = none → ∃ t, PortResetLeaves true p ({ noWanted with queue := rest }.offerPlace false) t
          ∧ answers (t.withReply replyAccepted))
        ∧ (s.bind ≠ none →
          answers { discarded ({ noWanted with queue := rest }.offerPlace false) with
            busy := some (.portReset p true) }))
      ∧ (∀ e r, s.engineHolding p = some e → (s.engine e).run? = some r →
        answers { (discarded noWanted).setEngine e (.closing { r with completed := [] } .reset) with
          busy := some (.portReset p false) }))
    ∧ (∀ e r, s.engine e = .closing r .reset → r.port = p →
      (s.bind ≠ none → exec (.takeEndingReset e) s = .next s)
      ∧ (s.bind = none →
        ∃ t, PortResetLeaves true p ({ s with order := s.order.filter fun y => decide (y ≠ e) }.setEngine e .idle) t
          ∧ exec (.takeEndingReset e) s = .next { t.withReply replyAccepted with busy := none }))

/-! ## Findings (R106 to R126) -/

/-- RETIRE removes the finding at its index and CLEAR-FINDINGS all findings with the pairs' flags, at once; verdicts and
ceiling are derived again, and the verdict edges of a RETIRE are handed to the Line Guard as one firing. A port out of
range is refused with BAD-PORT and an index at or beyond the finding count with NOT-FOUND. The guard source of an edge
is that of the verdict's name, OPEN, SHORT or CROSS; the other verdicts give no edge. -/
def Obligations.FindingsAreRetiredAndCleared : Prop :=
  ([Verdict.untested, .good, .marginal, .open, .short, .cross].map Verdict.source? =
    [none, none, none, some GuardSource.open, some GuardSource.short, some GuardSource.cross])
  ∧ ∀ (b i : Byte) (extra : List Byte) (s : State), s.takesHost → s.page = true →
    let s0 := { s with transfer := none }
    let rederived (r : LineRecord) (findings : List Finding) (flags : PairAccount → PairAccount) : LineRecord :=
      let pairs : PerPair PairAccount := .build fun q =>
        deriveAccount s.settings findings (r.tc.skew.get q) q (flags (r.pairs.get q))
      { r with findings := findings, pairs := pairs, ceiling := ceilingOf (.build fun q => (pairs.get q).verdict) }
    (48 ≤ b.toNat → exec (.retire (b :: i :: extra)) s = .next (s0.refuse .badPort none).countAccess)
    ∧ (48 ≤ b.toNat → exec (.clearFindings (b :: extra)) s = .next (s0.refuse .badPort none).countAccess)
    ∧ ∀ p : Port, b.toNat = p.val →
      let a := s.port p
      (a.record.findings.length ≤ i.toNat →
        exec (.retire (b :: i :: extra)) s = .next (s0.refuse .notFound (some p)).countAccess)
      ∧ (i.toNat < a.record.findings.length →
        let r := rederived a.record (a.record.findings.eraseIdx i.toNat) id
        let edges := Pair.all.filterMap fun q =>
          if (r.pairs.get q).verdict = (a.record.pairs.get q).verdict then none
          else (r.pairs.get q).verdict.source?
        exec (.retire (b :: i :: extra)) s =
          .next ((s0.setPort p
            { a with
              record := { r with
                effectiveOffer := offeredRates r.offer r.tc.struck r.ceiling, generation := a.record.generation + 1 }
              inChangeSet := true
              firings := a.firings ++ if edges = [] then [] else [.edges edges] }).withReply
            replyAccepted).countAccess)
      ∧ (let r := rederived a.record [] fun x => { x with probed := false, more := false, truncated := false }
        exec (.clearFindings (b :: extra)) s = .next ((s0.commit p r).withReply replyAccepted).countAccess)

/-- A reconciliation changes only its port's record and the Error Slot. A run covers the pairs it completed, less
those it skipped; that a pair skipped at the dispatch and completed after a resumption counts as skipped is
notes/assumptions/37.md (DEDUCED). Pairs the run did not cover keep their findings and flags; covered pairs are probed,
with the run's MORE flag, and TRUNCATED only with POOL-EXHAUSTED; every verdict and the ceiling are derived again. Every
covered pair, in the order A to D, is matched (the statement below says what that leaves), and then, in the same order,
makes room among its FADING findings, farthest first, and adds its unmatched
results as FRESH findings, nearest first, while the pool lasts; from the first result that finds no free entry on all
are dropped, their pairs are TRUNCATED, and POOL-EXHAUSTED is raised once. -/
def Obligations.ReconciliationCoversTheRunsPairs : Prop :=
  (∀ (r : Run) (x : PairResult),
    x ∈ r.covered ↔ x ∈ r.completed ∧ r.skipped.getLsbD x.pair.index = false)
  ∧ (∀ (p : Port) (results : List PairResult) (s : State),
    ((s.port p).record.findings.Pairwise fun f g => keyLe f.key g.key = true) →
    let t := s.reconcile p results
    let r := (t.port p).record
    let covers (x : PairResult) : Prop := ∃ before after, results = before ++ x :: after
      ∧ ∀ y ∈ before, y.pair ≠ x.pair
    OnlyPort p { s with errors := t.errors } t
    ∧ t.port p = { s.port p with record := r, inChangeSet := (t.port p).inChangeSet }
    ∧ (∀ q, (∀ x ∈ results, x.pair ≠ q) →
      (r.findings.filter fun f => decide (f.pair = q)) = (s.port p).record.findings.filter fun f => decide (f.pair = q)
      ∧ (r.pairs.get q).probed = ((s.port p).record.pairs.get q).probed
      ∧ (r.pairs.get q).more = ((s.port p).record.pairs.get q).more
      ∧ (r.pairs.get q).truncated = ((s.port p).record.pairs.get q).truncated)
    ∧ (∀ x, covers x → (r.pairs.get x.pair).probed = true ∧ (r.pairs.get x.pair).more = x.more
      ∧ ((r.pairs.get x.pair).truncated = true → t.errors = s.errors.take .poolExhausted .event (some p)))
    ∧ (t.errors = s.errors ∨ t.errors = s.errors.take .poolExhausted .event (some p))
    ∧ (∀ q, r.pairs.get q = deriveAccount s.settings r.findings (r.tc.skew.get q) q (r.pairs.get q))
    ∧ r.ceiling = ceilingOf r.verdicts)
  ∧ (∀ (p : Port) (results : List PairResult) (s : State),
       let r := (s.port p).record
       let covered := [Pair.a, .b, .c, .d].filterMap fun q => results.find? fun x => decide (x.pair = q)
       let works := covered.map (matchPair s.settings s.templates p r.findings)
       let others := r.findings.filter fun f => covered.all fun x => decide (x.pair ≠ f.pair)
       let used := (s.ports.toList.map fun ps => ps.record.findings.length).sum
       let kept := others.length + (works.map fun w => w.kept.length).sum
       let a := works.foldl addPair
         { free := 256 - used + r.findings.length - kept, exhausted := false, findings := others, pairs := r.pairs }
       let findings := sortFindings a.findings
       let pairs : PerPair PairAccount := .build fun q =>
         deriveAccount s.settings findings (r.tc.skew.get q) q (a.pairs.get q)
       let t := s.commit p
         { r with findings := findings, pairs := pairs, ceiling := ceilingOf (.build fun q => (pairs.get q).verdict) }
       s.reconcile p results = (if a.exhausted then t.report .poolExhausted .event (some p) else t)
       ∧ findings.Perm a.findings ∧ findings.Pairwise fun f g => keyLe f.key g.key = true)
  ∧ (∀ (a : Adding) (w : PairWork),
       let roomy := makeRoom (w.kept.length + w.fresh.length - 4) w.kept
       let new (x : Result) : Finding :=
         { pair := w.pair, kind := x.kind, distance := x.distance, amplitude := x.amplitude, runs := 1, state := .fresh }
       let leaves (free : Nat) (exhausted : Bool) (kept : List Finding) (added : Nat) : Prop :=
         addPair a w =
           { free := free, exhausted := exhausted
             findings := a.findings ++ kept ++ (w.fresh.take added).map new
             pairs := a.pairs.set w.pair
               { a.pairs.get w.pair with
                 probed := true, more := w.more, truncated := decide (added < w.fresh.length) } }
       let free := a.free + (w.kept.length - roomy.length)
       (a.exhausted = true → leaves a.free true w.kept 0)
       ∧ (a.exhausted = false → w.fresh.length ≤ free → leaves (free - w.fresh.length) false roomy w.fresh.length)
       ∧ (a.exhausted = false → free < w.fresh.length → leaves 0 true roomy free))
  ∧ ∀ (n : Nat) (l : List Finding),
      makeRoom 0 l = l
      ∧ ((∀ f ∈ l, f.state ≠ .fading) → makeRoom n l = l)
      ∧ ∀ before f after, l = before ++ f :: after → f.state = .fading → (∀ g ∈ after, g.state ≠ .fading) →
        makeRoom (n + 1) l = makeRoom n (before ++ after)

/-- At the end of a reconciliation no two findings of a covered pair have the same identity and distances within the
tolerance (the duplicate rule of R108). What the matching of a covered pair does for it: templates claim HIGH-Z and
LOW-Z results; duplicates are removed on both sides; findings and results of one identity within the tolerance are
paired closest first; a matched finding is STANDING, seen once more, at the result's place; an unmatched one is absorbed
by a matched one, fades, or is retired; and the results left over wait to be added. -/
def Obligations.ReconciliationLeavesNoDuplicates : Prop :=
  let near (tolerance a b : Nat) : Prop := a ≤ b + tolerance ∧ b ≤ a + tolerance
  (∀ (p : Port) (completed : List PairResult) (q : Pair) (s : State), (∃ x ∈ completed, x.pair = q) →
    ((((s.reconcile p completed).port p).record.findings.filter fun f => decide (f.pair = q)).Pairwise fun f g =>
      f.kind = g.kind → f.distance + s.settings.tolerance < g.distance ∨ g.distance + s.settings.tolerance < f.distance))
  ∧ (∀ (templates : Vector Template 8) (p : Port) (q : Pair) (x : Result),
       let claims (k : TemplateId) : Prop :=
         let y := templates[k]
         y.valid = true ∧ y.firstPort ≤ p.val ∧ p.val ≤ y.lastPort ∧ y.pairs.getLsbD q.index = true
           ∧ y.low ≤ x.distance ∧ x.distance ≤ y.high
       (∀ k, x.kind = .highZ ∨ x.kind = .lowZ → claims k → (∀ j : TemplateId, j < k → ¬ claims j) →
         classifyResult templates p q x = { x with kind := .expected k })
       ∧ (((x.kind ≠ .highZ ∧ x.kind ≠ .lowZ) ∨ ∀ k, ¬ claims k) → classifyResult templates p q x = x))
  ∧ (∀ (tolerance n : Nat) (l : List Finding),
       let same (f g : Finding) : Prop := f.kind = g.kind ∧ near tolerance f.distance g.distance
       ((l.Pairwise fun f g => ¬ same f g) → compactFindings tolerance n l = l)
       ∧ ∀ before f between g after, l = before ++ f :: (between ++ g :: after) →
         (∀ h ∈ before, ∀ k ∈ f :: (between ++ g :: after), ¬ same h k) →
         (before.Pairwise fun h k => ¬ same h k) → (∀ h ∈ between, ¬ same f h) → same f g →
         compactFindings tolerance (n + 1) l = compactFindings tolerance n
           (if f.runs < g.runs ∨ (f.runs = g.runs ∧ g.distance < f.distance) then before ++ (between ++ g :: after)
            else before ++ f :: (between ++ after)))
  ∧ (∀ (tolerance : Nat) (l : List Result) (x : Result),
       let kept := collapseResults tolerance l
       let taken := ∃ k ∈ kept, k.kind = x.kind ∧ near tolerance k.distance x.distance
       collapseResults tolerance [] = []
       ∧ (taken → collapseResults tolerance (l ++ [x]) = kept)
       ∧ (¬ taken → collapseResults tolerance (l ++ [x]) = kept ++ [x]))
  ∧ (∀ (tolerance : Nat) (fs : List Finding) (rs : List Result),
       let made := makePairings tolerance fs rs
       let apart (f : Finding) (x : Result) : Nat := (f.distance - x.distance) + (x.distance - f.distance)
       let may (y : Pairing) : Prop := ∃ f x, fs[y.finding]? = some f ∧ rs[y.result]? = some x ∧ f.kind = x.kind
         ∧ near tolerance f.distance x.distance ∧ y.diff = apart f x
       let first (y z : Pairing) : Prop :=
         y.diff < z.diff ∨ (y.diff = z.diff ∧ (y.finding < z.finding ∨ (y.finding = z.finding ∧ y.result < z.result)))
       (∀ y ∈ made, may y)
       ∧ (made.Pairwise fun y z => y.finding ≠ z.finding ∧ y.result ≠ z.result)
       ∧ ∀ z, may z → z ∉ made → ∃ y ∈ made, first y z ∧ (y.finding = z.finding ∨ y.result = z.result))
  ∧ (∀ (tolerance : Nat) (matched : List Finding) (f : Finding) (x : Result),
       let absorbed := ∃ g ∈ matched, f.kind = g.kind ∧ near tolerance f.distance g.distance
       f.matched x = { f with
         state := .standing, runs := if f.runs < 255 then f.runs + 1 else 255, distance := x.distance
         amplitude := x.amplitude }
       ∧ (absorbed → settleUnmatched tolerance matched f = none)
       ∧ (¬ absorbed → f.state = .fading → settleUnmatched tolerance matched f = none)
       ∧ (¬ absorbed → f.state ≠ .fading → settleUnmatched tolerance matched f = some { f with state := .fading }))
  ∧ ∀ (set : Settings) (templates : Vector Template 8) (p : Port) (findings : List Finding) (x : PairResult),
      let mine := findings.filter fun f => decide (f.pair = x.pair)
      let fs := compactFindings set.tolerance mine.length mine
      let rs := collapseResults set.tolerance (x.results.map (classifyResult templates p x.pair))
      let made := makePairings set.tolerance fs rs
      let w := matchPair set templates p findings x
      w.pair = x.pair ∧ w.more = x.more
      ∧ (∀ y, y ∈ w.fresh ↔ ∃ j, rs[j]? = some y ∧ ∀ z ∈ made, z.result ≠ j)
      ∧ w.fresh.Sublist rs ∧ w.fresh.length + made.length = rs.length
      ∧ (w.kept.Pairwise fun f g => keyLe f.key g.key = true)
      ∧ ∃ matched settled : List Finding,
        w.kept.Perm (matched ++ settled)
        ∧ matched = (fs.zipIdx.filterMap fun fi =>
            (made.find? fun z => decide (z.finding = fi.2)).bind fun z => rs[z.result]?.map fi.1.matched)
        ∧ settled = (fs.zipIdx.filterMap fun fi =>
            if made.any fun z => decide (z.finding = fi.2) then none
            else settleUnmatched set.tolerance matched fi.1)

/-! ## Invariants -/

/-- Every invariant below holds in the reset state. -/
def Obligations.InvariantsHoldAtReset : Prop :=
  State.reset.machinesOk ∧ State.reset.recordsDerived ∧ State.reset.managementOk ∧ State.reset.errors.consistent
  ∧ State.reset.transmitOk ∧ State.reset.recordsPublished ∧ State.reset.schedulerOk ∧ State.reset.powerOk ∧ State.reset.findingsOk

/-- Every step keeps the training machines consistent: the resolved rate is held exactly in TRAIN and UP, each timer
runs only in its mode, a held cause is held exactly in HELD and in LENT on the way back to it, and the settings lie in
their ranges. -/
def Obligations.EveryStepKeepsTheMachinesConsistent : Prop :=
  ∀ s t : State, s.machinesOk → step s = .next t → t.machinesOk

/-- Every step keeps each record's ceiling and effective offer in agreement with their inputs, and keeps every record
published: without a bind nothing waits, an update that waits for two blocks as one has a part of each, and every field
whose update does not wait shows its block's value. That nothing waits without a bind, where R21 lets a new bind open
before every waiting update has been applied, is notes/assumptions/8.md (DESIGN CHOICE); that an update of two blocks waits
as one is notes/assumptions/11.md (DEDUCED). -/
def Obligations.EveryStepKeepsTheDerivedFields : Prop :=
  (∀ s t : State, s.recordsDerived → step s = .next t → t.recordsDerived)
  ∧ ∀ s t : State, s.schedulerOk → s.recordsPublished → step s = .next t → t.recordsPublished

/-- Every step keeps the cursor, the bind and the search in range, the Error Slot's second error behind a first, and the
transmit lists at eight messages at most and empty in a SILENT group. -/
def Obligations.EveryStepKeepsTheSerialSideInRange : Prop :=
  ∀ s t : State, s.managementOk → s.errors.consistent → s.transmitOk → step s = .next t →
    t.managementOk ∧ t.errors.consistent ∧ t.transmitOk

/-- Every step keeps the Scheduler's account: at most 16 entries with each port once and URGENT first, no port on two
engines or both queued and on an engine, probe status and mode LENT in agreement with where each port stands. -/
def Obligations.EveryStepKeepsTheSchedulersAccount : Prop :=
  ∀ s t : State, s.schedulerOk → step s = .next t → t.schedulerOk

/-- Every step keeps it so that no engine drives a pair its port's latest POWER message reported as powered; and where
that is kept, no engine does. That the engine stops in the event that takes the POWER message is R89's, by
notes/assumptions/12.md (DEDUCED). -/
def Obligations.NoEngineDrivesAPoweredPair : Prop :=
  (∀ s t : State, s.schedulerOk → s.powerOk → step s = .next t → t.powerOk)
  ∧ ∀ (s : State) (e : EngineId) (p : Port) (q : Pair), s.powerOk → s.drives e = some (p, q) →
    (s.port p).tc.f.powered.getLsbD q.index = false

/-- Every step keeps the findings: at most four for a pair, in the list's order, and at most 256 in the pool. -/
def Obligations.EveryStepKeepsTheFindings : Prop :=
  ∀ s t : State, s.findingsOk → step s = .next t → t.findingsOk

/-- While a bind is open and stays open, no command but a host transaction or a device reset changes a record or the
change set. -/
def Obligations.BoundRecordsKeepStill : Prop :=
  ∀ (c : Instr) (s t : State), s.bind ≠ none → isHost c = false → isReset c = false → c ≠ .bindExpiry →
    exec c s = .next t →
    ∀ p, (t.port p).record = (s.port p).record ∧ (t.port p).inChangeSet = (s.port p).inChangeSet

end
end

