-- ==== Sys2Proof/Laws/Lists.lean ====
section
/-! SUPPORT. The stable sort and the greedy choice that results and pairings are put in order by. -/

namespace Sys2Proof.Machine

/-! ### The stable sort -/

variable {α β : Type} {le : α → α → Bool}

theorem insertSorted_perm (x : α) (l : List α) : (insertSorted le x l).Perm (x :: l) := by
  induction l with
  | nil => exact .refl _
  | cons y ys ih =>
    unfold insertSorted
    split
    · exact .refl _
    · exact (ih.cons y).trans (.swap x y ys)

theorem sortList_perm (l : List α) : (sortList le l).Perm l := by
  induction l with
  | nil => exact .refl _
  | cons x xs ih => exact (insertSorted_perm x _).trans (ih.cons x)

/-- The sort keeps entries in order, and those neither of which comes first in the order they stood in. -/
theorem sortList_stable {S : α → α → Prop} (total : ∀ x y, le x y = true ∨ le y x = true)
    (trans : ∀ x y z, le x y = true → le y z = true → le x z = true) {l : List α} (h : l.Pairwise S) :
    (sortList le l).Pairwise fun x y => le y x = false ∨ (le x y = true ∧ S x y) := by
  induction l with
  | nil => exact .nil
  | cons x xs ih =>
    rw [List.pairwise_cons] at h
    have hx : ∀ z ∈ sortList le xs, S x z := fun z hz => h.1 z ((sortList_perm xs).mem_iff.1 hz)
    have hs := ih h.2
    change (insertSorted le x (sortList le xs)).Pairwise _
    generalize sortList le xs = l at hx hs
    induction l with
    | nil => simp [insertSorted]
    | cons y ys ih =>
      rw [List.pairwise_cons] at hs
      have first : ∀ z, z ∈ y :: ys → le x z = true → le z x = false ∨ (le x z = true ∧ S x z) := by
        intro z hz hle
        cases hzx : le z x
        · exact .inl rfl
        · exact .inr ⟨hle, hx z hz⟩
      unfold insertSorted
      split
      · next hle =>
        refine List.pairwise_cons.2 ⟨fun z hz => first z hz ?_, List.pairwise_cons.2 hs⟩
        rcases List.mem_cons.1 hz with rfl | hz'
        · exact hle
        · refine trans x y z hle ?_
          rcases hs.1 z hz' with h' | h'
          · exact (total y z).resolve_right (by simp [h'])
          · exact h'.1
      · next hle =>
        refine List.pairwise_cons.2 ⟨fun z hz => ?_, ih (fun z hz => hx z (by simp [hz])) hs.2⟩
        rcases List.mem_cons.1 ((insertSorted_perm x ys).mem_iff.1 hz) with rfl | hz'
        · exact .inl (by simpa using hle)
        · exact hs.1 z hz'

theorem sortList_sorted (total : ∀ x y, le x y = true ∨ le y x = true)
    (trans : ∀ x y z, le x y = true → le y z = true → le x z = true) (l : List α) :
    (sortList le l).Pairwise fun x y => le x y = true :=
  (sortList_stable (S := fun _ _ => True) total trans (List.pairwise_of_forall fun _ _ => trivial)).imp fun {x y} h =>
    h.elim (fun h => (total x y).resolve_right (by simp [h])) And.left

theorem insertSorted_map (f : β → α) (x : β) (l : List β) :
    insertSorted le (f x) (l.map f) = (insertSorted (fun x y => le (f x) (f y)) x l).map f := by
  induction l with
  | nil => rfl
  | cons y ys ih =>
    simp only [List.map_cons, insertSorted, ih]
    split <;> simp

theorem sortList_map (f : β → α) (l : List β) :
    sortList le (l.map f) = (sortList (fun x y => le (f x) (f y)) l).map f := by
  induction l with
  | nil => rfl
  | cons x xs ih => simp only [List.map_cons, sortList, ih, insertSorted_map]

/-! ### Keys -/

theorem keyLe_total : ∀ a b : List Nat, keyLe a b = true ∨ keyLe b a = true
  | [], _ => .inl rfl
  | _ :: _, [] => .inr rfl
  | a :: as, b :: bs => by
    have := keyLe_total as bs
    simp only [keyLe, Bool.or_eq_true, decide_eq_true_eq, Bool.and_eq_true]
    rcases Nat.lt_trichotomy a b with h | h | h
    · exact .inl (.inl h)
    · exact this.imp (fun k => .inr ⟨h, k⟩) fun k => .inr ⟨h.symm, k⟩
    · exact .inr (.inl h)

theorem keyLe_trans : ∀ {a b c : List Nat}, keyLe a b = true → keyLe b c = true → keyLe a c = true
  | [], _, _, _, _ => rfl
  | _ :: _, [], _, h, _ => by simp [keyLe] at h
  | _ :: _, _ :: _, [], _, h => by simp [keyLe] at h
  | a :: as, b :: bs, c :: cs, h1, h2 => by
    simp only [keyLe, Bool.or_eq_true, decide_eq_true_eq, Bool.and_eq_true] at *
    rcases h1 with h1 | ⟨rfl, h1⟩ <;> rcases h2 with h2 | ⟨rfl, h2⟩
    · exact .inl (h1.trans h2)
    · exact .inl h1
    · exact .inl h2
    · exact .inr ⟨rfl, keyLe_trans h1 h2⟩

/-! ### The greedy choice -/

/-- What is chosen from a list in its order, an entry being passed over when it conflicts with one chosen before. -/
theorem greedy_spec {R : α → α → Prop} {conflict : α → α → Bool} (l : List α) (h : l.Pairwise R) :
    let made := l.foldl (fun made x => if made.any fun y => conflict y x then made else made ++ [x]) []
    made.Sublist l ∧ (made.Pairwise fun y z => conflict y z = false)
      ∧ ∀ z ∈ l, z ∉ made → ∃ y ∈ made, R y z ∧ conflict y z = true := by
  induction l using List.reverseRecOn with
  | nil => simp
  | append_singleton l x ih =>
    rw [List.pairwise_append] at h
    obtain ⟨h1, h2, h3⟩ := ih h.1
    simp only [List.foldl_append, List.foldl_cons, List.foldl_nil]
    generalize l.foldl (fun made x => if made.any fun y => conflict y x then made else made ++ [x]) [] = made at *
    split
    · next hc =>
      refine ⟨h1.trans (by simp), h2, fun z hz hm => ?_⟩
      rcases List.mem_append.1 hz with hz | hz
      · exact h3 z hz hm
      · obtain rfl : z = x := by simpa using hz
        obtain ⟨y, hy, hc⟩ := List.any_eq_true.1 hc
        exact ⟨y, hy, h.2.2 y (h1.subset hy) z (by simp), hc⟩
    · next hc =>
      refine ⟨h1.append (.refl _), ?_, fun z hz hm => ?_⟩
      · refine List.pairwise_append.2 ⟨h2, by simp, fun y hy z hz => ?_⟩
        obtain rfl : z = x := by simpa using hz
        simpa using fun hcc => hc (List.any_eq_true.2 ⟨y, hy, hcc⟩)
      · simp only [List.mem_append, List.mem_singleton, not_or] at hm hz
        obtain ⟨y, hy, hr⟩ := h3 z (hz.resolve_right hm.2) hm.1
        exact ⟨y, by simp [hy], hr⟩

end Sys2Proof.Machine
end

