-- ==== Sys2Proof/Laws/Engines.lean ====
section
/-! SUPPORT. What an echo does to the candidate table, and what a finished pair keeps (R96, R98). -/

namespace Sys2Proof.Machine

/-! ### The candidate an echo matches (R96) -/

theorem bestMatch_mem {k : Kind} {index : Nat} {T : SweepTable} {i j : Nat} {c : Candidate}
    (h : bestMatch k index i T = some (j, c)) : ∃ y ∈ T, eligible k index y = true ∧ y.1 = c := by
  induction T generalizing i with
  | nil => simp [bestMatch] at h
  | cons x rest ih =>
    unfold bestMatch at h
    split at h
    · split at h
      · next he => exact ⟨x, by simp, he, by simp_all⟩
      · cases h
    · next j' y hr =>
      split at h
      · next he => exact ⟨x, by simp, by simp_all, by simp_all⟩
      · cases h
        obtain ⟨z, hz, hz'⟩ := ih hr
        exact ⟨z, by simp [hz], hz'⟩

theorem bestMatch_none {k : Kind} {index : Nat} {T : SweepTable} (i : Nat)
    (h : ∀ y ∈ T, eligible k index y = false) : bestMatch k index i T = none := by
  by_contra hc
  obtain ⟨⟨j, c⟩, hj⟩ := Option.ne_none_iff_exists'.1 hc
  obtain ⟨y, hy, he, -⟩ := bestMatch_mem hj
  simp [h y hy] at he

/-- The candidate that is nearer than every eligible one before it, or equally near with a lower index, and no farther
than every eligible one behind it, is the match. -/
theorem bestMatch_some {k : Kind} {index : Nat} {before after : SweepTable} {x : Candidate × Bool} (i : Nat)
    (hx : eligible k index x = true)
    (hb : ∀ y ∈ before, eligible k index y = true → betterMatch index x.1 y.1 = true)
    (ha : ∀ y ∈ after, eligible k index y = true → betterMatch index y.1 x.1 = false) :
    bestMatch k index i (before ++ x :: after) = some (i + before.length, x.1) := by
  induction before generalizing i with
  | nil =>
    simp only [List.nil_append, bestMatch, List.length_nil, Nat.add_zero]
    split
    · simp [hx]
    · next j c hr =>
      obtain ⟨y, hy, he, rfl⟩ := bestMatch_mem hr
      simp [hx, ha y hy he]
  | cons b bs ih =>
    have hr := ih (i + 1) fun y hy => hb y (by simp [hy])
    simp only [List.cons_append, bestMatch, hr]
    by_cases he : eligible k index b = true
    · simp [hb b (by simp) he]; omega
    · simp [he]; omega

/-! ### The next pair to sweep (R91, R98) -/

/-- The first pair in pair order that satisfies a test. -/
theorem find_first_pair {f : Pair → Bool} {k : Pair} (h : f k = true) (hl : ∀ j : Pair, j.index < k.index → f j = false) :
    Pair.all.find? f = some k := by
  have h0 := hl .a
  have h1 := hl .b
  have h2 := hl .c
  cases k <;> simp_all [Pair.all, Pair.index]

theorem Run.nextPair_eq {r : Run} {k : Pair} (h : pairIn k r.toSweep = true ∧ ∀ y ∈ r.completed, y.pair ≠ k)
    (hl : ∀ j : Pair, j.index < k.index → ¬ (pairIn j r.toSweep = true ∧ ∀ y ∈ r.completed, y.pair ≠ j)) :
    r.nextPair = .sweeping r k 1 r.latched.window [] := by
  have := find_first_pair (f := fun q => pairIn q r.toSweep && !r.completed.any fun x => decide (x.pair = q)) (k := k)
    (by simpa using h) fun j hj => by simpa using hl j hj
  simp only [Run.nextPair, this]

theorem Run.nextPair_none {r : Run} (h : ∀ j : Pair, ¬ (pairIn j r.toSweep = true ∧ ∀ y ∈ r.completed, y.pair ≠ j)) :
    r.nextPair = .closing r .complete := by
  have : (Pair.all.find? fun q => pairIn q r.toSweep && !r.completed.any fun x => decide (x.pair = q)) = none := by
    rw [List.find?_eq_none]
    intro j _
    simpa using h j
  simp only [Run.nextPair, this]

/-! ### A finished pair (R98) -/

/-- The confirmed candidates in the order of a pair's results: distance, kind code, coupled pair, making. -/
theorem confirmedResults_order (set : ProbeSettings) (table : List Candidate) :
    ∃ order : List (Candidate × Nat),
      order.Perm (table.filter fun c => c.confirmed).zipIdx
      ∧ confirmedResults set table = order.map (fun y => y.1.result set.velocity)
      ∧ order.Pairwise fun x y =>
        let a := x.1.result set.velocity
        let b := y.1.result set.velocity
        keyLe b.key a.key = false ∨ (keyLe a.key b.key = true ∧ x.2 < y.2) := by
  let le : Candidate × Nat → Candidate × Nat → Bool := fun x y =>
    keyLe (x.1.result set.velocity).key (y.1.result set.velocity).key
  refine ⟨sortList le (table.filter fun c => c.confirmed).zipIdx, sortList_perm _, ?_,
    sortList_stable (le := le) (fun _ _ => keyLe_total _ _) (fun _ _ _ => keyLe_trans) ?_⟩
  · rw [← sortList_map (le := fun x y => keyLe x.key y.key) fun y : Candidate × Nat => y.1.result set.velocity]
    unfold confirmedResults
    congr 1
    rw [show (fun y : Candidate × Nat => y.1.result set.velocity) = Candidate.result set.velocity ∘ Prod.fst from rfl,
      ← List.map_map, List.zipIdx_map_fst]
  · generalize table.filter (fun c => c.confirmed) = l
    rw [List.pairwise_iff_getElem]
    intro i j hi hj hij
    simpa using hij

end Sys2Proof.Machine
end

