-- ==== Sys2Proof/Laws/State.lean ====
section
/-! SUPPORT. One lemma per field for each update of State, and what the accessors give after it. -/

namespace Sys2Proof.Machine

variable (s : State)

/-! ### setPort -/

@[simp] theorem State.groups_setPort (p : Port) (x : PortState) : (s.setPort p x).groups = s.groups := rfl
@[simp] theorem State.queue_setPort (p : Port) (x : PortState) : (s.setPort p x).queue = s.queue := rfl
@[simp] theorem State.engines_setPort (p : Port) (x : PortState) : (s.setPort p x).engines = s.engines := rfl
@[simp] theorem State.order_setPort (p : Port) (x : PortState) : (s.setPort p x).order = s.order := rfl
@[simp] theorem State.errors_setPort (p : Port) (x : PortState) : (s.setPort p x).errors = s.errors := rfl
@[simp] theorem State.cursor_setPort (p : Port) (x : PortState) : (s.setPort p x).cursor = s.cursor := rfl
@[simp] theorem State.walk_setPort (p : Port) (x : PortState) : (s.setPort p x).walk = s.walk := rfl
@[simp] theorem State.page_setPort (p : Port) (x : PortState) : (s.setPort p x).page = s.page := rfl
@[simp] theorem State.bind_setPort (p : Port) (x : PortState) : (s.setPort p x).bind = s.bind := rfl
@[simp] theorem State.saved_setPort (p : Port) (x : PortState) : (s.setPort p x).saved = s.saved := rfl
@[simp] theorem State.reply_setPort (p : Port) (x : PortState) : (s.setPort p x).reply = s.reply := rfl
@[simp] theorem State.busy_setPort (p : Port) (x : PortState) : (s.setPort p x).busy = s.busy := rfl
@[simp] theorem State.writeHold_setPort (p : Port) (x : PortState) : (s.setPort p x).writeHold = s.writeHold := rfl
@[simp] theorem State.readHold_setPort (p : Port) (x : PortState) : (s.setPort p x).readHold = s.readHold := rfl
@[simp] theorem State.transfer_setPort (p : Port) (x : PortState) : (s.setPort p x).transfer = s.transfer := rfl
@[simp] theorem State.sdo_setPort (p : Port) (x : PortState) : (s.setPort p x).sdo = s.sdo := rfl
@[simp] theorem State.serial_setPort (p : Port) (x : PortState) : (s.setPort p x).serial = s.serial := rfl
@[simp] theorem State.settings_setPort (p : Port) (x : PortState) : (s.setPort p x).settings = s.settings := rfl
@[simp] theorem State.templates_setPort (p : Port) (x : PortState) : (s.setPort p x).templates = s.templates := rfl
@[simp] theorem State.resetN_setPort (p : Port) (x : PortState) : (s.setPort p x).resetN = s.resetN := rfl
@[simp] theorem State.pending_setPort (p : Port) (x : PortState) : (s.setPort p x).pending = s.pending := rfl

@[simp] theorem State.group_setPort (p : Port) (x : PortState) (h : Group) : (s.setPort p x).group h = s.group h := rfl
@[simp] theorem State.engine_setPort (p : Port) (x : PortState) (i : EngineId) : (s.setPort p x).engine i = s.engine i := rfl

/-! ### modPort -/

@[simp] theorem State.groups_modPort (p : Port) (f : PortState → PortState) : (s.modPort p f).groups = s.groups := rfl
@[simp] theorem State.queue_modPort (p : Port) (f : PortState → PortState) : (s.modPort p f).queue = s.queue := rfl
@[simp] theorem State.engines_modPort (p : Port) (f : PortState → PortState) : (s.modPort p f).engines = s.engines := rfl
@[simp] theorem State.order_modPort (p : Port) (f : PortState → PortState) : (s.modPort p f).order = s.order := rfl
@[simp] theorem State.errors_modPort (p : Port) (f : PortState → PortState) : (s.modPort p f).errors = s.errors := rfl
@[simp] theorem State.cursor_modPort (p : Port) (f : PortState → PortState) : (s.modPort p f).cursor = s.cursor := rfl
@[simp] theorem State.walk_modPort (p : Port) (f : PortState → PortState) : (s.modPort p f).walk = s.walk := rfl
@[simp] theorem State.page_modPort (p : Port) (f : PortState → PortState) : (s.modPort p f).page = s.page := rfl
@[simp] theorem State.bind_modPort (p : Port) (f : PortState → PortState) : (s.modPort p f).bind = s.bind := rfl
@[simp] theorem State.saved_modPort (p : Port) (f : PortState → PortState) : (s.modPort p f).saved = s.saved := rfl
@[simp] theorem State.reply_modPort (p : Port) (f : PortState → PortState) : (s.modPort p f).reply = s.reply := rfl
@[simp] theorem State.busy_modPort (p : Port) (f : PortState → PortState) : (s.modPort p f).busy = s.busy := rfl
@[simp] theorem State.writeHold_modPort (p : Port) (f : PortState → PortState) : (s.modPort p f).writeHold = s.writeHold := rfl
@[simp] theorem State.readHold_modPort (p : Port) (f : PortState → PortState) : (s.modPort p f).readHold = s.readHold := rfl
@[simp] theorem State.transfer_modPort (p : Port) (f : PortState → PortState) : (s.modPort p f).transfer = s.transfer := rfl
@[simp] theorem State.sdo_modPort (p : Port) (f : PortState → PortState) : (s.modPort p f).sdo = s.sdo := rfl
@[simp] theorem State.serial_modPort (p : Port) (f : PortState → PortState) : (s.modPort p f).serial = s.serial := rfl
@[simp] theorem State.settings_modPort (p : Port) (f : PortState → PortState) : (s.modPort p f).settings = s.settings := rfl
@[simp] theorem State.templates_modPort (p : Port) (f : PortState → PortState) : (s.modPort p f).templates = s.templates := rfl
@[simp] theorem State.resetN_modPort (p : Port) (f : PortState → PortState) : (s.modPort p f).resetN = s.resetN := rfl
@[simp] theorem State.pending_modPort (p : Port) (f : PortState → PortState) : (s.modPort p f).pending = s.pending := rfl

@[simp] theorem State.group_modPort (p : Port) (f : PortState → PortState) (h : Group) : (s.modPort p f).group h = s.group h := rfl
@[simp] theorem State.engine_modPort (p : Port) (f : PortState → PortState) (i : EngineId) : (s.modPort p f).engine i = s.engine i := rfl

/-! ### setGroup -/

@[simp] theorem State.ports_setGroup (g : Group) (x : GroupLink) : (s.setGroup g x).ports = s.ports := rfl
@[simp] theorem State.queue_setGroup (g : Group) (x : GroupLink) : (s.setGroup g x).queue = s.queue := rfl
@[simp] theorem State.engines_setGroup (g : Group) (x : GroupLink) : (s.setGroup g x).engines = s.engines := rfl
@[simp] theorem State.order_setGroup (g : Group) (x : GroupLink) : (s.setGroup g x).order = s.order := rfl
@[simp] theorem State.errors_setGroup (g : Group) (x : GroupLink) : (s.setGroup g x).errors = s.errors := rfl
@[simp] theorem State.cursor_setGroup (g : Group) (x : GroupLink) : (s.setGroup g x).cursor = s.cursor := rfl
@[simp] theorem State.walk_setGroup (g : Group) (x : GroupLink) : (s.setGroup g x).walk = s.walk := rfl
@[simp] theorem State.page_setGroup (g : Group) (x : GroupLink) : (s.setGroup g x).page = s.page := rfl
@[simp] theorem State.bind_setGroup (g : Group) (x : GroupLink) : (s.setGroup g x).bind = s.bind := rfl
@[simp] theorem State.saved_setGroup (g : Group) (x : GroupLink) : (s.setGroup g x).saved = s.saved := rfl
@[simp] theorem State.reply_setGroup (g : Group) (x : GroupLink) : (s.setGroup g x).reply = s.reply := rfl
@[simp] theorem State.busy_setGroup (g : Group) (x : GroupLink) : (s.setGroup g x).busy = s.busy := rfl
@[simp] theorem State.writeHold_setGroup (g : Group) (x : GroupLink) : (s.setGroup g x).writeHold = s.writeHold := rfl
@[simp] theorem State.readHold_setGroup (g : Group) (x : GroupLink) : (s.setGroup g x).readHold = s.readHold := rfl
@[simp] theorem State.transfer_setGroup (g : Group) (x : GroupLink) : (s.setGroup g x).transfer = s.transfer := rfl
@[simp] theorem State.sdo_setGroup (g : Group) (x : GroupLink) : (s.setGroup g x).sdo = s.sdo := rfl
@[simp] theorem State.serial_setGroup (g : Group) (x : GroupLink) : (s.setGroup g x).serial = s.serial := rfl
@[simp] theorem State.settings_setGroup (g : Group) (x : GroupLink) : (s.setGroup g x).settings = s.settings := rfl
@[simp] theorem State.templates_setGroup (g : Group) (x : GroupLink) : (s.setGroup g x).templates = s.templates := rfl
@[simp] theorem State.resetN_setGroup (g : Group) (x : GroupLink) : (s.setGroup g x).resetN = s.resetN := rfl
@[simp] theorem State.pending_setGroup (g : Group) (x : GroupLink) : (s.setGroup g x).pending = s.pending := rfl

@[simp] theorem State.port_setGroup (g : Group) (x : GroupLink) (q : Port) : (s.setGroup g x).port q = s.port q := rfl
@[simp] theorem State.engine_setGroup (g : Group) (x : GroupLink) (i : EngineId) : (s.setGroup g x).engine i = s.engine i := rfl

/-! ### setEngine -/

@[simp] theorem State.ports_setEngine (e : EngineId) (x : Engine) : (s.setEngine e x).ports = s.ports := rfl
@[simp] theorem State.groups_setEngine (e : EngineId) (x : Engine) : (s.setEngine e x).groups = s.groups := rfl
@[simp] theorem State.queue_setEngine (e : EngineId) (x : Engine) : (s.setEngine e x).queue = s.queue := rfl
@[simp] theorem State.order_setEngine (e : EngineId) (x : Engine) : (s.setEngine e x).order = s.order := rfl
@[simp] theorem State.errors_setEngine (e : EngineId) (x : Engine) : (s.setEngine e x).errors = s.errors := rfl
@[simp] theorem State.cursor_setEngine (e : EngineId) (x : Engine) : (s.setEngine e x).cursor = s.cursor := rfl
@[simp] theorem State.walk_setEngine (e : EngineId) (x : Engine) : (s.setEngine e x).walk = s.walk := rfl
@[simp] theorem State.page_setEngine (e : EngineId) (x : Engine) : (s.setEngine e x).page = s.page := rfl
@[simp] theorem State.bind_setEngine (e : EngineId) (x : Engine) : (s.setEngine e x).bind = s.bind := rfl
@[simp] theorem State.saved_setEngine (e : EngineId) (x : Engine) : (s.setEngine e x).saved = s.saved := rfl
@[simp] theorem State.reply_setEngine (e : EngineId) (x : Engine) : (s.setEngine e x).reply = s.reply := rfl
@[simp] theorem State.busy_setEngine (e : EngineId) (x : Engine) : (s.setEngine e x).busy = s.busy := rfl
@[simp] theorem State.writeHold_setEngine (e : EngineId) (x : Engine) : (s.setEngine e x).writeHold = s.writeHold := rfl
@[simp] theorem State.readHold_setEngine (e : EngineId) (x : Engine) : (s.setEngine e x).readHold = s.readHold := rfl
@[simp] theorem State.transfer_setEngine (e : EngineId) (x : Engine) : (s.setEngine e x).transfer = s.transfer := rfl
@[simp] theorem State.sdo_setEngine (e : EngineId) (x : Engine) : (s.setEngine e x).sdo = s.sdo := rfl
@[simp] theorem State.serial_setEngine (e : EngineId) (x : Engine) : (s.setEngine e x).serial = s.serial := rfl
@[simp] theorem State.settings_setEngine (e : EngineId) (x : Engine) : (s.setEngine e x).settings = s.settings := rfl
@[simp] theorem State.templates_setEngine (e : EngineId) (x : Engine) : (s.setEngine e x).templates = s.templates := rfl
@[simp] theorem State.resetN_setEngine (e : EngineId) (x : Engine) : (s.setEngine e x).resetN = s.resetN := rfl
@[simp] theorem State.pending_setEngine (e : EngineId) (x : Engine) : (s.setEngine e x).pending = s.pending := rfl

@[simp] theorem State.port_setEngine (e : EngineId) (x : Engine) (q : Port) : (s.setEngine e x).port q = s.port q := rfl
@[simp] theorem State.group_setEngine (e : EngineId) (x : Engine) (h : Group) : (s.setEngine e x).group h = s.group h := rfl

/-! ### report -/

@[simp] theorem State.ports_report (c : Cause) (o : Origin) (p : Option Port) : (s.report c o p).ports = s.ports := rfl
@[simp] theorem State.groups_report (c : Cause) (o : Origin) (p : Option Port) : (s.report c o p).groups = s.groups := rfl
@[simp] theorem State.queue_report (c : Cause) (o : Origin) (p : Option Port) : (s.report c o p).queue = s.queue := rfl
@[simp] theorem State.engines_report (c : Cause) (o : Origin) (p : Option Port) : (s.report c o p).engines = s.engines := rfl
@[simp] theorem State.order_report (c : Cause) (o : Origin) (p : Option Port) : (s.report c o p).order = s.order := rfl
@[simp] theorem State.cursor_report (c : Cause) (o : Origin) (p : Option Port) : (s.report c o p).cursor = s.cursor := rfl
@[simp] theorem State.walk_report (c : Cause) (o : Origin) (p : Option Port) : (s.report c o p).walk = s.walk := rfl
@[simp] theorem State.page_report (c : Cause) (o : Origin) (p : Option Port) : (s.report c o p).page = s.page := rfl
@[simp] theorem State.bind_report (c : Cause) (o : Origin) (p : Option Port) : (s.report c o p).bind = s.bind := rfl
@[simp] theorem State.saved_report (c : Cause) (o : Origin) (p : Option Port) : (s.report c o p).saved = s.saved := rfl
@[simp] theorem State.reply_report (c : Cause) (o : Origin) (p : Option Port) : (s.report c o p).reply = s.reply := rfl
@[simp] theorem State.busy_report (c : Cause) (o : Origin) (p : Option Port) : (s.report c o p).busy = s.busy := rfl
@[simp] theorem State.writeHold_report (c : Cause) (o : Origin) (p : Option Port) : (s.report c o p).writeHold = s.writeHold := rfl
@[simp] theorem State.readHold_report (c : Cause) (o : Origin) (p : Option Port) : (s.report c o p).readHold = s.readHold := rfl
@[simp] theorem State.transfer_report (c : Cause) (o : Origin) (p : Option Port) : (s.report c o p).transfer = s.transfer := rfl
@[simp] theorem State.sdo_report (c : Cause) (o : Origin) (p : Option Port) : (s.report c o p).sdo = s.sdo := rfl
@[simp] theorem State.serial_report (c : Cause) (o : Origin) (p : Option Port) : (s.report c o p).serial = s.serial := rfl
@[simp] theorem State.settings_report (c : Cause) (o : Origin) (p : Option Port) : (s.report c o p).settings = s.settings := rfl
@[simp] theorem State.templates_report (c : Cause) (o : Origin) (p : Option Port) : (s.report c o p).templates = s.templates := rfl
@[simp] theorem State.resetN_report (c : Cause) (o : Origin) (p : Option Port) : (s.report c o p).resetN = s.resetN := rfl
@[simp] theorem State.pending_report (c : Cause) (o : Origin) (p : Option Port) : (s.report c o p).pending = s.pending := rfl

@[simp] theorem State.port_report (c : Cause) (o : Origin) (p : Option Port) (q : Port) : (s.report c o p).port q = s.port q := rfl
@[simp] theorem State.group_report (c : Cause) (o : Origin) (p : Option Port) (h : Group) : (s.report c o p).group h = s.group h := rfl
@[simp] theorem State.engine_report (c : Cause) (o : Origin) (p : Option Port) (i : EngineId) : (s.report c o p).engine i = s.engine i := rfl

/-! ### withReply -/

@[simp] theorem State.ports_withReply (r : Vector Byte 8) : (s.withReply r).ports = s.ports := rfl
@[simp] theorem State.groups_withReply (r : Vector Byte 8) : (s.withReply r).groups = s.groups := rfl
@[simp] theorem State.queue_withReply (r : Vector Byte 8) : (s.withReply r).queue = s.queue := rfl
@[simp] theorem State.engines_withReply (r : Vector Byte 8) : (s.withReply r).engines = s.engines := rfl
@[simp] theorem State.order_withReply (r : Vector Byte 8) : (s.withReply r).order = s.order := rfl
@[simp] theorem State.errors_withReply (r : Vector Byte 8) : (s.withReply r).errors = s.errors := rfl
@[simp] theorem State.cursor_withReply (r : Vector Byte 8) : (s.withReply r).cursor = s.cursor := rfl
@[simp] theorem State.walk_withReply (r : Vector Byte 8) : (s.withReply r).walk = s.walk := rfl
@[simp] theorem State.page_withReply (r : Vector Byte 8) : (s.withReply r).page = s.page := rfl
@[simp] theorem State.bind_withReply (r : Vector Byte 8) : (s.withReply r).bind = s.bind := rfl
@[simp] theorem State.saved_withReply (r : Vector Byte 8) : (s.withReply r).saved = s.saved := rfl
@[simp] theorem State.busy_withReply (r : Vector Byte 8) : (s.withReply r).busy = s.busy := rfl
@[simp] theorem State.writeHold_withReply (r : Vector Byte 8) : (s.withReply r).writeHold = s.writeHold := rfl
@[simp] theorem State.readHold_withReply (r : Vector Byte 8) : (s.withReply r).readHold = s.readHold := rfl
@[simp] theorem State.transfer_withReply (r : Vector Byte 8) : (s.withReply r).transfer = s.transfer := rfl
@[simp] theorem State.sdo_withReply (r : Vector Byte 8) : (s.withReply r).sdo = s.sdo := rfl
@[simp] theorem State.serial_withReply (r : Vector Byte 8) : (s.withReply r).serial = s.serial := rfl
@[simp] theorem State.settings_withReply (r : Vector Byte 8) : (s.withReply r).settings = s.settings := rfl
@[simp] theorem State.templates_withReply (r : Vector Byte 8) : (s.withReply r).templates = s.templates := rfl
@[simp] theorem State.resetN_withReply (r : Vector Byte 8) : (s.withReply r).resetN = s.resetN := rfl
@[simp] theorem State.pending_withReply (r : Vector Byte 8) : (s.withReply r).pending = s.pending := rfl

@[simp] theorem State.port_withReply (r : Vector Byte 8) (q : Port) : (s.withReply r).port q = s.port q := rfl
@[simp] theorem State.group_withReply (r : Vector Byte 8) (h : Group) : (s.withReply r).group h = s.group h := rfl
@[simp] theorem State.engine_withReply (r : Vector Byte 8) (i : EngineId) : (s.withReply r).engine i = s.engine i := rfl

/-! ### The replaced entries -/

theorem State.port_setPort (p q : Port) (x : PortState) :
    (s.setPort p x).port q = if q = p then x else s.port q := by
  unfold State.port State.setPort
  by_cases h : q = p
  · subst h; simp
  · have h' : (p : Nat) ≠ q := fun e => h (Fin.ext e.symm)
    simp [h, h']

@[simp] theorem State.port_setPort_self (p : Port) (x : PortState) : (s.setPort p x).port p = x := by
  simp [State.port_setPort]

@[simp] theorem State.port_setPort_ne {p q : Port} (x : PortState) (h : q ≠ p) :
    (s.setPort p x).port q = s.port q := by
  simp [State.port_setPort, h]

theorem State.port_modPort (p q : Port) (f : PortState → PortState) :
    (s.modPort p f).port q = if q = p then f (s.port p) else s.port q := State.port_setPort s p q _

@[simp] theorem State.port_modPort_self (p : Port) (f : PortState → PortState) :
    (s.modPort p f).port p = f (s.port p) := State.port_setPort_self s p _

@[simp] theorem State.port_modPort_ne {p q : Port} (f : PortState → PortState) (h : q ≠ p) :
    (s.modPort p f).port q = s.port q := State.port_setPort_ne s _ h

theorem State.group_setGroup (g h : Group) (x : GroupLink) :
    (s.setGroup g x).group h = if h = g then x else s.group h := by
  unfold State.group State.setGroup
  by_cases e : h = g
  · subst e; simp
  · have e' : (g : Nat) ≠ h := fun i => e (Fin.ext i.symm)
    simp [e, e']

@[simp] theorem State.group_setGroup_self (g : Group) (x : GroupLink) : (s.setGroup g x).group g = x := by
  simp [State.group_setGroup]

theorem State.engine_setEngine (e i : EngineId) (x : Engine) :
    (s.setEngine e x).engine i = if i = e then x else s.engine i := by
  unfold State.engine State.setEngine
  by_cases h : i = e
  · subst h; simp
  · have h' : (e : Nat) ≠ i := fun j => h (Fin.ext j.symm)
    simp [h, h']

@[simp] theorem State.engine_setEngine_self (e : EngineId) (x : Engine) : (s.setEngine e x).engine e = x := by
  simp [State.engine_setEngine]

/-- Replacing a port twice keeps the last value. -/
@[simp] theorem State.setPort_setPort (p : Port) (x y : PortState) : (s.setPort p x).setPort p y = s.setPort p y := by
  simp [State.setPort]

/-- Replacing a port by itself changes nothing. -/
@[simp] theorem State.setPort_port (p : Port) : s.setPort p (s.port p) = s := by
  simp [State.setPort, State.port]

/-! ### Accessors of a state whose other fields were replaced -/

section

variable (groups : Vector GroupLink 6) (queue : List Entry) (engines : Vector Engine 4) (order : List EngineId)
  (errors : ErrorSlot) (cursor : Cursor) (walk : Walk) (page : Bool) (bind : Option Bind) (saved : Option Cursor)
  (reply : Vector Byte 8) (busy : Option Operation) (writeHold readHold : Byte) (transfer : Option Transfer)
  (sdo : List Byte) (serial : Serial) (settings : Settings) (templates : Vector Template 8) (resetN : Bool) (pending : List Instr)

@[simp] theorem State.port_mk (p : Port) :
    (State.mk s.ports groups queue engines order errors cursor walk page bind saved reply busy writeHold readHold
      transfer sdo serial settings templates resetN pending).port p = s.port p := rfl

@[simp] theorem State.group_mk (ports : Vector PortState 48) (g : Group) :
    (State.mk ports s.groups queue engines order errors cursor walk page bind saved reply busy writeHold readHold
      transfer sdo serial settings templates resetN pending).group g = s.group g := rfl

@[simp] theorem State.engine_mk (ports : Vector PortState 48) (e : EngineId) :
    (State.mk ports groups queue s.engines order errors cursor walk page bind saved reply busy writeHold readHold
      transfer sdo serial settings templates resetN pending).engine e = s.engine e := rfl

end

@[simp] theorem State.port_assignEngine (e : EngineId) (x : Engine) (p : Port) :
    (s.assignEngine e x).port p = s.port p := rfl

@[simp] theorem State.group_assignEngine (e : EngineId) (x : Engine) (g : Group) :
    (s.assignEngine e x).group g = s.group g := rfl

@[simp] theorem State.port_releaseEngine (e : EngineId) (p : Port) : (s.releaseEngine e).port p = s.port p := rfl

@[simp] theorem State.group_releaseEngine (e : EngineId) (g : Group) : (s.releaseEngine e).group g = s.group g := rfl

@[simp] theorem State.port_dropEntry (q p : Port) : (s.dropEntry q).port p = s.port p := rfl

@[simp] theorem State.group_dropEntry (q : Port) (g : Group) : (s.dropEntry q).group g = s.group g := rfl

/-! ### Frames -/

theorem SameOutsidePorts.refl : SameOutsidePorts s s := rfl

theorem SameOutsidePorts.trans {s t u : State} (h : SameOutsidePorts s t) (k : SameOutsidePorts t u) :
    SameOutsidePorts s u := by
  unfold SameOutsidePorts at *
  rw [← h, ← k]

theorem SameOutsidePorts.setPort (p : Port) (x : PortState) : SameOutsidePorts s (s.setPort p x) := rfl

theorem OnlyPort.refl (p : Port) : OnlyPort p s s := ⟨rfl, fun _ _ => rfl⟩

theorem OnlyPort.trans {p : Port} {s t u : State} (h : OnlyPort p s t) (k : OnlyPort p t u) : OnlyPort p s u :=
  ⟨h.1.trans k.1, fun q hq => (k.2 q hq).trans (h.2 q hq)⟩

theorem OnlyPort.setPort (p : Port) (x : PortState) : OnlyPort p s (s.setPort p x) :=
  ⟨rfl, fun _ hq => State.port_setPort_ne s x hq⟩

theorem OnlyPort.modPort (p : Port) (f : PortState → PortState) : OnlyPort p s (s.modPort p f) := OnlyPort.setPort s p _

end Sys2Proof.Machine
end

