-- ==== Sys2Proof/Laws/Ops.lean ====
section
/-! SUPPORT. For each shared operation, what it can do, said once. -/

namespace Sys2Proof.Machine

variable (s : State)

/-! ### The application of an update -/

theorem State.commit_same (p : Port) : s.commit p (s.port p).record = s := by
  simp [State.commit]

theorem State.commit_changed {p : Port} {r : LineRecord} (h : r ≠ (s.port p).record) :
    s.commit p r = s.setPort p
      { s.port p with
        record := { r.withEffectiveOffer with generation := (s.port p).record.generation + 1 }
        inChangeSet := true } := by
  simp [State.commit, h]

theorem State.commit_onlyPort (p : Port) (r : LineRecord) : OnlyPort p s (s.commit p r) := by
  unfold State.commit
  dsimp only
  split
  · exact OnlyPort.refl s p
  · exact OnlyPort.setPort s p _

/-- Applying a record changes no more of the port than its record and its place in the change set. -/
theorem State.commit_port (p : Port) (r : LineRecord) :
    (s.commit p r).port p =
      { s.port p with
        record := ((s.commit p r).port p).record, inChangeSet := ((s.commit p r).port p).inChangeSet } := by
  unfold State.commit
  dsimp only
  split <;> simp

/-- An application of a record with the effective offer and the generation of the one it replaces. -/
theorem State.commit_advances {p : Port} {r : LineRecord} (he : r.effectiveOffer = (s.port p).record.effectiveOffer)
    (hg : r.generation = (s.port p).record.generation) : AdvancesOnce (s.port p) ((s.commit p r).port p) := by
  unfold State.commit AdvancesOnce
  dsimp only
  split
  · simp
  · next h =>
    right
    simp only [State.port_setPort_self, LineRecord.withEffectiveOffer, and_self, and_true]
    rw [← he, ← hg]
    exact h

/-- The record after an application, but for its effective offer and generation. -/
theorem State.commit_record (p : Port) (r : LineRecord) :
    { ((s.commit p r).port p).record with effectiveOffer := r.effectiveOffer, generation := r.generation } = r := by
  unfold State.commit
  dsimp only
  split
  · next h => simp [h]
  · simp [LineRecord.withEffectiveOffer]

/-- An application leaves the record's other fields as the applied record has them. -/
theorem State.commit_rest (p : Port) (r : LineRecord) :
    let q := ((s.commit p r).port p).record
    q.offer = r.offer ∧ q.rights = r.rights ∧ q.guardMask = r.guardMask ∧ q.findings = r.findings
      ∧ q.ceiling = r.ceiling ∧ q.pairs = r.pairs ∧ q.lastSource = r.lastSource := by
  have h := State.commit_record s p r
  generalize ((s.commit p r).port p).record = q at h
  cases q
  cases r
  simp only [LineRecord.mk.injEq] at h
  simp_all

/-- An application leaves the writing blocks' fields as the applied record has them. -/
theorem State.commit_writers (p : Port) (r : LineRecord) :
    ((s.commit p r).port p).record.tc = r.tc ∧ ((s.commit p r).port p).record.sched = r.sched := by
  have h := State.commit_record s p r
  generalize ((s.commit p r).port p).record = q at h
  cases q
  cases r
  simp only [LineRecord.mk.injEq] at h
  simp_all

theorem State.submit_onlyPort (host : Bool) (p : Port) (u : Update) : OnlyPort p s (s.submit host p u) := by
  unfold State.submit State.apply
  split
  · exact (OnlyPort.modPort s p _).trans (State.commit_onlyPort _ p _)
  · exact OnlyPort.modPort s p _

/-- Submitting an update changes no more of the port than what is published of it. -/
theorem State.submit_port (host : Bool) (p : Port) (u : Update) :
    (s.submit host p u).port p = (s.port p).publishedAs ((s.submit host p u).port p) := by
  unfold State.submit State.apply
  split
  · rw [State.commit_port]
    simp [PortState.publishedAs, PortState.unwait]
  · simp [PortState.publishedAs, PortState.wait]

/-- An update that waits leaves the record and the change set as they are. -/
theorem State.submit_waits {p : Port} {u : Update} (h : s.bind ≠ none) :
    s.submit false p u = s.modPort p (PortState.wait u) := by
  have : s.bound = true := by simpa [State.bound, Option.isSome_iff_ne_none] using h
  simp [State.submit, this]

/-- An update that is applied at once. -/
theorem State.submit_applies {host : Bool} {p : Port} {u : Update} (h : host = true ∨ s.bind = none) :
    s.submit host p u = (s.modPort p (PortState.unwait u)).apply p u := by
  have : (host || !s.bound) = true := by
    rcases h with h | h
    · simp [h]
    · simp [State.bound, h]
  simp [State.submit, this]

/-- Taking fields out leaves a joint update joint exactly where it takes out the whole part of neither block. -/
theorem PortState.jointWaiting_unwait (ps : PortState) (u : Update) :
    (ps.unwait u).jointWaiting = true ↔ ps.jointWaiting = true
      ∧ ((ps.unwait u).tcWaiting = [] ↔ ps.tcWaiting = []) ∧ ((ps.unwait u).schedWaiting = [] ↔ ps.schedWaiting = []) := by
  have key {α β : Type} (l : List α) (m : List β) : (l.isEmpty == m.isEmpty) = true ↔ (l = [] ↔ m = []) := by
    cases l <;> cases m <;> simp
  simp only [PortState.unwait, Bool.and_eq_true, key, and_assoc]

/-- The update that changes nothing has no effect. -/
theorem State.submit_none (host : Bool) (p : Port) : s.submit host p Update.none = s := by
  have hu : PortState.unwait Update.none (s.port p) = s.port p := by
    simp [PortState.unwait, Update.none]
  have hw : PortState.wait Update.none (s.port p) = s.port p := by
    simp [PortState.wait, Update.none, mergeFields]
  have h1 : s.modPort p (PortState.unwait Update.none) = s := by simp [State.modPort, hu]
  have h2 : s.modPort p (PortState.wait Update.none) = s := by simp [State.modPort, hw]
  unfold State.submit
  rw [h1, h2]
  split
  · simp [State.apply, PortState.updated, Update.none, State.commit]
  · rfl

theorem State.hand_onlyPort (p : Port) (msgs : List Outbound) : OnlyPort p s (s.hand p msgs) := OnlyPort.modPort s p _

@[simp] theorem State.hand_nil (p : Port) : s.hand p [] = s := State.setPort_port s p

end Sys2Proof.Machine
end

