-- ==== Sys2Proof/Laws/Events.lean ====
section
/-! SUPPORT. What one event of the Training Controller leaves and publishes (R13, R18, R20, R38). -/

namespace Sys2Proof.Machine

/-! ### Fields -/

theorem TcField.copy_self (src dst : TcFields) (f : TcField) : TcField.differs (f.copy src dst) src f = false := by
  cases f <;> simp [TcField.copy, TcField.differs]

theorem TcField.copy_other {src dst : TcFields} {f g : TcField} (h : g ≠ f) (x : TcFields) :
    TcField.differs (f.copy src dst) x g = TcField.differs dst x g := by
  cases f <;> cases g <;> first | exact absurd rfl h | rfl

/-- After the fields of a list have been copied, a field of the list is as in the source, and another as before. -/
theorem TcField.foldl_copy (src : TcFields) (l : List TcField) (dst : TcFields) (g : TcField) :
    TcField.differs (l.foldl (TcField.copy src) dst) src g
      = if g ∈ l then false else TcField.differs dst src g := by
  induction l generalizing dst with
  | nil => simp
  | cons f l ih =>
    simp only [List.foldl_cons, ih, List.mem_cons]
    by_cases hl : g ∈ l
    · simp [hl]
    · by_cases hf : g = f
      · subst hf; simp [hl, TcField.copy_self]
      · simp [hl, hf, TcField.copy_other hf]

theorem TcField.mem_all (f : TcField) : f ∈ allTcFields := by
  cases f <;> simp [allTcFields]

/-- Two working states are equal when no field differs. -/
theorem TcFields.ext_differs {a b : TcFields} (h : ∀ f, TcField.differs a b f = false) : a = b := by
  have h1 := h .mode
  have h2 := h .returnMode
  have h3 := h .heldCause
  have h4 := h .armed
  have h5 := h .struck
  have h6 := h .partner
  have h7 := h .resolved
  have h8 := h .attempts
  have h9 := h .autoSpent
  have h10 := h .energy
  have h11 := h .powered
  have h12 := h .powerFault
  have h13 := h .polarity
  have h14 := h .skew
  have h15 := h .swap
  simp only [TcField.differs, decide_eq_false_iff_not, ne_eq, not_not] at *
  cases a
  cases b
  simp_all

theorem TcField.differs_self (a : TcFields) (f : TcField) : TcField.differs a a f = false := by
  cases f <;> simp [TcField.differs]

theorem mem_changedTc {a b : TcFields} {f : TcField} : f ∈ changedTc a b ↔ TcField.differs a b f = true := by
  simp [changedTc, TcField.mem_all]

@[simp] theorem changedTc_self (a : TcFields) : changedTc a a = [] := by
  simp [changedTc, TcField.differs_self]

theorem mem_mergeFields {α : Type} [DecidableEq α] {old new : List α} {f : α} :
    f ∈ mergeFields old new ↔ f ∈ old ∨ f ∈ new := by
  simp only [mergeFields, List.mem_append, List.mem_filter, Bool.not_eq_true', List.contains_eq_mem,
    decide_eq_false_iff_not]
  tauto

@[simp] theorem mergeFields_nil {α : Type} [DecidableEq α] (l : List α) : mergeFields l [] = l := by
  simp [mergeFields]

@[simp] theorem changedSched_self (a : SchedFields) : changedSched a a = [] := by
  simp [changedSched]

/-- A skew that did not change is not among the changed fields. -/
theorem skew_not_mem_changedTc {a b : TcFields} (h : b.skew = a.skew) : TcField.skew ∉ changedTc a b := by
  simp [mem_changedTc, TcField.differs, h]

/-! ### The record an update makes -/

/-- An update writes no more of the record than the fields of its three writers and, with skew values, the verdicts and
the ceiling. -/
theorem PortState.updated_rest (set : Settings) (u : Update) (ps : PortState) :
    let r := ps.updated set u
    r.tc = u.tc.foldl (TcField.copy ps.tc.f) ps.record.tc
      ∧ r.sched = u.sched.foldl (SchedField.copy ps.sched) ps.record.sched
      ∧ r.lastSource = (if u.guard then ps.lastSource else ps.record.lastSource)
      ∧ r.offer = ps.record.offer ∧ r.rights = ps.record.rights ∧ r.guardMask = ps.record.guardMask
      ∧ r.findings = ps.record.findings ∧ r.effectiveOffer = ps.record.effectiveOffer
      ∧ r.generation = ps.record.generation
      ∧ (TcField.skew ∉ u.tc → r.pairs = ps.record.pairs ∧ r.ceiling = ps.record.ceiling) := by
  by_cases h : TcField.skew ∈ u.tc <;> simp [PortState.updated, h, LineRecord.rederive]

variable (s : State)

/-! ### One event -/

/-- The port an event leaves before its update is submitted. -/
def eventPort (ps : PortState) (out : TcEffect) (sched : SchedFields) : PortState :=
  { ps with
    tc := out.m, sched := sched, firings := ps.firings ++ out.firings
    autoRequests := ps.autoRequests + flag out.autoProbe 1, powerNotice := ps.powerNotice || out.notice }

theorem State.event_eq (host : Bool) (p : Port) (out : TcEffect) (sched : SchedFields) :
    s.event host p out sched
      = ((s.setPort p (eventPort (s.port p) out sched)).hand p out.msgs).submit host p
          (eventUpdate (s.port p) out sched) := rfl

/-- The port an event leaves, with its messages handed, before its update is submitted. -/
def handedPort (s : State) (p : Port) (out : TcEffect) (sched : SchedFields) : PortState :=
  { eventPort (s.port p) out sched with
    transmit := out.msgs.foldl
      (handOne (s.group (groupOf p)).linked (eventPort (s.port p) out sched).agreeing) (s.port p).transmit }

theorem State.event_eq_submit (host : Bool) (p : Port) (out : TcEffect) (sched : SchedFields) :
    s.event host p out sched
      = (s.setPort p (handedPort s p out sched)).submit host p (eventUpdate (s.port p) out sched) := by
  rw [State.event_eq]
  congr 1
  simp [State.hand, State.modPort, handedPort, eventPort]

theorem State.event_onlyPort (host : Bool) (p : Port) (out : TcEffect) (sched : SchedFields) :
    OnlyPort p s (s.event host p out sched) := by
  rw [State.event_eq_submit]
  exact (OnlyPort.setPort s p _).trans (State.submit_onlyPort _ host p _)

/-- An event leaves the port as its machine, requests and messages say, but for what is published. -/
theorem State.event_port (host : Bool) (p : Port) (out : TcEffect) (sched : SchedFields) :
    (s.event host p out sched).port p
      = (handedPort s p out sched).publishedAs ((s.event host p out sched).port p) := by
  rw [State.event_eq_submit]
  rw [State.submit_port]
  simp [PortState.publishedAs]

/-- The record and the waiting updates after an event whose update is applied at once. -/
theorem State.event_applied {host : Bool} {p : Port} (h : host = true ∨ s.bind = none) (out : TcEffect)
    (sched : SchedFields) :
    s.event host p out sched
      = (s.setPort p ((handedPort s p out sched).unwait (eventUpdate (s.port p) out sched))).commit p
          (((handedPort s p out sched).unwait (eventUpdate (s.port p) out sched)).updated s.settings
            (eventUpdate (s.port p) out sched)) := by
  rw [State.event_eq_submit, State.submit_applies _ (by simpa using h)]
  simp [State.apply, State.modPort]

/-- An event whose update waits. -/
theorem State.event_waits {p : Port} (h : s.bind ≠ none) (out : TcEffect) (sched : SchedFields) :
    s.event false p out sched
      = s.setPort p ((handedPort s p out sched).wait (eventUpdate (s.port p) out sched)) := by
  rw [State.event_eq_submit, State.submit_waits _ (by simpa using h)]
  simp [State.modPort]

/-! ### What an event does to the record -/

/-- The fields an event's update writes (R13, R20). -/
theorem mem_eventUpdate {ps : PortState} {out : TcEffect} {sched : SchedFields} {f : TcField} :
    f ∈ (eventUpdate ps out sched).tc ↔ TcField.differs ps.tc.f out.m.f f = true ∨ f ∈ out.carries := by
  simp [eventUpdate, mem_mergeFields, mem_changedTc]

theorem mem_eventUpdate_status {ps : PortState} {out : TcEffect} {sched : SchedFields} :
    SchedField.status ∈ (eventUpdate ps out sched).sched ↔ sched.status ≠ ps.sched.status := by
  simp only [eventUpdate, changedSched]
  split <;> split <;> simp_all [eq_comm]

theorem mem_eventUpdate_outcome {ps : PortState} {out : TcEffect} {sched : SchedFields} :
    SchedField.outcome ∈ (eventUpdate ps out sched).sched ↔ sched.outcome ≠ ps.sched.outcome := by
  simp only [eventUpdate, changedSched]
  split <;> split <;> simp_all [eq_comm]

theorem eventUpdate_sched_status (ps : PortState) (out : TcEffect) (sched dst : SchedFields) :
    ((eventUpdate ps out sched).sched.foldl (SchedField.copy sched) dst).status
      = if ps.sched.status = sched.status then dst.status else sched.status := by
  simp only [eventUpdate, changedSched]
  split <;> split <;> simp [SchedField.copy]

theorem eventUpdate_sched_outcome (ps : PortState) (out : TcEffect) (sched dst : SchedFields) :
    ((eventUpdate ps out sched).sched.foldl (SchedField.copy sched) dst).outcome
      = if ps.sched.outcome = sched.outcome then dst.outcome else sched.outcome := by
  simp only [eventUpdate, changedSched]
  split <;> split <;> simp [SchedField.copy]

/-- A field outside the list is as it was. -/
theorem TcField.foldl_copy_of_not_mem {src : TcFields} {l : List TcField} {dst x : TcFields} {g : TcField} (h : g ∉ l) :
    TcField.differs (l.foldl (TcField.copy src) dst) x g = TcField.differs dst x g := by
  induction l generalizing dst with
  | nil => rfl
  | cons f l ih =>
    rw [List.foldl_cons, ih (by simp_all), TcField.copy_other (by simp_all)]

theorem TcField.differs_congr {a b c d : TcFields} {f : TcField} (h1 : TcField.differs a c f = false)
    (h2 : TcField.differs b d f = false) : TcField.differs a b f = TcField.differs c d f := by
  cases f <;> simp_all [TcField.differs]

theorem TcField.differs_comm (a b : TcFields) (f : TcField) : TcField.differs a b f = TcField.differs b a f := by
  cases f <;> simp [TcField.differs, eq_comm]

@[simp] theorem State.event_tc (host : Bool) (p : Port) (out : TcEffect) (sched : SchedFields) :
    ((s.event host p out sched).port p).tc = out.m := by
  rw [State.event_port]; rfl

@[simp] theorem State.event_sched (host : Bool) (p : Port) (out : TcEffect) (sched : SchedFields) :
    ((s.event host p out sched).port p).sched = sched := by
  rw [State.event_port]; rfl

/-- The record after an event applied at once. -/
theorem State.event_record {host : Bool} {p : Port} (h : host = true ∨ s.bind = none) (out : TcEffect)
    (sched : SchedFields) :
    let r := ((s.event host p out sched).port p).record
    let a := (s.port p).record
    r.tc = (eventUpdate (s.port p) out sched).tc.foldl (TcField.copy out.m.f) a.tc
      ∧ r.sched = (eventUpdate (s.port p) out sched).sched.foldl (SchedField.copy sched) a.sched
      ∧ r.lastSource = a.lastSource ∧ r.offer = a.offer ∧ r.rights = a.rights ∧ r.guardMask = a.guardMask
      ∧ r.findings = a.findings
      ∧ (TcField.skew ∉ (eventUpdate (s.port p) out sched).tc → r.pairs = a.pairs ∧ r.ceiling = a.ceiling)
      ∧ AdvancesOnce (s.port p) ((s.event host p out sched).port p) := by
  rw [State.event_applied s h]
  have k1 : ((handedPort s p out sched).unwait (eventUpdate (s.port p) out sched)).record = (s.port p).record := rfl
  have k2 : ((handedPort s p out sched).unwait (eventUpdate (s.port p) out sched)).inChangeSet
      = (s.port p).inChangeSet := rfl
  have k3 : ((handedPort s p out sched).unwait (eventUpdate (s.port p) out sched)).tc = out.m := rfl
  have k4 : ((handedPort s p out sched).unwait (eventUpdate (s.port p) out sched)).sched = sched := rfl
  generalize (handedPort s p out sched).unwait (eventUpdate (s.port p) out sched) = q at k1 k2 k3 k4 ⊢
  obtain ⟨u1, u2, u3, u4, u5, u6, u7, u8, u9, u10⟩ :=
    PortState.updated_rest s.settings (eventUpdate (s.port p) out sched) q
  rw [k1] at u1 u2 u3 u4 u5 u6 u7 u8 u9 u10
  rw [k3] at u1
  rw [k4] at u2
  have hp : (s.setPort p q).port p = q := State.port_setPort_self s p q
  obtain ⟨r1, r2, r3, r4, r5, r6, r7⟩ :=
    State.commit_rest (s.setPort p q) p (q.updated s.settings (eventUpdate (s.port p) out sched))
  obtain ⟨c1, c2⟩ :=
    State.commit_writers (s.setPort p q) p (q.updated s.settings (eventUpdate (s.port p) out sched))
  have ha := State.commit_advances (s.setPort p q) (p := p)
    (r := q.updated s.settings (eventUpdate (s.port p) out sched)) (by rw [hp, k1, u8]) (by rw [hp, k1, u9])
  refine ⟨c1.trans u1, c2.trans u2, r7.trans u3, r1.trans u4, r2.trans u5, r3.trans u6, r4.trans u7, ?_, ?_⟩
  · intro hk
    exact ⟨r6.trans (u10 hk).1, r5.trans (u10 hk).2⟩
  · rw [hp] at ha
    simpa [AdvancesOnce, k1, k2] using ha

/-- What is published at an event (R13 to R15, R18 to R20). -/
theorem State.event_publishes (host : Bool) (p : Port) (out : TcEffect) (sched : SchedFields) :
    Publishes host out.carries p s (s.event host p out sched) := by
  unfold Publishes State.atOnce
  simp only [State.event_tc, State.event_sched]
  by_cases h : host = true ∨ s.bind = none
  · obtain ⟨e1, e2, e3, e4, e5, e6, e7, -, e9⟩ := State.event_record s h out sched
    have hw : ((s.event host p out sched).port p).tcWaiting
        = (s.port p).tcWaiting.filter (fun f => !(eventUpdate (s.port p) out sched).tc.contains f) := by
      rw [State.event_applied s h, State.commit_port]
      simp [PortState.unwait, handedPort, eventPort]
    have hs : ((s.event host p out sched).port p).schedWaiting
        = (s.port p).schedWaiting.filter (fun f => !(eventUpdate (s.port p) out sched).sched.contains f) := by
      rw [State.event_applied s h, State.commit_port]
      simp [PortState.unwait, handedPort, eventPort]
    have hj : ((s.event host p out sched).port p).jointWaiting = true ↔ (s.port p).jointWaiting = true
        ∧ (((s.event host p out sched).port p).tcWaiting = [] ↔ (s.port p).tcWaiting = [])
        ∧ (((s.event host p out sched).port p).schedWaiting = [] ↔ (s.port p).schedWaiting = []) := by
      rw [hw, hs, State.event_applied s h, State.commit_port]
      simp only [State.port_setPort_self]
      exact PortState.jointWaiting_unwait (handedPort s p out sched) (eventUpdate (s.port p) out sched)
    have hgd : ((s.event host p out sched).port p).guardWaiting = (s.port p).guardWaiting := by
      rw [State.event_applied s h, State.commit_port]
      simp [PortState.unwait, handedPort, eventPort, eventUpdate]
    refine ⟨fun _ => ⟨?_, ?_, ?_, ?_, ?_, ?_, hj⟩, fun hn => absurd h hn, hgd, e3, e4, e5, e6, e7, e9⟩
    · intro f hf
      have hm := mem_eventUpdate (sched := sched) (ps := s.port p) (out := out) |>.2 hf
      refine ⟨?_, ?_⟩
      · rw [e1, TcField.foldl_copy]; simp [hm]
      · rw [hw]; simp [hm]
    · intro f hf
      have hm : f ∉ (eventUpdate (s.port p) out sched).tc := fun hm => hf (mem_eventUpdate.1 hm)
      refine ⟨?_, ?_⟩
      · rw [e1, TcField.foldl_copy_of_not_mem hm]; exact TcField.differs_self _ f
      · rw [hw]; simp [hm]
    · intro hd
      refine ⟨?_, ?_⟩
      · rw [e2, eventUpdate_sched_status, if_neg (Ne.symm hd)]
      · rw [hs]; simp [mem_eventUpdate_status.2 hd]
    · intro hd
      refine ⟨?_, ?_⟩
      · rw [e2, eventUpdate_sched_status, if_pos hd.symm]
      · have : SchedField.status ∉ (eventUpdate (s.port p) out sched).sched :=
          fun hm => mem_eventUpdate_status.1 hm hd
        rw [hs]; simp [this]
    · intro hd
      refine ⟨?_, ?_⟩
      · rw [e2, eventUpdate_sched_outcome, if_neg (Ne.symm hd)]
      · rw [hs]; simp [mem_eventUpdate_outcome.2 hd]
    · intro hd
      refine ⟨?_, ?_⟩
      · rw [e2, eventUpdate_sched_outcome, if_pos hd.symm]
      · have : SchedField.outcome ∉ (eventUpdate (s.port p) out sched).sched :=
          fun hm => mem_eventUpdate_outcome.1 hm hd
        rw [hs]; simp [this]
  · push Not at h
    obtain ⟨h1, h2⟩ := h
    have h3 : host = false := by simpa using h1
    subst h3
    rw [State.event_waits s h2]
    simp only [State.port_setPort_self, PortState.wait, handedPort, eventPort, mem_mergeFields, mem_eventUpdate,
      mem_eventUpdate_status, mem_eventUpdate_outcome]
    refine ⟨fun ha => absurd ha (by simp [h2]), fun _ => ⟨trivial, trivial, fun f => trivial, trivial, trivial, ?_⟩,
      ?_, trivial, trivial, trivial, trivial, trivial, Or.inl ⟨rfl, rfl⟩⟩
    · have ht : ((eventUpdate (s.port p) out sched).tc.isEmpty = false)
          ↔ ∃ f, TcField.differs (s.port p).tc.f out.m.f f = true ∨ f ∈ out.carries := by
        simp only [← mem_eventUpdate (sched := sched)]
        cases (eventUpdate (s.port p) out sched).tc <;> simp
      have hs : ((eventUpdate (s.port p) out sched).sched.isEmpty = false) ↔ sched ≠ (s.port p).sched := by
        constructor
        · rintro h rfl
          simp [eventUpdate] at h
        · intro h
          by_contra hc
          have he : (eventUpdate (s.port p) out sched).sched = [] := by simpa using hc
          apply h
          have k1 : ¬ SchedField.status ∈ (eventUpdate (s.port p) out sched).sched := by simp [he]
          have k2 : ¬ SchedField.outcome ∈ (eventUpdate (s.port p) out sched).sched := by simp [he]
          rw [mem_eventUpdate_status, not_not] at k1
          rw [mem_eventUpdate_outcome, not_not] at k2
          cases sched
          simp_all
      simp only [Bool.or_eq_true, Bool.and_eq_true, Bool.not_eq_true', ht, hs]
    · simp [eventUpdate]

/-- An event that keeps the skew keeps the verdicts and the ceiling. -/
theorem State.event_keepsVerdicts (host : Bool) (p : Port) (out : TcEffect) (sched : SchedFields)
    (hc : TcField.skew ∉ out.carries) (hs : out.m.f.skew = (s.port p).tc.f.skew) :
    KeepsVerdicts p s (s.event host p out sched) := by
  have hk : TcField.skew ∉ (eventUpdate (s.port p) out sched).tc := by
    rw [mem_eventUpdate]
    simp [TcField.differs, hs, hc]
  by_cases h : host = true ∨ s.bind = none
  · exact (State.event_record s h out sched).2.2.2.2.2.2.2.1 hk
  · push Not at h
    obtain ⟨h1, h2⟩ := h
    have h3 : host = false := by simpa using h1
    subst h3
    rw [State.event_waits s h2]
    simp [KeepsVerdicts, PortState.wait, handedPort, eventPort]

/-- The messages of an event that hands none, or keeps the skew. -/
theorem State.event_handed (host : Bool) (p : Port) (out : TcEffect) (sched : SchedFields)
    (h : out.msgs = [] ∨ KeepsVerdicts p s (s.event host p out sched)) :
    Handed p out.msgs s (s.event host p out sched) := by
  unfold Handed
  have ht : ((s.event host p out sched).port p).transmit
      = out.msgs.foldl (handOne (s.group (groupOf p)).linked (eventPort (s.port p) out sched).agreeing)
          (s.port p).transmit := by
    rw [State.event_port]; rfl
  rcases h with h | h
  · rw [ht, h]; rfl
  · obtain ⟨-, -, -, -, h5, -⟩ := State.event_publishes s host p out sched
    have ha : ((s.event host p out sched).port p).agreeing = (eventPort (s.port p) out sched).agreeing := by
      simp only [PortState.agreeing, PortState.offered, State.event_tc, h5, h.2, eventPort]
    rw [ht, ha]

/-! ### What an event leaves -/

/-- What any event that hands no message leaves. -/
theorem State.event_leavesButVerdicts (host : Bool) (p : Port) (out : TcEffect) (sched : SchedFields)
    (h : out.msgs = [] ∨ KeepsVerdicts p s (s.event host p out sched)) :
    EventLeavesButVerdicts host out.carries p (eventPort (s.port p) out sched) out.msgs s
      (s.event host p out sched) := by
  refine ⟨State.event_onlyPort s host p out sched, State.event_publishes s host p out sched,
    State.event_handed s host p out sched h, ?_⟩
  rw [State.event_port]
  simp [PortState.publishedAs, handedPort]

/-- What an event that keeps the skew leaves. -/
theorem State.event_leaves (host : Bool) (p : Port) (out : TcEffect) (sched : SchedFields)
    (hc : TcField.skew ∉ out.carries) (hs : out.m.f.skew = (s.port p).tc.f.skew) :
    EventLeaves host out.carries p (eventPort (s.port p) out sched) out.msgs s (s.event host p out sched) :=
  have hk := State.event_keepsVerdicts s host p out sched hc hs
  ⟨State.event_leavesButVerdicts s host p out sched (Or.inr hk), hk⟩

/-- What an event of the Training Controller alone leaves. -/
theorem State.tcEvent_leaves (host : Bool) (p : Port) (out : TcEffect) (hc : TcField.skew ∉ out.carries)
    (hs : out.m.f.skew = (s.port p).tc.f.skew) :
    EventLeaves host out.carries p (eventPort (s.port p) out (s.port p).sched) out.msgs s (s.tcEvent host p out) :=
  State.event_leaves s host p out _ hc hs

/-- What an event leaves, when a step before it has only touched fields of the port that no publishing reads. -/
theorem EventLeaves.of_modPort {host : Bool} {carried : List TcField} {p : Port} {f : PortState → PortState}
    {expected : PortState} {msgs : List Outbound} {t : State}
    (hf : f (s.port p) = { f (s.port p) with
      record := (s.port p).record, inChangeSet := (s.port p).inChangeSet, tc := (s.port p).tc
      sched := (s.port p).sched, transmit := (s.port p).transmit, tcWaiting := (s.port p).tcWaiting
      schedWaiting := (s.port p).schedWaiting, guardWaiting := (s.port p).guardWaiting
      jointWaiting := (s.port p).jointWaiting })
    (h : EventLeaves host carried p expected msgs (s.modPort p f) t) :
    EventLeaves host carried p expected msgs s t := by
  obtain ⟨⟨h1, h2, h3, h4⟩, h5⟩ := h
  have e1 := congrArg PortState.record hf
  have e2 := congrArg PortState.inChangeSet hf
  have e3 := congrArg PortState.tc hf
  have e4 := congrArg PortState.sched hf
  have e5 := congrArg PortState.transmit hf
  have e6 := congrArg PortState.tcWaiting hf
  have e7 := congrArg PortState.schedWaiting hf
  have e8 := congrArg PortState.guardWaiting hf
  have e9 := congrArg PortState.jointWaiting hf
  dsimp only at e1 e2 e3 e4 e5 e6 e7 e8 e9
  refine ⟨⟨(OnlyPort.modPort s p f).trans h1, ?_, ?_, h4⟩, ?_⟩
  · simpa [Publishes, State.atOnce, AdvancesOnce, e1, e2, e3, e4, e6, e7, e8, e9] using h2
  · simpa [Handed, e5] using h3
  · simpa [KeepsVerdicts, e1] using h5

/-- What an event of the Scheduler alone leaves. -/
theorem State.schedEvent_leaves (host : Bool) (p : Port) (sched : SchedFields) :
    EventLeaves host [] p { s.port p with sched := sched } [] s (s.schedEvent host p sched) := by
  have h := State.event_leaves s host p (.of (s.port p).tc []) sched (by simp [TcEffect.of]) rfl
  simpa [eventPort, TcEffect.of, flag, State.schedEvent] using h

/-- What an event of both blocks that makes no firing, request or notice leaves, its update carrying some fields in any
case. -/
theorem State.carryingEvent_leaves (host : Bool) (p : Port) (m : PortMachine) (msgs : List Outbound)
    (fields : List TcField) (sched : SchedFields) (hf : TcField.skew ∉ fields) (hs : m.f.skew = (s.port p).tc.f.skew) :
    EventLeaves host fields p { s.port p with tc := m, sched := sched } msgs s
      (s.event host p ((TcEffect.of m msgs).carrying fields) sched) := by
  have h := State.event_leaves s host p ((TcEffect.of m msgs).carrying fields) sched hf hs
  simpa [eventPort, TcEffect.of, TcEffect.carrying, flag] using h

/-- What an event of both blocks that makes no firing, request or notice leaves. -/
theorem State.plainEvent_leaves (host : Bool) (p : Port) (m : PortMachine) (msgs : List Outbound) (sched : SchedFields)
    (hs : m.f.skew = (s.port p).tc.f.skew) :
    EventLeaves host [] p { s.port p with tc := m, sched := sched } msgs s (s.event host p (.of m msgs) sched) :=
  State.carryingEvent_leaves s host p m msgs [] sched List.not_mem_nil hs

end Sys2Proof.Machine
end

