-- ==== Sys2Proof/Laws/Findings.lean ====
section
/-! SUPPORT. What the matching of a covered pair does (R111 to R115). -/

namespace Sys2Proof.Machine

theorem within_iff {tolerance a b : Nat} : within tolerance a b = true ↔ a ≤ b + tolerance ∧ b ≤ a + tolerance := by
  simp [within]

theorem zipIdx_pairwise {α : Type} (l : List α) : l.zipIdx.Pairwise fun x y => x.2 < y.2 := by
  rw [List.pairwise_iff_getElem]
  intro i j hi hj hij
  simpa using hij

/-! ### Order (R108) -/

theorem sortFindings_perm (l : List Finding) : (sortFindings l).Perm l := sortList_perm l

theorem sortFindings_sorted (l : List Finding) :
    (sortFindings l).Pairwise fun f g => keyLe f.key g.key = true :=
  sortList_sorted (le := fun x y : Finding => keyLe x.key y.key) (fun _ _ => keyLe_total _ _)
    (fun _ _ _ => keyLe_trans) l

/-! ### Compaction and collapse (R112) -/

/-- With no duplicates nothing is compacted. -/
theorem compactOnce_none {tolerance : Nat} {l : List Finding}
    (h : l.Pairwise fun f g => duplicates tolerance f g = false) : compactOnce tolerance l = none := by
  induction l with
  | nil => rfl
  | cons f rest ih =>
    rw [List.pairwise_cons] at h
    have : rest.findIdx? (duplicates tolerance f) = none := by
      rw [List.findIdx?_eq_none_iff]
      exact h.1
    simp [compactOnce, this, ih h.2]

/-- The first finding with a partner, against its first partner. -/
theorem compactOnce_some {tolerance : Nat} {before between after : List Finding} {f g : Finding}
    (hb : ∀ h ∈ before, ∀ k ∈ f :: (between ++ g :: after), duplicates tolerance h k = false)
    (hp : before.Pairwise fun h k => duplicates tolerance h k = false)
    (hm : ∀ h ∈ between, duplicates tolerance f h = false) (hd : duplicates tolerance f g = true) :
    compactOnce tolerance (before ++ f :: (between ++ g :: after)) = some
      (if f.runs < g.runs ∨ (f.runs = g.runs ∧ g.distance < f.distance) then before ++ (between ++ g :: after)
       else before ++ f :: (between ++ after)) := by
  induction before with
  | nil =>
    have hi : (between ++ g :: after).findIdx? (duplicates tolerance f) = some between.length := by
      rw [List.findIdx?_append, List.findIdx?_eq_none_iff.2 hm]
      simp [List.findIdx?_cons, hd]
    have he : (between ++ g :: after).eraseIdx between.length = between ++ after := by
      rw [List.eraseIdx_append_of_length_le (by simp)]
      simp
    simp only [List.nil_append, compactOnce, hi, List.getElem?_append_right (Nat.le_refl _), Nat.sub_self,
      List.getElem?_cons_zero, he, Bool.or_eq_true, decide_eq_true_eq, Bool.and_eq_true]
    split <;> rfl
  | cons b bs ih =>
    rw [List.pairwise_cons] at hp
    have hn : (bs ++ f :: (between ++ g :: after)).findIdx? (duplicates tolerance b) = none := by
      rw [List.findIdx?_eq_none_iff]
      intro k hk
      rcases List.mem_append.1 hk with hk | hk
      · exact hp.1 k hk
      · exact hb b (by simp) k hk
    simp only [List.cons_append, compactOnce, hn, ih (fun h hh => hb h (by simp [hh])) hp.2]
    split <;> rfl

/-- One more result is collapsed behind the others. -/
theorem collapseResults_append (tolerance : Nat) (l : List Result) (x : Result) :
    collapseResults tolerance (l ++ [x]) =
      if (collapseResults tolerance l).any fun k => decide (k.kind = x.kind) && within tolerance k.distance x.distance
      then collapseResults tolerance l else collapseResults tolerance l ++ [x] := by
  simp [collapseResults, List.foldl_append]

/-! ### Pairing (R113) -/

theorem mem_candidatePairings {tolerance : Nat} {fs : List Finding} {rs : List Result} {y : Pairing} :
    y ∈ candidatePairings tolerance fs rs ↔ ∃ f x, fs[y.finding]? = some f ∧ rs[y.result]? = some x ∧ f.kind = x.kind
      ∧ within tolerance f.distance x.distance = true
      ∧ y.diff = (f.distance - x.distance) + (x.distance - f.distance) := by
  simp only [candidatePairings, List.mem_flatMap, List.mem_filterMap, Prod.exists]
  constructor
  · rintro ⟨f, i, hf, x, j, hx, h⟩
    split at h
    · next hc =>
      cases h
      exact ⟨f, x, by simpa [List.mem_zipIdx_iff_getElem?] using hf, by simpa [List.mem_zipIdx_iff_getElem?] using hx,
        hc.1, hc.2, rfl⟩
    · cases h
  · rintro ⟨f, x, hf, hx, hk, hw, hd⟩
    refine ⟨f, y.finding, by simpa [List.mem_zipIdx_iff_getElem?] using hf, x, y.result,
      by simpa [List.mem_zipIdx_iff_getElem?] using hx, ?_⟩
    rw [if_pos ⟨hk, hw⟩]
    cases y
    simp_all

theorem candidatePairings_pairwise (tolerance : Nat) (fs : List Finding) (rs : List Result) :
    (candidatePairings tolerance fs rs).Pairwise fun y z =>
      y.finding < z.finding ∨ (y.finding = z.finding ∧ y.result < z.result) := by
  unfold candidatePairings
  rw [List.pairwise_flatMap]
  refine ⟨fun fi _ => ?_, (zipIdx_pairwise fs).imp ?_⟩
  · rw [List.pairwise_filterMap]
    refine (zipIdx_pairwise rs).imp ?_
    intro a b hab y hy z hz
    split at hy <;> cases hy
    split at hz <;> cases hz
    exact .inr ⟨rfl, hab⟩
  · intro a b hab y hy z hz
    simp only [List.mem_filterMap] at hy hz
    obtain ⟨_, _, hy⟩ := hy
    obtain ⟨_, _, hz⟩ := hz
    split at hy <;> cases hy
    split at hz <;> cases hz
    exact .inl hab

/-- The pairings made: candidates, no finding and no result twice, and every candidate left out loses its finding or its
result to one that comes before it in the order of difference, finding and result. -/
theorem makePairings_spec (tolerance : Nat) (fs : List Finding) (rs : List Result) :
    let made := makePairings tolerance fs rs
    (∀ y ∈ made, y ∈ candidatePairings tolerance fs rs)
      ∧ (made.Pairwise fun y z => y.finding ≠ z.finding ∧ y.result ≠ z.result)
      ∧ ∀ z ∈ candidatePairings tolerance fs rs, z ∉ made → ∃ y ∈ made,
        (y.diff < z.diff
          ∨ (y.diff = z.diff ∧ (y.finding < z.finding ∨ (y.finding = z.finding ∧ y.result < z.result))))
        ∧ (y.finding = z.finding ∨ y.result = z.result) := by
  have hs := sortList_stable (le := fun x y : Pairing => decide (x.diff ≤ y.diff))
    (by intro x y; simp only [decide_eq_true_eq]; omega) (by intro x y z; simp only [decide_eq_true_eq]; omega)
    (candidatePairings_pairwise tolerance fs rs)
  obtain ⟨g1, g2, g3⟩ := greedy_spec
    (conflict := fun y z : Pairing => decide (y.finding = z.finding) || decide (y.result = z.result)) _ hs
  refine ⟨fun y hy => (sortList_perm _).mem_iff.1 (g1.subset hy), g2.imp ?_, fun z hz hm => ?_⟩
  · intro y z h
    simpa using h
  · obtain ⟨y, hy, hr, hc⟩ := g3 z ((sortList_perm _).mem_iff.2 hz) hm
    refine ⟨y, hy, ?_, by simpa using hc⟩
    simp only [decide_eq_false_iff_not, decide_eq_true_eq] at hr
    omega

/-- Of the entries of a list, those at no chosen place and the chosen places together are all. -/
theorem length_unchosen {α : Type} (l : List α) (chosen : List Nat) (hn : chosen.Nodup) (hv : ∀ j ∈ chosen, j < l.length) :
    (l.zipIdx.filter fun y => !decide (y.2 ∈ chosen)).length + chosen.length = l.length := by
  have hp : ((List.range l.length).filter fun j => decide (j ∈ chosen)).Perm chosen := by
    rw [List.perm_ext_iff_of_nodup (List.nodup_range.filter _) hn]
    intro j
    simp only [List.mem_filter, List.mem_range, decide_eq_true_eq]
    exact ⟨And.right, fun h => ⟨hv j h, h⟩⟩
  have he : (l.zipIdx.filter fun y => decide (y.2 ∈ chosen)).length = chosen.length := by
    rw [← hp.length_eq, List.range_eq_range', ← List.zipIdx_map_snd 0 l, List.filter_map, List.length_map]
    rfl
  have h := List.length_eq_length_filter_add (l := l.zipIdx) (fun y => decide (y.2 ∈ chosen))
  rw [List.length_zipIdx] at h
  omega

/-! ### Room (R115) -/

theorem retireLastFading_none {l : List Finding} (h : ∀ f ∈ l, f.state ≠ .fading) : retireLastFading l = l := by
  cases l with
  | nil => rfl
  | cons f rest =>
    have hr : (rest.any fun g => decide (g.state = .fading)) = false := by
      simpa using fun g hg => h g (by simp [hg])
    simp [retireLastFading, hr, h f (by simp)]

theorem retireLastFading_some {before after : List Finding} {f : Finding} (hf : f.state = .fading)
    (ha : ∀ g ∈ after, g.state ≠ .fading) : retireLastFading (before ++ f :: after) = before ++ after := by
  induction before with
  | nil =>
    have hr : (after.any fun g => decide (g.state = .fading)) = false := by simpa using ha
    simp [retireLastFading, hr, hf]
  | cons b bs ih =>
    have hr : ((bs ++ f :: after).any fun g => decide (g.state = .fading)) = true := by simp [hf]
    simp only [List.cons_append, retireLastFading, hr, if_true, ih]

theorem makeRoom_none (n : Nat) {l : List Finding} (h : ∀ f ∈ l, f.state ≠ .fading) : makeRoom n l = l := by
  induction n with
  | zero => rfl
  | succ n ih => rw [makeRoom, retireLastFading_none h, ih]

theorem makeRoom_some (n : Nat) {before after : List Finding} {f : Finding} (hf : f.state = .fading)
    (ha : ∀ g ∈ after, g.state ≠ .fading) :
    makeRoom (n + 1) (before ++ f :: after) = makeRoom n (before ++ after) := by
  rw [makeRoom, retireLastFading_some hf ha]

end Sys2Proof.Machine
end

