-- ==== Sys2Proof/Laws/Host.lean ====
section
/-! SUPPORT. How a host command that is taken reaches its block, and how the lowest-numbered of a list is found. -/

namespace Sys2Proof.Machine

/-! ### The lowest-numbered -/

theorem allPorts_eq : allPorts = List.finRange 48 := by decide

theorem mem_allPorts (p : Port) : p ∈ allPorts := by
  rw [allPorts_eq]; exact List.mem_finRange p

theorem mem_allEngines (e : EngineId) : e ∈ allEngines := by
  revert e; decide

/-- In a strictly ascending list the first entry that satisfies a test is the least one that does. -/
theorem find_first {α : Type} [LinearOrder α] {P : α → Bool} {p : α} {l : List α} (hs : l.Pairwise (· < ·))
    (hp : p ∈ l) (h : P p = true) (hl : ∀ q, q < p → P q = false) : l.find? P = some p := by
  induction l with
  | nil => simp at hp
  | cons x l ih =>
    rw [List.pairwise_cons] at hs
    rw [List.find?_cons]
    rcases List.mem_cons.1 hp with rfl | hm
    · simp [h]
    · simp [hl x (hs.1 p hm), ih hs.2 hm]

/-- The lowest-numbered port that satisfies a test. -/
theorem find_lowest {P : Port → Bool} {p : Port} (h : P p = true) (hl : ∀ q, q < p → P q = false) :
    allPorts.find? P = some p :=
  find_first (by rw [allPorts_eq]; decide) (mem_allPorts p) h hl

/-- The lowest-numbered engine that satisfies a test. -/
theorem find_lowest_engine {P : EngineId → Bool} {e : EngineId} (h : P e = true) (hl : ∀ f, f < e → P f = false) :
    allEngines.find? P = some e :=
  find_first (by decide) (mem_allEngines e) h hl

theorem find_no_port {P : Port → Bool} (h : ∀ q, P q = false) : allPorts.find? P = none := by
  simp [List.find?_eq_none, h]

theorem portOf?_val (p : Port) : portOf? p.val = some p := by
  simp [portOf?]

theorem portOf?_eq_of_val {n : Nat} {p : Port} (h : n = p.val) : portOf? n = some p := by
  rw [h, portOf?_val]

theorem portOf?_none {n : Nat} (h : 48 ≤ n) : portOf? n = none := by
  simp [portOf?]; omega

/-- A port number names its port. -/
theorem portOf?_some {n : Nat} {p : Port} (h : portOf? n = some p) : n = p.val := by
  unfold portOf? at h
  split at h
  · simpa using (congrArg Fin.val (Option.some.inj h))
  · cases h

/-! ### Two bytes of a generation -/

theorem lowByte_eq (g : BitVec 16) : lowByte g.toNat = g.setWidth 8 := by
  apply BitVec.eq_of_toNat_eq; simp [lowByte, byte]

theorem highByte_eq (g : BitVec 16) : highByte g.toNat = (g >>> 8).setWidth 8 := by
  apply BitVec.eq_of_toNat_eq; simp [highByte, byte, Nat.shiftRight_eq_div_pow]

/-! ### A command transaction that is taken -/

/-- With the part not BUSY and the Error Slot not JAMMED, a command transaction is decoded and carried out. -/
theorem commandWrite_taken {s : State} (h : s.takesHost) (bytes : List Byte) :
    commandWrite bytes s = carryOut (decodeCommand s.page bytes) { s with transfer := none } := by
  obtain ⟨h1, h2⟩ := h
  simp [commandWrite, State.judge, State.inReset, h1, h2]

/-- With the part not BUSY, a command that passes the jam check is decoded and carried out. -/
theorem commandWrite_passes {s : State} (h : s.busy = none) {bytes : List Byte} (hb : passesJam bytes = true) :
    commandWrite bytes s = carryOut (decodeCommand s.page bytes) { s with transfer := none } := by
  simp [commandWrite, State.judge, State.inReset, h, hb]

/-- Every command of the host is a command transaction with its bytes. -/
theorem exec_command {c : Instr} {bytes : List Byte} (h : commandBytes c = some bytes) (s : State) :
    exec c s = .next (commandWrite bytes s) := by
  cases c <;> simp only [commandBytes, Option.some.injEq, reduceCtorEq] at h <;> subst h <;> rfl

end Sys2Proof.Machine
end

