-- ==== Sys2Proof/Laws/Pins.lean ====
section
/-! SUPPORT. What the pins' own field is to the rest of the part: the operations of data bytes neither read nor write it.
What each edge does. -/

namespace Sys2Proof.Machine

/-- The state with another serial side. -/
def State.withSerial (s : State) (x : Serial) : State := { s with serial := x }

@[simp] theorem State.serial_withSerial (s : State) (x : Serial) : (s.withSerial x).serial = x := rfl

@[simp] theorem State.transfer_withSerial (s : State) (x : Serial) : (s.withSerial x).transfer = s.transfer := rfl

@[simp] theorem State.withSerial_self (s : State) : s.withSerial s.serial = s := rfl

@[simp] theorem State.withSerial_withSerial (s : State) (x y : Serial) :
    (s.withSerial x).withSerial y = s.withSerial y := rfl

/-- The state with another serial side and another data transaction under way. -/
def State.withUnderWay (s : State) (x : Serial) (t : Option Transfer) : State := { s with serial := x, transfer := t }

/-! ### Operations that neither read nor write the transaction under way -/

/-- An operation that neither reads nor writes the serial side and the data transaction under way. -/
def UnderWayBlind (f : State → State) : Prop := ∀ s x t, f (s.withUnderWay x t) = (f s).withUnderWay x t

/-- An operation that neither reads nor writes the serial side. -/
def SerialBlind (f : State → State) : Prop := ∀ s x, f (s.withSerial x) = (f s).withSerial x

theorem UnderWayBlind.serial {f : State → State} (h : UnderWayBlind f) (s : State) : (f s).serial = s.serial := by
  have e : f s = (f s).withUnderWay s.serial s.transfer := h s s.serial s.transfer
  rw [e]
  rfl

theorem UnderWayBlind.transfer {f : State → State} (h : UnderWayBlind f) (s : State) : (f s).transfer = s.transfer := by
  have e : f s = (f s).withUnderWay s.serial s.transfer := h s s.serial s.transfer
  rw [e]
  rfl

theorem UnderWayBlind.serialBlind {f : State → State} (h : UnderWayBlind f) : SerialBlind f := fun s x => by
  rw [show s.withSerial x = s.withUnderWay x s.transfer from rfl, h]
  conv_lhs => rw [← h.transfer s]
  rfl

theorem SerialBlind.serial {f : State → State} (h : SerialBlind f) (s : State) : (f s).serial = s.serial := by
  have e : f s = (f s).withSerial s.serial := h s s.serial
  rw [e]
  rfl

theorem underWayBlind_commit (p : Port) (r : LineRecord) : UnderWayBlind (State.commit · p r) := fun s x t => by
  show (s.withUnderWay x t).commit p r = (s.commit p r).withUnderWay x t
  unfold State.commit
  simp only [show (s.withUnderWay x t).port p = s.port p from rfl]
  split <;> rfl

theorem underWayBlind_apply (p : Port) (u : Update) : UnderWayBlind (State.apply · p u) :=
  fun s x t => underWayBlind_commit p ((s.port p).updated s.settings u) s x t

theorem underWayBlind_applyWaiting (p : Port) : UnderWayBlind (State.applyWaiting · p) := fun s x t => by
  have key (s0 : State) (u : Update) : (s0.withUnderWay x t).apply p u = (s0.apply p u).withUnderWay x t :=
    underWayBlind_apply p u s0 x t
  simp only [State.applyWaiting, show (s.withUnderWay x t).port p = s.port p from rfl,
    show ∀ q, (s.withUnderWay x t).setPort p q = (s.setPort p q).withUnderWay x t from fun _ => rfl]
  split <;> simp only [key]

theorem underWayBlind_applyAllWaiting : UnderWayBlind State.applyAllWaiting := fun s x t => by
  unfold State.applyAllWaiting
  induction allPorts generalizing s with
  | nil => rfl
  | cons p l ih =>
    rw [List.foldl_cons, show (s.withUnderWay x t).applyWaiting p = (s.applyWaiting p).withUnderWay x t from
      underWayBlind_applyWaiting p s x t, ih]
    rfl

theorem underWayBlind_finishSuspendedReset : UnderWayBlind State.finishSuspendedReset := fun s x t => by
  unfold State.finishSuspendedReset
  simp only [show (s.withUnderWay x t).busy = s.busy from rfl]
  split <;> rfl

theorem underWayBlind_endBind : UnderWayBlind State.endBind := fun s x t => by
  show State.finishSuspendedReset (State.applyAllWaiting
    (({ s with bind := none, cursor := s.saved.getD s.cursor, saved := none } : State).withUnderWay x t)) = _
  rw [underWayBlind_applyAllWaiting, underWayBlind_finishSuspendedReset]
  rfl

/-- The counting of an access, with the end of the bind it may bring. -/
theorem underWayBlind_countAccess : UnderWayBlind State.countAccess := fun s x t => by
  unfold State.countAccess
  simp only [show (s.withUnderWay x t).bind = s.bind from rfl]
  split
  · rfl
  · split
    · exact underWayBlind_endBind s x t
    · rfl

theorem underWayBlind_walkCursor : UnderWayBlind State.walkCursor := fun _ _ _ => rfl

/-! ### The parts of a data transaction do not touch the serial side -/

theorem State.raiseOnce_withSerial (s : State) (x : Serial) (t : Transfer) (c : Cause) (p : Option Port) :
    (s.withSerial x).raiseOnce t c p = (s.raiseOnce t c p).withSerial x := by
  unfold State.raiseOnce
  split <;> rfl

theorem serialBlind_writeByteEffect (t : Transfer) (b : Byte) : SerialBlind (writeByteEffect t b) := fun s x => by
  unfold writeByteEffect
  simp only [show (s.withSerial x).writeEffect b = s.writeEffect b from rfl]
  split
  · exact s.raiseOnce_withSerial x t _ _
  · exact s.raiseOnce_withSerial x t _ _
  · rfl
  · rfl
  · rfl
  · exact (underWayBlind_commit _ _).serialBlind s x
  · exact (underWayBlind_commit _ _).serialBlind s x
  · exact (underWayBlind_commit _ _).serialBlind s x

theorem serialBlind_writeByteAs (t : Transfer) (b : Byte) : SerialBlind (writeByteAs t b) := fun s x => by
  unfold writeByteAs
  split
  · rw [serialBlind_writeByteEffect, underWayBlind_walkCursor.serialBlind, underWayBlind_countAccess.serialBlind]
  · rw [State.raiseOnce_withSerial, underWayBlind_countAccess.serialBlind]
  · exact underWayBlind_countAccess.serialBlind s x
  · rfl

theorem serialBlind_readByteAs (t : Transfer) : SerialBlind (readByteAs t) := fun s x => by
  unfold readByteAs
  split
  · exact underWayBlind_countAccess.serialBlind (takeReadByte t s) x
  · rw [State.raiseOnce_withSerial]
    exact underWayBlind_countAccess.serialBlind ((s.raiseOnce t .busy none).shiftOut 0) x
  · exact underWayBlind_countAccess.serialBlind (s.shiftOut 0) x
  · rfl

/-- A part of a DATA-WRITE neither reads nor writes the serial side. -/
theorem serialBlind_dataWritePart (part : WritePart) : SerialBlind (dataWritePart part) := fun s x => by
  cases part with
  | control => rfl
  | byte b =>
    simp only [dataWritePart, dataWriteByte, State.transfer_withSerial]
    split
    · split
      · exact serialBlind_writeByteAs _ b s x
      · rfl
    · rfl

/-- A data byte of a DATA-READ begins without touching the serial side. -/
theorem serialBlind_fetchReadByte : SerialBlind fetchReadByte := fun s x => by
  unfold fetchReadByte
  simp only [State.transfer_withSerial]
  split
  · split <;> rfl
  · rfl

/-- A part of a DATA-READ neither reads nor writes the serial side. -/
theorem serialBlind_dataReadPart (part : ReadPart) : SerialBlind (dataReadPart part) := fun s x => by
  cases part with
  | control => rfl
  | fetch => exact serialBlind_fetchReadByte s x
  | byte =>
    simp only [dataReadPart, dataReadByte, State.transfer_withSerial]
    split
    · split
      · rfl
      · exact serialBlind_readByteAs _ s x
    · rfl

/-- The data transaction of a byte written stays a DATA-WRITE. -/
theorem writeByteAs_write {t : Transfer} (h : t.write = true) (b : Byte) {s : State} (hs : s.transfer = some t) :
    ∃ t', (writeByteAs t b s).transfer = some t' ∧ t'.write = true := by
  have raised (c : Cause) (p : Option Port) : ∃ t', (s.raiseOnce t c p).transfer = some t' ∧ t'.write = true := by
    unfold State.raiseOnce
    split
    · exact ⟨t, hs, h⟩
    · exact ⟨_, rfl, h⟩
  have effect : ∃ t', (writeByteEffect t b s).transfer = some t' ∧ t'.write = true := by
    unfold writeByteEffect
    split
    · exact raised _ _
    · exact raised _ _
    · exact ⟨t, hs, h⟩
    · exact ⟨t, hs, h⟩
    · exact ⟨t, hs, h⟩
    all_goals exact ⟨t, ((underWayBlind_commit _ _).transfer s).trans hs, h⟩
  unfold writeByteAs
  split
  · rw [underWayBlind_countAccess.transfer]; exact effect
  · rw [underWayBlind_countAccess.transfer]; exact raised _ _
  · rw [underWayBlind_countAccess.transfer]; exact ⟨t, hs, h⟩
  · exact ⟨t, hs, h⟩

/-! ### What the edges do -/

/-- A byte sampled whole changes no more of the serial side than the image. -/
theorem lastByteSampled_serial (s : State) :
    (lastByteSampled s).serial = { s.serial with image := (lastByteSampled s).serial.image } := by
  have ended (u : State) : u.asEnded.serial = u.serial := by unfold State.asEnded; split <;> rfl
  unfold lastByteSampled
  split
  · rfl
  · split
    · cases transactionKind _ <;> simp only [controlSampled, takeImage, ended, dataWritePart, dataReadPart, beginTransfer]
    · cases transactionKind _ <;>
        simp only [byteSampled, shiftImageByte, (serialBlind_dataWritePart _).serial, (serialBlind_dataReadPart _).serial]

/-- One bit clocked: SCK rises and falls. -/
def State.clockBit (s : State) (b : Bool) : State := (s.sckRises b).sckFalls

/-- A bit that leaves the byte cut short only joins the bits sampled, and SDO changes to the bit after it. -/
theorem clockBit_cut {s : State} (h1 : s.serial.selected = true) (h2 : s.serial.sck = false)
    (h3 : s.serial.bits.length < 7) (b : Bool) :
    s.clockBit b = s.withSerial
      { s.serial with
        bits := s.serial.bits ++ [b]
        out := s.serial.out ++ (s.sdoByte?.map fun v => v.getLsbD (6 - s.serial.bits.length)).toList } := by
  have e : s.sckRises b = s.withSerial { s.serial with sck := true, bits := s.serial.bits ++ [b] } := by
    simp [State.sckRises, h1, h2, Serial.sampled, h3, State.withSerial]
  have e2 : 7 - (s.serial.bits.length + 1) = 6 - s.serial.bits.length := by omega
  rw [State.clockBit, e]
  simp only [State.sckFalls, State.serial_withSerial, h1]
  simp [State.withSerial, h2, e2]
  rfl

/-- The eighth bit makes the byte whole, and with the falling of SCK after it the next one begins. -/
theorem clockBit_whole {s : State} (h1 : s.serial.selected = true) (h2 : s.serial.sck = false)
    (h3 : s.serial.bits.length = 7) (b : Bool) :
    let u := fetchReadByte (lastByteSampled (s.withSerial
      { s.serial with
        sck := true, bytes := s.serial.bytes ++ [byteOfBits (s.serial.bits ++ [b])], bits := [] }))
    s.clockBit b = u.withSerial
      { u.serial with sck := false, out := u.serial.out ++ (u.sdoByte?.map fun v => v.getLsbD 7).toList } := by
  intro u
  let x : Serial :=
    { s.serial with sck := true, bytes := s.serial.bytes ++ [byteOfBits (s.serial.bits ++ [b])], bits := [] }
  have e : s.sckRises b = lastByteSampled (s.withSerial x) := by
    simp [State.sckRises, h1, h2, Serial.sampled, h3, x, State.withSerial]
  have eu : u.serial = (lastByteSampled (s.withSerial x)).serial := serialBlind_fetchReadByte.serial _
  have ex := lastByteSampled_serial (s.withSerial x)
  rw [← eu] at ex
  have hu1 : u.serial.selected = true := by rw [ex]; exact h1
  have hu2 : u.serial.sck = true := by rw [ex]; rfl
  have hu3 : u.serial.bits = [] := by rw [ex]; rfl
  rw [State.clockBit, e]
  simp only [State.sckFalls, ← eu, hu1, hu2, hu3]
  simp [State.withSerial, u, x]

/-- Bits that leave the byte cut short. Where SDO has no byte to shift it stays as it is. -/
theorem clockBits_cut {s : State} (h1 : s.serial.selected = true) (h2 : s.serial.sck = false) (bits : List Bool)
    (h3 : s.serial.bits.length + bits.length < 8) :
    ∃ out, bits.foldl State.clockBit s = s.withSerial { s.serial with bits := s.serial.bits ++ bits, out := out }
      ∧ (s.sdoByte? = none → out = s.serial.out) := by
  induction bits generalizing s with
  | nil => exact ⟨s.serial.out, by rw [List.append_nil]; rfl, fun _ => rfl⟩
  | cons b l ih =>
    have h3' : s.serial.bits.length + l.length + 1 < 8 := by simpa [Nat.add_assoc] using h3
    rw [List.foldl_cons, clockBit_cut h1 h2 (by omega) b]
    obtain ⟨out, e, ho⟩ := ih (s := s.withSerial
      { s.serial with
        bits := s.serial.bits ++ [b]
        out := s.serial.out ++ (s.sdoByte?.map fun v => v.getLsbD (6 - s.serial.bits.length)).toList }) h1 h2
      (by rw [State.serial_withSerial, List.length_append, List.length_singleton]; omega)
    refine ⟨out, ?_, fun hn => ?_⟩
    · rw [e]; simp [State.withSerial]
    · rw [ho (by exact hn)]; simp [hn]

theorem byteOfBits_bitsOfByte (b : Byte) : byteOfBits (bitsOfByte b) = b := by revert b; decide +kernel

theorem bitsOfByte_eq (b : Byte) :
    bitsOfByte b
      = [b.getLsbD 7, b.getLsbD 6, b.getLsbD 5, b.getLsbD 4, b.getLsbD 3, b.getLsbD 2, b.getLsbD 1] ++ [b.getLsbD 0] :=
  rfl

/-- Between two bytes of a transaction: these have been sampled whole, and no bit of the next one. -/
structure Serial.AtByte (x : Serial) (bytes : List Byte) : Prop where
  selected : x.selected = true
  sck : x.sck = false
  bits : x.bits = []
  bytes : x.bytes = bytes

/-- Eight bits clocked are a byte sampled whole, and the next one begun. -/
theorem clockByte {s : State} {bs : List Byte} (h : s.serial.AtByte bs) (b : Byte) : ∃ y z : Serial,
    let u := fetchReadByte (lastByteSampled (s.withSerial y))
    (bitsOfByte b).foldl State.clockBit s = u.withSerial z
    ∧ y.bytes = bs ++ [b] ∧ y.image = s.serial.image ∧ y.ended = s.serial.ended ∧ z.AtByte (bs ++ [b])
    ∧ z.image = u.serial.image ∧ z.ended = s.serial.ended
    ∧ (s.sdoByte? = none → u.sdoByte? = none → z.out = s.serial.out) := by
  obtain ⟨out, e, ho⟩ := clockBits_cut h.selected h.sck
    [b.getLsbD 7, b.getLsbD 6, b.getLsbD 5, b.getLsbD 4, b.getLsbD 3, b.getLsbD 2, b.getLsbD 1] (by rw [h.bits]; simp)
  let y : Serial := { s.serial with sck := true, bytes := bs ++ [b], bits := [], out := out }
  let u := fetchReadByte (lastByteSampled (s.withSerial y))
  have eu : u.serial = { y with image := u.serial.image } := by
    have e1 : u.serial = (lastByteSampled (s.withSerial y)).serial := serialBlind_fetchReadByte.serial _
    rw [e1]; exact lastByteSampled_serial _
  refine ⟨y, { u.serial with sck := false, out := u.serial.out ++ (u.sdoByte?.map fun v => v.getLsbD 7).toList },
    ?_, rfl, rfl, rfl, ⟨?_, rfl, ?_, ?_⟩, rfl, ?_, ?_⟩
  · rw [bitsOfByte_eq, List.foldl_append, e, List.foldl_cons, List.foldl_nil, clockBit_whole]
    · simp only [State.serial_withSerial, h.bits, h.bytes, List.nil_append, State.withSerial_withSerial]
      rw [← bitsOfByte_eq, byteOfBits_bitsOfByte]
    · exact h.selected
    · exact h.sck
    · simp [h.bits]
  · show u.serial.selected = true
    rw [eu]; exact h.selected
  · show u.serial.bits = []
    rw [eu]
  · show u.serial.bytes = bs ++ [b]
    rw [eu]
  · show u.serial.ended = s.serial.ended
    rw [eu]
  · intro h1 h2
    show u.serial.out ++ _ = _
    change u.sdoByte? = none at h2
    rw [h2, eu]
    simp [y, ho h1]

theorem lastByteSampled_data (s : State) (control : Byte) (bytes : List Byte) (b : Byte)
    (h : s.serial.bytes = control :: bytes ++ [b]) :
    lastByteSampled s = byteSampled (transactionKind control) bytes.length b s := by
  unfold lastByteSampled
  rw [h]
  simp

theorem lastByteSampled_control (s : State) (control : Byte) (h : s.serial.bytes = [control]) :
    lastByteSampled s = controlSampled (transactionKind control) s := by
  unfold lastByteSampled
  rw [h]
  simp

theorem fetch_none {s : State} (h : s.transfer = none) : fetchReadByte s = s := by unfold fetchReadByte; rw [h]

theorem fetch_write {s : State} {t : Transfer} (h : s.transfer = some t) (hw : t.write = true) : fetchReadByte s = s := by
  unfold fetchReadByte; rw [h]; simp [hw]

theorem sdoByte_none {s : State} {control : Byte} {bytes : List Byte} (h : s.serial.bytes = control :: bytes)
    (hk : transactionKind control = .commandWrite ∨ transactionKind control = .dataWrite) : s.sdoByte? = none := by
  unfold State.sdoByte?
  rw [h]
  rcases hk with hk | hk <;> simp [hk]

/-- The bytes of a COMMAND-WRITE are collected, and nothing else happens. -/
theorem commandBytes_run {s : State} {control : Byte} {bs : List Byte} (h : s.serial.AtByte (control :: bs))
    (hk : transactionKind control = .commandWrite) (ht : s.transfer = none) (bytes : List Byte) : ∃ z : Serial,
    (bytes.flatMap bitsOfByte).foldl State.clockBit s = s.withSerial z
    ∧ z.AtByte (control :: bs ++ bytes) ∧ z.out = s.serial.out ∧ z.ended = s.serial.ended := by
  induction bytes generalizing s bs with
  | nil => exact ⟨s.serial, rfl, by simpa using h, rfl, rfl⟩
  | cons b l ih =>
    rw [List.flatMap_cons, List.foldl_append]
    obtain ⟨y, z, e, hy1, hy2, hy3, hz1, hz2, hz3, hz4⟩ := clockByte h b
    have eu : fetchReadByte (lastByteSampled (s.withSerial y)) = s.withSerial y := by
      rw [lastByteSampled_data _ control bs b hy1, hk]
      exact fetch_none ht
    rw [eu] at e hz4
    rw [e]
    obtain ⟨z', e', h1, h2, h3⟩ := ih (s := (s.withSerial y).withSerial z) (bs := bs ++ [b]) hz1 ht
    refine ⟨z', e', by simpa using h1, h2.trans ?_, h3.trans hz3⟩
    exact hz4 (sdoByte_none h.bytes (.inl hk)) (sdoByte_none (s := s.withSerial y) hy1 (.inl hk))

theorem runAll_dataWrite_withSerial (bytes : List Byte) (s : State) (x : Serial) :
    (s.withSerial x).runAll (bytes.map fun b => .dataWrite (.byte b))
      = (s.runAll (bytes.map fun b => .dataWrite (.byte b))).withSerial x := by
  induction bytes generalizing s with
  | nil => rfl
  | cons b l ih => exact (congrArg (fun v => State.runAll v _) (serialBlind_dataWritePart (.byte b) s x)).trans (ih _)

/-- The bytes of a DATA-WRITE are written one after another. -/
theorem dataWrite_run {s : State} {control : Byte} {bs : List Byte} (h : s.serial.AtByte (control :: bs))
    (hk : transactionKind control = .dataWrite) {t : Transfer} (ht : s.transfer = some t) (hw : t.write = true)
    (bytes : List Byte) : ∃ z : Serial,
    (bytes.flatMap bitsOfByte).foldl State.clockBit s
      = (s.runAll (bytes.map fun b => .dataWrite (.byte b))).withSerial z
    ∧ z.AtByte (control :: bs ++ bytes) := by
  induction bytes generalizing s bs t with
  | nil => exact ⟨s.serial, rfl, by simpa using h⟩
  | cons b l ih =>
    rw [List.flatMap_cons, List.foldl_append]
    obtain ⟨y, z, e, hy1, hy2, hy3, hz1, hz2, hz3, hz4⟩ := clockByte h b
    have hd : dataWritePart (.byte b) s = writeByteAs t b s := by simp [dataWritePart, dataWriteByte, ht, hw]
    obtain ⟨t', ht', hw'⟩ := writeByteAs_write hw b ht
    have eu : fetchReadByte (lastByteSampled (s.withSerial y)) = (writeByteAs t b s).withSerial y := by
      rw [lastByteSampled_data _ control bs b hy1, hk]
      show fetchReadByte (dataWritePart (.byte b) (s.withSerial y)) = _
      rw [serialBlind_dataWritePart, hd]
      exact fetch_write (t := t') ht' hw'
    rw [eu] at e
    rw [e]
    obtain ⟨z', e', h1⟩ := ih (s := ((writeByteAs t b s).withSerial y).withSerial z) (bs := bs ++ [b]) hz1 ht' hw'
    refine ⟨z', ?_, by simpa using h1⟩
    rw [e', State.withSerial_withSerial, runAll_dataWrite_withSerial, State.withSerial_withSerial, ← hd]
    rfl

theorem runAll_dataRead_withSerial (bytes : List Byte) (s : State) (x : Serial) :
    (s.withSerial x).runAll (bytes.flatMap fun _ => [.dataRead .fetch, .dataRead .byte])
      = (s.runAll (bytes.flatMap fun _ => [.dataRead .fetch, .dataRead .byte])).withSerial x := by
  induction bytes generalizing s with
  | nil => rfl
  | cons b l ih =>
    have e : dataReadPart .byte (dataReadPart .fetch (s.withSerial x))
        = (dataReadPart .byte (dataReadPart .fetch s)).withSerial x := by
      rw [serialBlind_dataReadPart, serialBlind_dataReadPart]
    exact (congrArg (fun v => State.runAll v (l.flatMap fun _ => [.dataRead .fetch, .dataRead .byte])) e).trans (ih _)

/-- The bytes of a DATA-READ are fetched and taken one after another; with the last one the next has begun. -/
theorem dataRead_run {s r : State} {control : Byte} {bs : List Byte} (h : s.serial.AtByte (control :: bs))
    (hk : transactionKind control = .dataRead) (hr : s = (fetchReadByte r).withSerial s.serial)
    (bytes : List Byte) : ∃ z : Serial,
    (bytes.flatMap bitsOfByte).foldl State.clockBit s
      = (fetchReadByte (r.runAll (bytes.flatMap fun _ => [.dataRead .fetch, .dataRead .byte]))).withSerial z
    ∧ z.AtByte (control :: bs ++ bytes) := by
  induction bytes generalizing s r bs with
  | nil => exact ⟨s.serial, hr, by simpa using h⟩
  | cons b l ih =>
    rw [List.flatMap_cons, List.foldl_append]
    obtain ⟨y, z, e, hy1, hy2, hy3, hz1, hz2, hz3, hz4⟩ := clockByte h b
    have eu : fetchReadByte (lastByteSampled (s.withSerial y))
        = (fetchReadByte (dataReadPart .byte (dataReadPart .fetch r))).withSerial y := by
      rw [lastByteSampled_data _ control bs b hy1, hk]
      show fetchReadByte (dataReadPart .byte (s.withSerial y)) = _
      rw [serialBlind_dataReadPart, serialBlind_fetchReadByte, hr, serialBlind_dataReadPart, serialBlind_fetchReadByte]
      rfl
    rw [eu] at e
    rw [e]
    obtain ⟨z', e', h1⟩ := ih (s := ((fetchReadByte (dataReadPart .byte (dataReadPart .fetch r))).withSerial y).withSerial z)
      (r := dataReadPart .byte (dataReadPart .fetch r)) (bs := bs ++ [b]) hz1 rfl
    exact ⟨z', e', by simpa using h1⟩

/-- The bytes of the image of a STATUS-READ are shifted out one after another. -/
theorem statusRead_run {s : State} {control : Byte} {bs : List Byte} (h : s.serial.AtByte (control :: bs))
    (hk : transactionKind control = .statusRead) (ht : s.transfer = none) (bytes : List Byte) : ∃ z : Serial,
    (bytes.flatMap bitsOfByte).foldl State.clockBit s
      = ({ s with
          sdo := if bytes = [] then s.sdo else (if bs = [] then [] else s.sdo)
            ++ (List.range bytes.length).map fun k => s.serial.imageByte (bs.length + k) } : State).withSerial z
    ∧ z.AtByte (control :: bs ++ bytes) ∧ z.image = s.serial.image := by
  induction bytes generalizing s bs with
  | nil => exact ⟨s.serial, rfl, by simpa using h, rfl⟩
  | cons b l ih =>
    rw [List.flatMap_cons, List.foldl_append]
    obtain ⟨y, z, e, hy1, hy2, hy3, hz1, hz2, hz3, hz4⟩ := clockByte h b
    have eu : fetchReadByte (lastByteSampled (s.withSerial y)) = shiftImageByte bs.length (s.withSerial y) := by
      rw [lastByteSampled_data _ control bs b hy1, hk]
      exact fetch_none ht
    rw [eu] at e hz2
    have hz2' : z.image = s.serial.image := hz2.trans hy2
    rw [e]
    obtain ⟨z', e', h1, h2⟩ := ih (s := (shiftImageByte bs.length (s.withSerial y)).withSerial z) (bs := bs ++ [b]) hz1 ht
    refine ⟨z', ?_, by simpa using h1, h2.trans hz2'⟩
    rw [e']
    have hi : ∀ k, z.imageByte k = s.serial.imageByte k := fun k => by simp [Serial.imageByte, hz2']
    have hi' : ∀ k, y.imageByte k = s.serial.imageByte k := fun k => by simp [Serial.imageByte, hy2]
    simp only [State.withSerial, shiftImageByte, hi, hi']
    congr 1
    rcases l with _ | ⟨c, l⟩
    · by_cases hb : bs = [] <;> simp [hb]
    · rw [List.length_cons (a := b), List.range_succ_eq_map]
      by_cases hb : bs = []
      · subst hb; simp; intros; congr 1; omega
      · simp [hb]; intros; congr 1; omega

theorem statusBytes_eq (s : State) (n : Nat) : statusBytes s n = (List.range n).map fun k => (statusImage s).getD k 0 := by
  apply List.ext_getElem
  · simp [statusBytes]; omega
  · intro k h1 h2
    simp only [statusBytes, List.getElem_map, List.getElem_range, List.getElem_append, List.length_take]
    simp at h2
    split
    · next h => rw [List.getElem_take, List.getD_eq_getElem]
    · next h => rw [List.getElem_replicate, List.getD_eq_default]; omega

theorem bits_of_bytesAndCut : ∀ (bits : List Bool), 
    bits = (bytesAndCut bits).1.flatMap bitsOfByte ++ (bytesAndCut bits).2 ∧ (bytesAndCut bits).2.length < 8
  | a :: b :: c :: d :: e :: f :: g :: h :: rest => by
    have ih := bits_of_bytesAndCut rest
    have hb : bitsOfByte (byteOfBits [a, b, c, d, e, f, g, h]) = [a, b, c, d, e, f, g, h] := by
      revert a b c d e f g h; decide +kernel
    simp only [bytesAndCut, List.flatMap_cons, hb]
    refine ⟨?_, ih.2⟩
    conv_lhs => rw [ih.1]
    simp
  | [] => by simp [bytesAndCut]
  | [_] => by simp [bytesAndCut]
  | [_, _] => by simp [bytesAndCut]
  | [_, _, _] => by simp [bytesAndCut]
  | [_, _, _, _] => by simp [bytesAndCut]
  | [_, _, _, _, _] => by simp [bytesAndCut]
  | [_, _, _, _, _, _] => by simp [bytesAndCut]
  | [_, _, _, _, _, _, _] => by simp [bytesAndCut]

theorem edges_transaction (s : State) (bits : List Bool) :
    s.edges (transactionEdges bits) = (bits.foldl State.clockBit s.csnFalls).csnRises := by
  have h : ∀ (l : List Bool) (u : State), (l.flatMap fun b => [.sckRises b, .sckFalls]).foldl State.edge u = l.foldl State.clockBit u := by
    intro l
    induction l with
    | nil => intro u; rfl
    | cons b l ih => intro u; rw [List.flatMap_cons, List.foldl_append, List.foldl_cons]; exact ih _
  simp only [State.edges, transactionEdges, List.cons_append, List.foldl_cons, List.foldl_append, List.foldl_nil]
  rw [h]; rfl

theorem exec_hostCommand (page1 : Bool) (bytes : List Byte) (s : State) :
    exec (hostCommand page1 bytes) s = .next (commandWrite bytes s) := by
  rcases bytes with _ | ⟨op, operands⟩
  · rfl
  · have hop : op = BitVec.ofNat 8 op.toNat := by simp
    unfold hostCommand
    cases page1 <;> dsimp only <;> split <;> rename_i h <;> (try rw [hop, h]) <;> rfl


end Sys2Proof.Machine
end

