-- ==== Sys2Proof/Laws/Scheduler.lean ====
section
/-! SUPPORT. What the shared operations of the Probe Scheduler leave: lending, returning, the queue's positions, and the
entry of a port. -/

namespace Sys2Proof.Machine

/-! ### Lending and returning -/

/-- LEND of a port that is not LENT. -/
theorem PortMachine.lend_eq {m : PortMachine} (h : m.f.mode ≠ .lent) : m.lend = .of m.lentOut [.halt, .detach] := by
  obtain ⟨⟨mode⟩⟩ := m
  cases mode <;> simp_all [PortMachine.lend, PortMachine.lentOut, PortMachine.stoppedIn, PortMachine.leaveAttempt]

/-- RETURN of a LENT port. -/
theorem PortMachine.returnPort_eq {m : PortMachine} (h : m.f.mode = .lent) (c : TcContext) (o : Ending) :
    m.returnPort c o =
      .of (m.returned (decide (o = .complete)) c.offer c.ceiling c.listenMs).1
        (m.returned (decide (o = .complete)) c.offer c.ceiling c.listenMs).2 := by
  obtain ⟨⟨mode, rm⟩⟩ := m
  simp only at h
  subst h
  cases rm <;>
    simp [PortMachine.returnPort, PortMachine.returned, PortMachine.darkRule, PortMachine.advertise,
      PortMachine.advertised, PortMachine.offered, PortMachine.hold, PortMachine.leaveAttempt, PortMachine.toMode,
      PortMachine.heldFor, PortMachine.listening, PortMachine.stoppedIn, ReturnMode.mode] <;>
    split_ifs <;> simp_all [TcEffect.of]

@[simp] theorem PortMachine.returned_skew (m : PortMachine) (complete : Bool) (offer : RateSet) (ceiling : Option Rate)
    (listenMs : Nat) : (m.returned complete offer ceiling listenMs).1.f.skew = m.f.skew := by
  unfold PortMachine.returned
  cases m.f.returnMode <;> simp only [PortMachine.advertised] <;> split_ifs <;>
    simp [PortMachine.stoppedIn, PortMachine.heldFor, PortMachine.listening]

@[simp] theorem PortMachine.lentOut_skew (m : PortMachine) : m.lentOut.f.skew = m.f.skew := rfl

variable (s : State)

/-- An ending without reconciliation leaves its port returned, with status ABORTED, as one update (R82). -/
theorem State.endAborted_leaves (host : Bool) (p : Port) (cause : Ending) (skipped : PairSet)
    (hm : (s.port p).tc.f.mode = .lent) (hc : cause ≠ .complete) :
    EventLeaves host (if host then modeFields else []) p
      { s.port p with
        tc := ((s.port p).tc.returned false (s.port p).record.offer (s.port p).record.ceiling s.settings.listen).1
        sched := { status := .aborted, outcome := some { cause := cause, skipped := skipped } } }
      ((s.port p).tc.returned false (s.port p).record.offer (s.port p).record.ceiling s.settings.listen).2
      s (s.endAborted host p cause skipped) := by
  unfold State.endAborted
  rw [PortMachine.returnPort_eq hm, decide_eq_false hc]
  exact State.carryingEvent_leaves s host p _ _ _ _ (by cases host <;> simp [modeFields])
    (PortMachine.returned_skew _ _ _ _ _)

/-- A power notice stops an engine in ATTACHING or SWEEPING and raises POWER-ABORT (R83, R101). -/
theorem State.stopOnPower_running (p : Port) {e : EngineId} {r : Run}
    (h : (∃ wait, s.engine e = .attaching r wait) ∨ ∃ q n left table, s.engine e = .sweeping r q n left table) :
    s.stopOnPower p e =
      (s.report .powerAbort .event (some p)).setEngine e (.closing { r with completed := [] } .power) := by
  rcases h with ⟨w, h⟩ | ⟨q, n, l, t, h⟩ <;> simp only [State.stopOnPower, h, Engine.running, Engine.stop, if_true] <;> rfl

/-- A power notice leaves an engine in CLOSING as it is (R83). -/
theorem State.stopOnPower_closing (p : Port) {e : EngineId} {r : Run} {ending : Ending}
    (h : s.engine e = .closing r ending) : s.stopOnPower p e = s := by
  simp [State.stopOnPower, h, Engine.running]

/-- A run handed to an engine leaves its port LENT with status RUNNING, as one update (R75). -/
theorem State.lendTo_leaves (e : EngineId) (r : Run) (hm : (s.port r.port).tc.f.mode ≠ .lent) :
    EventLeaves false [] r.port
      { s.port r.port with
        tc := (s.port r.port).tc.lentOut
        sched := { (s.port r.port).sched with status := .running }
        powerNotice := false }
      [.halt, .detach] (s.assignEngine e (.attaching r detachWait)) (s.lendTo e r) := by
  unfold State.lendTo
  dsimp only
  rw [PortMachine.lend_eq hm]
  apply EventLeaves.of_modPort (f := fun x => { x with powerNotice := false }) (hf := rfl)
  have h := State.plainEvent_leaves
    ((s.assignEngine e (.attaching r detachWait)).modPort r.port fun x => { x with powerNotice := false }) false r.port
    (s.port r.port).tc.lentOut [.halt, .detach] { (s.port r.port).sched with status := .running } (by simp)
  simpa using h

/-! ### Engines -/

theorem State.idleEngine_of {s : State} {e : EngineId} (h : s.engine e = .idle)
    (hl : ∀ f, f < e → s.engine f ≠ .idle) : s.idleEngine = some e := by
  apply find_lowest_engine
  · simp [h, Engine.isIdle]
  · intro f hf
    have := hl f hf
    cases hh : s.engine f <;> simp_all [Engine.isIdle]

/-! ### The queue -/

/-- A queue with its URGENT entries in front, taken apart. -/
theorem urgentPart_append {u r : List Entry} (hu : ∀ x ∈ u, x.cls = .urgent) (hr : ∀ x ∈ r, x.cls = .routine) :
    urgentPart (u ++ r) = u ∧ routinePart (u ++ r) = r := by
  unfold urgentPart routinePart
  induction u with
  | nil =>
    cases r with
    | nil => simp
    | cons y r => simp [hr y (by simp)]
  | cons x u ih =>
    have := ih (fun y hy => hu y (by simp [hy]))
    simp [hu x (by simp), this.1, this.2]

/-- The entry of a port, where the queue holds one. -/
theorem find_entry {b a : List Entry} {x : Entry} {p : Port} (hx : x.port = p) (h : ∀ y ∈ b ++ a, y.port ≠ p) :
    (b ++ x :: a).find? (fun y => decide (y.port = p)) = some x := by
  rw [List.find?_append]
  have : b.find? (fun y => decide (y.port = p)) = none := by
    rw [List.find?_eq_none]
    intro y hy
    simpa using h y (by simp [hy])
  simp [this, hx]

/-- The entry of a port replaced in its place. -/
theorem map_entry {b a : List Entry} {x : Entry} {p : Port} (g : Entry → Entry) (hx : x.port = p)
    (h : ∀ y ∈ b ++ a, y.port ≠ p) :
    (b ++ x :: a).map (fun z => if z.port = p then g z else z) = b ++ g x :: a := by
  have key : ∀ l : List Entry, (∀ y ∈ l, y.port ≠ p) → l.map (fun z => if z.port = p then g z else z) = l := by
    intro l hl
    conv_rhs => rw [← List.map_id l]
    apply List.map_congr_left
    intro z hz
    simp [hl z hz]
  rw [List.map_append, List.map_cons, key b fun y hy => h y (by simp [hy]), key a fun y hy => h y (by simp [hy])]
  simp [hx]

theorem State.entryOf_none {s : State} {p : Port} (h : ∀ y ∈ s.queue, y.port ≠ p) : s.entryOf p = none := by
  simpa [State.entryOf, List.find?_eq_none] using h

/-! ### Pair sets -/

theorem completedSet_mem (l : List PairResult) (q : Pair) :
    (completedSet l).getLsbD q.index = true ↔ ∃ y ∈ l, y.pair = q := by
  have key : ∀ (l : List PairResult) (a : PairSet),
      (l.foldl (fun acc x => acc ||| pairBit x.pair) a).getLsbD q.index = true
        ↔ a.getLsbD q.index = true ∨ ∃ y ∈ l, y.pair = q := by
    intro l
    induction l with
    | nil => simp
    | cons x l ih =>
      intro a
      simp only [List.foldl_cons, ih, BitVec.getLsbD_or, Bool.or_eq_true, List.mem_cons, exists_eq_or_imp]
      have : (pairBit x.pair).getLsbD q.index = true ↔ x.pair = q := by
        cases x.pair <;> cases q <;> simp [pairBit, Pair.index]
      rw [this]
      tauto
  simpa [completedSet] using key l 0

/-- Two pair sets with the same pairs are equal. -/
theorem pairSet_ext {a b : PairSet} (h : ∀ q : Pair, a.getLsbD q.index = true ↔ b.getLsbD q.index = true) : a = b := by
  have h0 := h .a
  have h1 := h .b
  have h2 := h .c
  have h3 := h .d
  apply BitVec.eq_of_getLsbD_eq
  intro i hi
  have : i = 0 ∨ i = 1 ∨ i = 2 ∨ i = 3 := by omega
  rcases this with rfl | rfl | rfl | rfl
  · exact Bool.eq_iff_iff.2 h0
  · exact Bool.eq_iff_iff.2 h1
  · exact Bool.eq_iff_iff.2 h2
  · exact Bool.eq_iff_iff.2 h3

end Sys2Proof.Machine
end

