-- ==== Sys2Proof/Tests/Slice0.lean ====
section
/-! SUPPORT. The model's own tests: the checks on ill-formed commands, the codings against bytes written out from the
spec, one step of each command on a small state, and, for each obligation with hypotheses, states that meet them
(test_hyps_<name of the obligation>, each clause at a boundary of its range). -/

namespace Sys2Proof.Tests

open Sys2Proof.Machine

-- One theorem at a time: many kernel evaluations at once ask for more threads than the memory limit leaves.
set_option Elab.async false

/-! ## Small states -/

/-- The reset state with port 5 as given. -/
def five (x : PortState) : State := State.reset.setPort 5 x

/-- A port in a mode, with energy. -/
def inMode (m : Mode) : PortState :=
  { PortState.reset with tc := { PortMachine.reset with f := { TcFields.reset with mode := m, energy := true } } }

/-- A port in TRAIN or UP at a rate. -/
def atRate (m : Mode) (r : Rate) : PortState :=
  { inMode m with tc := { (inMode m).tc with f := { (inMode m).tc.f with resolved := some r } } }

/-- Port 5 in a mode with an inbox. -/
def boxed (m : Mode) (b : Inbox) : State := five { inMode m with inbox := b }

/-- Port 5 training at a rate with an inbox. -/
def boxedAt (r : Rate) (b : Inbox) : State := five { atRate .train r with inbox := b }

/-- Port 5 changed further. -/
def State.also (s : State) (f : PortState → PortState) : State := s.modPort 5 f

/-- Group 0 LINKED, its silence timer about to run out. -/
def linked0 (s : State) : State := s.setGroup 0 { s.group 0 with linked := true, silence := some 0 }

/-- A run of port 5 with pair A skipped. -/
def run5 : Run where
  port := 5
  cls := .routine
  requested := 0xF#4
  toSweep := 0xE#4
  skipped := 0x1#4
  latched := Settings.default.probe
  completed := []

/-- Port 5 LENT and RUNNING. -/
def lent5 : PortState := { inMode .lent with sched := { status := .running, outcome := none } }

/-- Engine 0 as given, with port 5 LENT to it. -/
def lentTo (x : Engine) : State := { (five lent5).setEngine 0 x with order := [0] }

/-- A queued entry. -/
def entry (p : Port) (c : ReqClass) : Entry := { port := p, cls := c, pairs := 0x3#4, suspended := none }

/-- A suspended entry of port 5, with pair B finished. -/
def suspended5 : Entry where
  port := 5
  cls := .routine
  pairs := 0xF#4
  suspended := some { completed := [{ pair := .b, results := [], more := false }], skipped := 0, latched := run5.latched }

/-- Port 5 LENT and SUSPENDED. -/
def waiting5 : State :=
  { five { lent5 with sched := { status := .suspended, outcome := none } } with queue := [suspended5] }

/-- Sixteen queued entries, ports 10 to 25. -/
def fullQueue : List Entry := ((allPorts.drop 10).take 16).map fun p => entry p .routine

/-- A bind with some accesses left. -/
def bound (n : Nat) (s : State) : State := { s with bind := some { left := n, timer := 0 } }

/-- A finding of pair A. -/
def findingA (k : Kind) (d : Nat) : Finding :=
  { pair := .a, kind := k, distance := d, amplitude := 30, runs := 1, state := .fresh }

/-- The state after a command. -/
def after (c : Instr) (s : State) : State :=
  match exec c s with
  | .next t => t
  | _ => s

/-! ## Ill-formed commands are refused by the check -/

theorem test_wellFormed_frame_with_a_payload_byte_missing :
    Instr.wellFormed (.frameReceive 0 [0x10#8, 1, 0]) = false ∧ Instr.wellFormed (.frameReceive 0 [0x10#8]) = false
      ∧ Instr.wellFormed (.frameReceive 0 [0x10#8, 1, 1, 0]) = true := by decide

theorem test_wellFormed_echo_out_of_range :
    Instr.wellFormed (.sweepCompletion 0 [⟨2047, 30, none⟩]) = false
      ∧ Instr.wellFormed (.sweepCompletion 0 [⟨9, 101, none⟩]) = false
      ∧ Instr.wellFormed (.sweepCompletion 0 [⟨9, -101, none⟩]) = false
      ∧ Instr.wellFormed (.sweepCompletion 0 [⟨9, 30, some (.a, 101)⟩]) = false
      ∧ Instr.wellFormed (.sweepCompletion 0 [⟨2046, -100, some (.a, 100)⟩]) = true := by decide

theorem test_wellFormed_echoes_out_of_order :
    Instr.wellFormed (.sweepCompletion 0 [⟨10, 30, none⟩, ⟨9, 30, none⟩]) = false
      ∧ Instr.wellFormed (.sweepCompletion 0 [⟨9, 30, none⟩, ⟨10, 30, none⟩]) = true := by decide

theorem test_wellFormed_undecoded_opcode :
    Instr.wellFormed (.undecodedCommandWrite [0x01#8]) = false ∧ Instr.wellFormed (.undecodedCommandWrite [0x14#8]) = true
      ∧ Instr.wellFormed (.undecodedCommandWrite []) = true := by decide

/-! ## Codings -/

/-- The check value of R172's CRC over the digits 1 to 9. -/
theorem test_crc8_check_value :
    crc8 [0x31#8, 0x32#8, 0x33#8, 0x34#8, 0x35#8, 0x36#8, 0x37#8, 0x38#8, 0x39#8] = 0xF4#8 := by decide +kernel

theorem test_frames_are_read_as_written :
    judgeFrame (frameOf 5 3 [0x1F#8]) = some { kind := 5, index := 3, payload := [0x1F#8] }
      ∧ judgeFrame [0x00#8, 0x00#8, 0x00#8] = some { kind := 0, index := 0, payload := [] }
      ∧ judgeFrame [0x00#8, 0x00#8, 0x01#8] = none := by decide +kernel

theorem test_no_word_spells_a_command :
    decodeTableWord 16 0xFFFF = none ∧ State.reset.withFetchWord 16 0xFFFF = State.reset := ⟨rfl, rfl⟩

/-- Offsets 0 to 39 of a record after reset, by R171 and R22. -/
theorem test_record_image_at_reset :
    recordFields LineRecord.reset =
      [0x00#8, 0x01#8, 0x0F#8, 0x0D#8, 0x0A#8, 0x0F#8, 0x00#8, 0x03#8, 0x00#8, 0xFF#8, 0x00#8, 0x01#8, 0x00#8, 0x00#8,
       0x00#8, 0x00#8, 0x00#8]
      ++ [0x00#8, 0x00#8, 0x00#8, 0x00#8]
      ++ [0xFF#8, 0xFF#8, 0xFF#8, 0xFF#8, 0xFF#8, 0xFF#8, 0xFF#8, 0xFF#8]
      ++ [0xFF#8, 0xFF#8, 0xFF#8, 0xFF#8, 0x00#8, 0x00#8, 0x00#8, 0x00#8, 0x00#8, 0x00#8, 0x00#8]
      ∧ (recordImage LineRecord.reset).length = 136 := by decide +kernel

/-- The Operating Settings after reset, by R157 and R171. -/
theorem test_settings_image_at_reset :
    settingsImage State.reset =
      [0x00#8, 0x04#8, 0x08#8, 0x0A#8, 0x33#8, 0x44#8, 0x05#8, 0x19#8, 0x28#8, 0xDC#8, 0x05#8, 0x20#8, 0x03#8, 0x00#8,
       0x00#8, 0x01#8] := by decide +kernel

theorem test_finding_slot_bytes :
    slotBytes (some { pair := .d, kind := .cross .b, distance := 0x0123, amplitude := -1, runs := 2, state := .fading })
      = [0xF3#8, 0x01#8, 0x23#8, 0x01#8, 0xFF#8, 0x02#8] ∧ slotBytes none = [0, 0, 0, 0, 0, 0] := by decide

/-! ## Steps -/

theorem test_hyps_StepRunsTheFrontCommand :
    ({ State.reset with pending := [.setPage [1], .dispatch] } : State).pending = [.setPage [1], .dispatch] := rfl

theorem test_hyps_StepWithoutCommandsIsOneTick : State.reset.pending = [] := rfl

theorem test_step_takes_the_front_command :
    (match step { State.reset with pending := [.setPage [1], .dispatch] } with
      | .next t => decide (t.page = true) && decide (t.pending = [.dispatch])
      | _ => false) = true := by decide +kernel

/-! ## Device reset -/

/-- CSn has fallen and these bits have been clocked. -/
def clocked (bits : List Bool) (s : State) : State :=
  s.edges (.csnFalls :: bits.flatMap fun b => [.sckRises b, .sckFalls])

/-- A SET-PAGE 1 clocked in, but for the rising of CSn. -/
def setPage1 (s : State) : State := clocked (bitsOfByte 0x00 ++ bitsOfByte 0x03 ++ bitsOfByte 0x01) s

theorem test_hyps_DeviceResetBeginsAtEveryCauseAndCompletes :
    State.reset.resetN = true ∧ State.reset.busy = none
      ∧ (State.reset.beginDeviceReset.busy = some .deviceReset ∧ State.reset.beginDeviceReset.resetN = true)
      ∧ (after .resetnAssert State.reset).resetN = false
      ∧ (let s := after .resetnAssert (clocked [true, false, true, true, true, true, true] State.reset)
        s.serial.selected = true ∧ s.serial.ended = true ∧ s.serial.sck = false ∧ s.serial.bytes = []
          ∧ s.serial.bits = [true, false, true, true, true, true, true]) := by decide +kernel

/-- A command clocked in on the pins is taken as CSn rises, but not where RESETn has fallen before (R159). -/
theorem test_a_command_under_way_when_resetn_falls_is_not_taken :
    ((setPage1 State.reset).edge .csnRises).page = true
      ∧ (let s := after .deviceResetComplete (after .resetnRelease (after .resetnAssert (setPage1 State.reset)))
        s.busy = none ∧ (s.edge .csnRises).page = false ∧ (s.edge .csnRises).errors.first = none
          ∧ (s.edge .csnRises).serial = State.reset.serial) := by decide +kernel

/-- A data transaction under way is cut short (R159). -/
theorem test_a_device_reset_cuts_a_transaction_short :
    let s := { State.reset with
      transfer := some { write := false, judgment := .taken, raised := false, fetched := some (1, 2) } }
    (after .powerUp s).transfer = some { write := false, judgment := .inReset, raised := false, fetched := none }
      ∧ (after (.dataRead .byte) (after .powerUp s)).sdo = [0x00#8]
      ∧ (after (.deviceReset []) s).transfer = none := by decide +kernel

theorem test_device_reset_and_power_up :
    (after (.deviceReset []) waiting5).busy = some .deviceReset ∧ (after (.deviceReset []) waiting5).queue = []
      ∧ (after .powerUp waiting5).busy = some .deviceReset
      ∧ (after .deviceResetComplete State.reset.beginDeviceReset).busy = none
      ∧ (after .resetnRelease { State.reset with resetN := false }).resetN = true := by decide +kernel

/-! ## Line Signal Link -/

theorem test_hyps_DamagedFrameChangesNothing :
    (0x01#8 : Byte) ≠ crc8 [0x00#8, 0x00#8] ∧ 7 < (0x08#8 : Byte).toNat := by decide +kernel

theorem test_hyps_EveryInboundMessageReachesItsPort :
    Inbound.inRange (.result (.pass 0xF#4 (.const 63) .crossed)) ∧ Inbound.inRange (.energy true)
      ∧ Inbound.inRange (.result .fail) ∧ ((linked0 State.reset).group 0).linked = true := by
  refine ⟨⟨by decide, by decide, by decide, by decide⟩, trivial, trivial, by decide +kernel⟩

theorem test_frame_receive :
    ((after (.frameReceive 0 [0x25#8, 0x01#8, 0x0F#8, crc8 [0x25#8, 0x01#8, 0x0F#8]]) (linked0 State.reset)).port 5).inbox
      = { Inbox.empty with page := some 0xF#4 } := by decide +kernel

theorem test_hyps_ValidFrameRelinksASilentGroup :
    (State.reset.group 0).linked = false
      ∧ ((five (inMode .held)).port (portAt 0 5)).tc.f.mode = .held
      ∧ ((five (inMode .listen)).port (portAt 0 5)).tc.f.mode = .listen
      ∧ (((five (atRate .train .t100)).port (portAt 0 5)).tc.f.mode = .train
        ∧ ((five (atRate .train .t100)).port (portAt 0 5)).tc.f.resolved = some .t100)
      ∧ ((five (inMode .lent)).port (portAt 0 5)).tc.f.mode = .lent
      ∧ ((linked0 State.reset).group 0).linked = true
      ∧ (List.replicate 7 (0xFF#8 : Byte)).length ≤ 7
      ∧ (Inbound.inRange (.page 0xF#4) ∧ (0x25#8 : Byte).toNat / 16 = Inbound.code (.page 0xF#4)
        ∧ [0x0F#8] = Inbound.payload (.page 0xF#4))
      ∧ ∀ m : Inbound, ¬ (m.inRange ∧ (0xF0#8 : Byte).toNat / 16 = m.code ∧ ([] : List Byte) = m.payload) := by
  refine ⟨?_, ?_, ?_, ?_, ?_, ?_, ?_, ⟨trivial, ?_⟩, fun m hm => ?_⟩
  all_goals first | decide +kernel | (revert hm; cases m <;> simp [Inbound.code])

/-- A valid frame of an undefined kind and one whose payload is out of range restart the timer and place nothing. -/
theorem test_valid_frames_that_carry_nothing :
    ((after (.frameReceive 0 [0xF5#8, 0x00#8, crc8 [0xF5#8, 0x00#8]]) (linked0 State.reset)).group 0).silence
        = some (Config.millis 1)
      ∧ ((after (.frameReceive 0 [0x25#8, 0x01#8, 0x10#8, crc8 [0x25#8, 0x01#8, 0x10#8]]) (linked0 State.reset)).port 5).inbox
        = Inbox.empty := by decide +kernel

theorem test_hyps_SilenceReportsNoPartnerAndPowerEverywhere :
    ((linked0 State.reset).group 0).linked = true ∧ ((linked0 State.reset).group 0).silence = some 0 := by
  decide +kernel

theorem test_silence_expiry :
    ((after (.silenceExpiry 0) (linked0 State.reset)).port 5).inbox.power = some (0xF#4, false)
      ∧ ((after (.silenceExpiry 0) (linked0 State.reset)).group 0).linked = false := by decide +kernel

/-- Group 0 with one message, of index 5, and a turn and idle timer as given. -/
def sending (turn : GroupIndex) (idle : Nat) : State :=
  (five { PortState.reset with transmit := [.halt, .detach] }).setGroup 0
    { GroupLink.reset with linked := true, turn := turn, idle := idle }

theorem test_hyps_GroupSendsIdleFramesAndMessages :
    ((sending 0 0).group 0).idle = 0 ∧ ((sending 6 1).group 0).idle ≠ 0
      ∧ ((sending 6 1).port (portAt 0 5)).transmit = [.halt, .detach]
      ∧ (∀ j : GroupIndex, (j - ((sending 6 1).group 0).turn).val < ((5 : GroupIndex) - ((sending 6 1).group 0).turn).val →
        ((sending 6 1).port (portAt 0 j)).transmit = [])
      ∧ (State.reset.group 0).idle ≠ 0 ∧ (∀ j : GroupIndex, (State.reset.port (portAt 0 j)).transmit = []) := by
  decide +kernel

theorem test_idle_frame_and_message_are_sent :
    ((after (.idleFrameSend 0) (sending 0 0)).group 0).sent = some [0x00#8, 0x00#8, 0x00#8]
      ∧ ((after (.transmitMessage 0) (sending 6 1)).group 0).sent = some (frameOf 0x0A 5 [])
      ∧ ((after (.transmitMessage 0) (sending 6 1)).port 5).transmit = [.detach] := by decide +kernel

theorem test_hyps_HandedMessagesJoinOverflowOrVanish :
    (State.reset.group (groupOf 5)).linked = false ∧ ((linked0 State.reset).group (groupOf 5)).linked = true
      ∧ ((linked0 State.reset).port 5).transmit.length + (List.replicate 8 Outbound.halt).length ≤ 8
      ∧ 8 ≤ ((linked0 (five { PortState.reset with transmit := List.replicate 8 .attach })).port 5).transmit.length := by
  decide +kernel

/-! ## Link Training -/

/-- Port 5 LENT with a POWER message of a fault and pair A powered. -/
def powerCase : State := boxed .lent { Inbox.empty with power := some (0x1#4, true) }

/-- The same with port 5 LENT to an engine. -/
def powerOn (x : Engine) : State :=
  State.also (lentTo x) fun ps => { ps with inbox := { Inbox.empty with power := some (0x1#4, true) } }

theorem test_hyps_PowerIsRecordedAndFires :
    (powerCase.takesSlot 5 .power = true ∧ (powerCase.port 5).inbox.power = some (0x1#4, true)
        ∧ (powerCase.port 5).tc.f.mode = .lent ∧ powerCase.engineHolding 5 = none)
      ∧ ((boxed .up { Inbox.empty with power := some (0, false) }).takesSlot 5 .power = true
        ∧ ((boxed .up { Inbox.empty with power := some (0, false) }).port 5).tc.f.mode ≠ .lent)
      ∧ ((powerOn (.attaching run5 0)).takesSlot 5 .power = true ∧ (powerOn (.attaching run5 0)).engineHolding 5 = some 0
        ∧ (powerOn (.attaching run5 0)).engine 0 = .attaching run5 0)
      ∧ ((powerOn (.sweeping run5 .b 1 9 [])).engineHolding 5 = some 0
        ∧ (powerOn (.sweeping run5 .b 1 9 [])).engine 0 = .sweeping run5 .b 1 9 [])
      ∧ ((powerOn (.closing run5 .complete)).takesSlot 5 .power = true
        ∧ (powerOn (.closing run5 .complete)).engine 0 = .closing run5 .complete) := by decide +kernel

theorem test_take_power :
    ((after (.takePower 5) powerCase).port 5).powerNotice = true
      ∧ ((after (.takePower 5) powerCase).port 5).firings = [.source .powerFault]
      ∧ ((after (.takePower 5) powerCase).port 5).record.tc.powered = 0x1#4 := by decide +kernel

/-- The engine leaves SWEEPING in the event that takes the POWER message (R89). -/
theorem test_take_power_stops_the_engine :
    (after (.takePower 5) (powerOn (.sweeping run5 .b 1 9 []))).engine 0 = .closing run5 .power
      ∧ (after (.takePower 5) (powerOn (.sweeping run5 .b 1 9 []))).errors.first
        = some { cause := .powerAbort, origin := .event, port := some 5 }
      ∧ ((after (.takePower 5) (powerOn (.sweeping run5 .b 1 9 []))).port 5).powerNotice = false
      ∧ (after (.takePower 5) (powerOn (.closing run5 .complete))).engine 0 = .closing run5 .complete
      ∧ (after (.takePower 5) (powerOn (.closing run5 .complete))).errors.first = none := by decide +kernel

/-- Port 5 LENT to an engine, with DETACHED in its inbox. -/
def detachedCase (x : Engine) : State :=
  State.also (lentTo x) fun ps => { ps with inbox := { Inbox.empty with detached := true } }

theorem test_hyps_DetachedStartsTheSweepsOrIsDiscarded :
    (detachedCase (.attaching run5 1)).takesSlot 5 .detached = true
      ∧ (((detachedCase (.attaching run5 1)).port 5).tc.f.mode = .lent
        ∧ (detachedCase (.attaching run5 1)).engineHolding 5 = some 0
        ∧ (detachedCase (.attaching run5 1)).engine 0 = .attaching run5 1 ∧ run5.completed = []
        ∧ pairIn .b run5.toSweep = true ∧ pairIn .a run5.toSweep = false)
      ∧ (detachedCase .idle).engineHolding 5 = none
      ∧ ((boxed .up { Inbox.empty with detached := true }).port 5).tc.f.mode ≠ .lent
      ∧ (detachedCase (.closing run5 .complete)).engineHolding 5 = some 0 := by decide +kernel

theorem test_take_detached :
    (after (.takeDetached 5) (detachedCase (.attaching run5 1))).engine 0 = .sweeping run5 .b 1 1024 [] := by
  decide +kernel

/-- Port 5 in a mode with an ENERGY message. -/
def energyCase (m : Mode) (present : Bool) : State := boxed m { Inbox.empty with energy := some present }

/-- Port 5 UP with LOST, with or without energy. -/
def lostCase (energy : Bool) : State :=
  State.also (boxed .up { Inbox.empty with lost := true }) fun ps =>
    { ps with tc := { ps.tc with f := { ps.tc.f with energy := energy } } }

theorem test_hyps_EnergyAndLostMoveThePort :
    ((energyCase .up false).takesSlot 5 .energy = true ∧ ((energyCase .up false).port 5).inbox.energy = some false
        ∧ ((energyCase .up false).port 5).tc.f.mode ∈ [Mode.listen, Mode.train, Mode.up])
      ∧ ((energyCase .held false).takesSlot 5 .energy = true
        ∧ ((energyCase .held false).port 5).tc.f.mode ∉ [Mode.listen, Mode.train, Mode.up])
      ∧ ((energyCase .dark true).takesSlot 5 .energy = true ∧ ((energyCase .dark true).port 5).inbox.energy = some true
        ∧ ((energyCase .dark true).port 5).tc.f.mode = .dark)
      ∧ ((energyCase .up true).takesSlot 5 .energy = true ∧ ((energyCase .up true).port 5).tc.f.mode ≠ .dark)
      ∧ ((lostCase true).takesSlot 5 .lost = true ∧ ((lostCase true).port 5).tc.f.mode = .up
        ∧ ((lostCase true).port 5).tc.f.energy = true)
      ∧ ((lostCase false).takesSlot 5 .lost = true ∧ ((lostCase false).port 5).tc.f.energy = false) := by decide +kernel

theorem test_take_energy_and_lost :
    ((after (.takeEnergy 5) (energyCase .dark true)).port 5).tc.f.mode = .listen
      ∧ ((after (.takeEnergy 5) (energyCase .up false)).port 5).tc.f.mode = .dark
      ∧ ((after (.takeLost 5) (lostCase true)).port 5).tc.f.mode = .listen := by decide +kernel

/-- An inbox with a RESULT. -/
def result (r : TrainResult) : Inbox := { Inbox.empty with result := some r }

/-- A RESULT pass. -/
def passes : TrainResult := .pass 0x2#4 (.const 63) .crossed

/-- Port 5 in LISTEN with a POWER and a PAGE, its listen timer run out, and an update waiting or none. -/
def inboxCase (waiting : List TcField) : State :=
  State.also (boxed .listen { Inbox.empty with power := some (0, false), page := some 0xF#4 }) fun ps =>
    { ps with tcWaiting := waiting, tc := { ps.tc with listen := some 0 } }

theorem test_the_inbox_is_taken_in_order_and_stalls :
    after (.takePage 5) (inboxCase []) = inboxCase []
      ∧ ((after (.takePower 5) (inboxCase [])).port 5).inbox = { Inbox.empty with page := some 0xF#4 }
      ∧ ((after (.takePage 5) (after (.takePower 5) (inboxCase []))).port 5).inbox = Inbox.empty
      ∧ after (.takePower 5) (inboxCase [.energy]) = inboxCase [.energy]
      ∧ after (.listenExpiry 5) (inboxCase [.energy]) = inboxCase [.energy] := by decide +kernel

theorem test_hyps_MeaninglessMessagesOnlyEmptyTheirSlot :
    ((inboxCase []).takesSlot 5 .power = true ∧ (inboxCase []).takesSlot 5 .page = false
        ∧ ((inboxCase [.energy]).port 5).tcWaiting ≠ [] ∧ (inboxCase [.energy]).takesSlot 5 .power = false)
      ∧ ((boxed .held { Inbox.empty with page := some 0xF#4 }).takesSlot 5 .page = true
        ∧ ((boxed .held { Inbox.empty with page := some 0xF#4 }).port 5).tc.f.mode
          ∈ [Mode.parked, Mode.dark, Mode.held, Mode.lent])
      ∧ ((boxed .up (result .fail)).takesSlot 5 .result = true
        ∧ ((boxed .up (result .fail)).port 5).inbox.result = some .fail
        ∧ ((boxed .up (result .fail)).port 5).tc.f.mode
          ∈ [Mode.parked, Mode.dark, Mode.listen, Mode.up, Mode.held, Mode.lent])
      ∧ ((boxed .lent (result passes)).takesSlot 5 .result = true
        ∧ ((boxed .lent (result passes)).port 5).inbox.result = some passes)
      ∧ ((boxed .train { Inbox.empty with lost := true }).takesSlot 5 .lost = true
        ∧ ((boxed .train { Inbox.empty with lost := true }).port 5).tc.f.mode
          ∈ [Mode.parked, Mode.dark, Mode.listen, Mode.train, Mode.held, Mode.lent]) := by decide +kernel

theorem test_hyps_ResultPassBringsThePortUp :
    (boxedAt .t100 (result passes)).takesSlot 5 .result = true
      ∧ ((boxedAt .t100 (result passes)).port 5).inbox.result = some (.pass 0x2#4 (.const 63) .crossed)
      ∧ ((boxedAt .t100 (result passes)).port 5).tc.f.mode = .train
      ∧ ((boxedAt .t100 (result passes)).port 5).tc.f.resolved = some .t100
      ∧ (boxedAt .t100 (result passes)).bind = none := by decide +kernel

theorem test_take_result_pass :
    ((after (.takeResultPass 5) (boxedAt .t100 (result passes))).port 5).record.tc.skew
        = { a := some 63, b := some 63, c := none, d := none }
      ∧ ((after (.takeResultPass 5) (boxedAt .t100 (result passes))).port 5).record.tc.mode = .up
      ∧ (((after (.takeResultPass 5) (boxedAt .t100 (result passes))).port 5).record.pairs.get .a).reason = some .skew := by
  decide +kernel

/-- Port 5 in TRAIN at T1000 with a failure, after some attempts, with rights and a guard mask. -/
def failCase (attempts : Nat) (rights : BitVec 4) (mask : BitVec 5) : State :=
  State.also (boxedAt .t1000 (result .fail)) fun ps =>
    { ps with
      tc := { ps.tc with f := { ps.tc.f with attempts := attempts }, train := some 0 }
      record := { ps.record with rights := rights, guardMask := mask } }

theorem test_hyps_FailedAttemptRetriesOrStrikes :
    ((failCase 1 0xD#4 0x10#5).takesSlot 5 .result = true ∧ ((failCase 1 0xD#4 0x10#5).port 5).inbox.result = some .fail
        ∧ ((failCase 1 0xD#4 0x10#5).port 5).tcWaiting = [] ∧ ((failCase 1 0xD#4 0x10#5).port 5).tc.train = some 0
        ∧ ((failCase 1 0xD#4 0x10#5).port 5).tc.f.mode = .train
        ∧ ((failCase 1 0xD#4 0x10#5).port 5).tc.f.resolved = some .t1000)
      ∧ ((failCase 1 0xD#4 0x10#5).port 5).tc.f.attempts + 1 < (failCase 1 0xD#4 0x10#5).settings.tries
      ∧ ((failCase 2 0x5#4 0x10#5).settings.tries ≤ ((failCase 2 0x5#4 0x10#5).port 5).tc.f.attempts + 1
        ∧ ((failCase 2 0x5#4 0x10#5).port 5).record.rights.getLsbD 3 = false)
      ∧ ((failCase 2 0xD#4 0x10#5).settings.tries ≤ ((failCase 2 0xD#4 0x10#5).port 5).tc.f.attempts + 1
        ∧ ((failCase 2 0xD#4 0x10#5).port 5).record.rights.getLsbD 3 = true
        ∧ ((failCase 2 0xD#4 0x10#5).port 5).record.guardMask.getLsbD 4 = true
        ∧ ((failCase 2 0xD#4 0x10#5).port 5).tc.f.armed = true)
      ∧ ((failCase 2 0xD#4 0x0A#5).port 5).record.guardMask.getLsbD 4 = false := by decide +kernel

theorem test_take_result_fail_and_train_expiry :
    ((after (.takeResultFail 5) (failCase 1 0xD#4 0x0A#5)).port 5).tc.f.attempts = 2
      ∧ ((after (.trainExpiry 5) (failCase 2 0xD#4 0x0A#5)).port 5).tc.f.mode = .listen
      ∧ ((after (.trainExpiry 5) (failCase 2 0xD#4 0x0A#5)).port 5).tc.f.struck = 0x4#4
      ∧ ((after (.trainExpiry 5) (failCase 2 0xD#4 0x0A#5)).port 5).autoRequests = 1
      ∧ ((after (.takeResultFail 5) (failCase 2 0xD#4 0x10#5)).port 5).tc.f.mode = .held := by decide +kernel

/-- Port 5 in a mode with a PAGE. -/
def pageCase (m : Mode) (rates : RateSet) : State := boxed m { Inbox.empty with page := some rates }

theorem test_hyps_PageResolvesTheHighestCommonRate :
    ((pageCase .up 0x5#4).takesSlot 5 .page = true ∧ ((pageCase .up 0x5#4).port 5).inbox.page = some 0x5#4
        ∧ ((pageCase .up 0x5#4).port 5).tc.f.mode ∈ [Mode.listen, Mode.train, Mode.up]
        ∧ ((pageCase .up 0x5#4).E 5 &&& 0x5#4).getLsbD Rate.t1000.index = true
        ∧ ((pageCase .up 0x5#4).E 5 &&& 0x5#4).getLsbD Rate.t2500.index = false)
      ∧ ((pageCase .listen 0).takesSlot 5 .page = true ∧ (pageCase .listen 0).E 5 &&& 0 = 0
        ∧ ((pageCase .listen 0).port 5).tc.f.mode = .listen)
      ∧ ((pageCase .train 0).takesSlot 5 .page = true
        ∧ ((pageCase .train 0).port 5).tc.f.mode ∈ [Mode.train, Mode.up]) := by decide +kernel

theorem test_take_page :
    ((after (.takePage 5) (pageCase .listen 0x5#4)).port 5).tc.f.resolved = some .t1000
      ∧ ((after (.takePage 5) (linked0 (pageCase .up 0x5#4))).port 5).transmit = [.halt, .start .t1000]
      ∧ ((after (.takePage 5) (pageCase .train 0)).port 5).tc.f.mode = .listen := by decide +kernel

/-- Port 5 in LISTEN, its timer run out. -/
def listenCase : State := five { inMode .listen with tc := { (inMode .listen).tc with listen := some 0 } }

theorem test_hyps_ListenExpiryAdvertisesAgain :
    (listenCase.port 5).tcWaiting = [] ∧ (listenCase.port 5).tc.listen = some 0
      ∧ (listenCase.port 5).tc.f.mode = .listen := by decide +kernel

theorem test_listen_expiry :
    ((after (.listenExpiry 5) (linked0 listenCase)).port 5).transmit = [.advertise 0xF#4]
      ∧ ((after (.listenExpiry 5) listenCase).port 5).tc.listen = some 750000000 := by decide +kernel

/-- Port 5 in a mode and return mode with a WITHDRAW handed. -/
def withdrawCase (m : Mode) (back : ReturnMode) : State :=
  five { inMode m with
    withdraws := [.short]
    tc := { (inMode m).tc with f := { (inMode m).tc.f with returnMode := back } } }

theorem test_hyps_WithdrawTakesThePortOutOfService :
    ((withdrawCase .up .dark).port 5).withdraws = [.short]
      ∧ ((withdrawCase .up .dark).port 5).tc.f.mode ∈ [Mode.dark, Mode.listen, Mode.train, Mode.up]
      ∧ (((withdrawCase .lent .dark).port 5).tc.f.mode = .lent
        ∧ ((withdrawCase .lent .dark).port 5).tc.f.returnMode ≠ .parked)
      ∧ (((withdrawCase .lent .parked).port 5).tc.f.mode = .lent
        ∧ ((withdrawCase .lent .parked).port 5).tc.f.returnMode = .parked)
      ∧ ((withdrawCase .held .dark).port 5).tc.f.mode ∈ [Mode.parked, Mode.held] := by decide +kernel

theorem test_take_withdraw :
    ((after (.takeWithdraw 5) (withdrawCase .up .dark)).port 5).record.tc.heldCause = some .short
      ∧ ((after (.takeWithdraw 5) (withdrawCase .lent .dark)).port 5).record.tc.returnMode = .held := by decide +kernel

/-- Port 5 in a mode and return mode, with or without energy. -/
def hostCase (m : Mode) (back : ReturnMode) (energy : Bool) : State :=
  five { inMode m with
    tc := { (inMode m).tc with f := { (inMode m).tc.f with returnMode := back, energy := energy } } }

theorem test_hyps_ParkKeepsThePortOutAndUnparkReleasesIt :
    (hostCase .parked .dark true).takesHost ∧ (hostCase .parked .dark true).page = false
      ∧ portOf? (0x05#8 : Byte).toNat = some 5 ∧ portOf? (0x2F#8 : Byte).toNat = some 47
      ∧ ((hostCase .parked .dark true).port 5).tc.f.mode = .parked
      ∧ ((hostCase .up .dark true).port 5).tc.f.mode ∉ [Mode.lent, Mode.parked]
      ∧ ((hostCase .lent .parked true).port 5).tc.f.mode = .lent
      ∧ ((hostCase .parked .dark true).port 5).tc.f.energy = true
      ∧ ((hostCase .parked .dark false).port 5).tc.f.energy = false
      ∧ ((hostCase .lent .parked true).port 5).tc.f.returnMode = .parked
      ∧ (((hostCase .lent .dark true).port 5).tc.f.mode ≠ .parked
        ∧ ((hostCase .lent .dark true).port 5).tc.f.returnMode ≠ .parked) := by
  refine ⟨⟨?_, ?_⟩, ?_⟩ <;> decide +kernel

theorem test_park_and_unpark :
    ((after (.park [5]) (hostCase .up .dark true)).port 5).record.tc.mode = .parked
      ∧ ((after (.unpark [5]) (hostCase .parked .dark true)).port 5).tc.f.mode = .listen
      ∧ (after (.unpark [48]) State.reset).errors.first
        = some { cause := .badPort, origin := .command, port := none } := by decide +kernel

theorem test_hyps_RestartAndRearmBeginANewEpisode :
    (hostCase .up .dark true).takesHost
      ∧ (((hostCase .up .dark true).port 5).tc.f.mode ∈ [Mode.listen, Mode.train, Mode.up]
        ∧ ((hostCase .up .dark true).port 5).tc.f.energy = true)
      ∧ ((hostCase .up .dark false).port 5).tc.f.energy = false
      ∧ ((hostCase .dark .dark true).port 5).tc.f.mode = .dark
      ∧ ((hostCase .held .dark true).port 5).tc.f.mode ∈ [Mode.parked, Mode.held, Mode.lent]
      ∧ (((hostCase .lent .held true).port 5).tc.f.mode = .lent
        ∧ ((hostCase .lent .held true).port 5).tc.f.returnMode = .held)
      ∧ (((hostCase .lent .dark true).port 5).tc.f.mode ≠ .held
        ∧ ((hostCase .lent .dark true).port 5).tc.f.returnMode ≠ .held) := by
  refine ⟨⟨?_, ?_⟩, ?_⟩ <;> decide +kernel

theorem test_restart_and_rearm :
    ((after (.restart [5]) (hostCase .up .dark true)).port 5).tc.f.mode = .listen
      ∧ (after (.restart [5]) (hostCase .held .dark true)).reply = replyRefused
      ∧ ((after (.rearm [5]) (hostCase .held .dark true)).port 5).tc.f.mode = .listen
      ∧ ((after (.rearm [5]) (hostCase .held .dark false)).port 5).tc.f.mode = .dark := by decide +kernel

/-- Port 5 in LISTEN under a bind, its record still showing DARK. -/
def lateMode : State :=
  bound 5 (State.also (five (inMode .listen)) fun ps =>
    { ps with record := { ps.record with tc := { ps.tc.f with mode := .dark } }, tcWaiting := [.mode] })

/-- The update of a RESTART carries the mode its event ends in, also where that is the mode it began in (R45). -/
theorem test_restart_publishes_its_mode :
    (lateMode.port 5).record.tc.mode = .dark
      ∧ ((after (.restart [5]) lateMode).port 5).record.tc.mode = .listen
      ∧ ((after (.restart [5]) lateMode).port 5).tcWaiting = [] := by decide +kernel

/-! ## Updates and binds -/

theorem test_hyps_AppliedUpdateAdvancesTheGenerationOnce :
    LineRecord.reset = (State.reset.port 5).record
      ∧ { LineRecord.reset with offer := 0 } ≠ (State.reset.port 5).record
      ∧ (∀ q : Pair, (PerPair.const Verdict.good).get q = .good)
      ∧ (∀ q : Pair, (PerPair.const Verdict.marginal).get q = .marginal)
      ∧ (let v : PerPair Verdict := { a := .good, b := .marginal, c := .short, d := .good }
        v.get .a = .good ∧ v.get .b = .marginal ∧ v.get .c = .short)
      ∧ ((findingA .open 9).pair = .a ∧ (findingA .open 9).state = .fresh ∧ (findingA .open 9).kind = .open)
      ∧ ((findingA .highZ 9).kind = .highZ ∧ Settings.default.marginal = 25
        ∧ Settings.default.marginal ≤ ({ findingA .highZ 9 with amplitude := -25 } : Finding).amplitude.natAbs)
      ∧ Settings.default.skewLimit < 41 ∧ ¬ Settings.default.skewLimit < 40 := by
  refine ⟨?_, ?_, fun q => by cases q <;> rfl, fun q => by cases q <;> rfl, ?_⟩ <;> decide +kernel

theorem test_verdict_and_ceiling_tables :
    let account (findings : List Finding) (skew : Option Nat) (probed : Bool) : Verdict × Option Nat :=
      let x := deriveAccount Settings.default findings skew .a { PairAccount.reset with probed := probed }
      (x.verdict, x.faultDistance)
    account [findingA .highZ 9, findingA (.cross .b) 20] (some 63) true = (.cross, some 20)
      ∧ account [findingA .highZ 9] none true = (.marginal, some 9)
      ∧ account [{ findingA .highZ 9 with amplitude := 24 }] (some 41) true = (.marginal, none)
      ∧ account [{ findingA .open 9 with state := .fading }] (some 40) true = (.good, none)
      ∧ account [] none false = (.untested, none)
      ∧ ceilingOf { a := .good, b := .marginal, c := .short, d := .good } = some .t100
      ∧ ceilingOf { a := .good, b := .open, c := .good, d := .good } = none := by decide +kernel

/-- Port 5, or port 47, in the change set. -/
def changedAt (p : Port) : State := State.reset.setPort p { PortState.reset with inChangeSet := true }

theorem test_hyps_TakeChangeReportsTheLowestChangedPort :
    State.reset.takesHost
      ∧ (((changedAt 47).port 47).inChangeSet = true ∧ ∀ q : Port, q < 47 → ((changedAt 47).port q).inChangeSet = false)
      ∧ (∀ q : Port, (State.reset.port q).inChangeSet = false) := by
  refine ⟨⟨?_, ?_⟩, ?_⟩ <;> decide +kernel

theorem test_take_change :
    (after (.takeChange []) (changedAt 47)).reply = #v[0x00#8, 0x2F#8, 0, 0, 0, 0, 0, 0]
      ∧ (after (.takeChange []) State.reset).reply = #v[0x00#8, 0xFF#8, 0, 0, 0, 0, 0, 0] := by decide +kernel

theorem test_hyps_BindAndAimOpenABind :
    State.reset.takesHost ∧ 1 ≤ (0x01#8 : Byte).toNat ∧ (0x20#8 : Byte).toNat ≤ 32 ∧ (0x32#8 : Byte).toNat ≤ 50
      ∧ (0x00#8 : Byte).toNat = 0 ∧ 33 ≤ (0x21#8 : Byte).toNat ∧ 51 ≤ (0x33#8 : Byte).toNat := by
  refine ⟨⟨?_, ?_⟩, ?_⟩ <;> decide +kernel

theorem test_bind_and_aim :
    (after (.bind [32]) State.reset).bind = some { left := 32, timer := 250000 }
      ∧ (after (.bind [33]) State.reset).bind = none
      ∧ (after (.aim [50, 1]) State.reset).cursor = { port := 50, offset := 0 }
      ∧ (after (.aim [50, 1]) State.reset).saved = some { port := 0, offset := 0 } := by decide +kernel

/-- A data transaction under way. -/
def moving (write : Bool) (j : Judgment) (s : State) : State :=
  { s with transfer := some { write := write, judgment := j, raised := false, fetched := none } }

theorem test_hyps_BindEndsByCountOrByExpiry :
    State.reset.bind = none ∧ (bound 2 State.reset).bind = some { left := 2, timer := 0 }
      ∧ (bound 1 State.reset).bind = some { left := 1, timer := 0 }
      ∧ (bound 1 State.reset).busy ≠ some .deviceReset
      ∧ (commandBytes (.takeChange []) = some [0x08#8] ∧ (0x08#8 : Byte) ∉ [0x04#8, 0x05#8, 0x0F#8])
      ∧ (moving false .taken (bound 1 State.reset)).transfer
        = some { write := false, judgment := .taken, raised := false, fetched := none }
      ∧ (moving true .jammed (bound 1 State.reset)).transfer
        = some { write := true, judgment := .jammed, raised := false, fetched := none } := by decide +kernel

theorem test_bind_count_end_and_expiry :
    (after (.bindCountEnd (.command [0x08#8])) (bound 1 State.reset)).bind = none
      ∧ (after (.bindCountEnd .readByte) (moving false .taken (bound 1 State.reset))).bind = none
      ∧ (after .bindExpiry (bound 3 State.reset)).bind = none
      ∧ (after .bindExpiry (bound 3 State.reset)).errors.first
        = some { cause := .bindExpired, origin := .event, port := none } := by decide +kernel

/-- Port 5 with a waiting update of its struck set, under a bind. -/
def held5 : State :=
  bound 1 (five { PortState.reset with
    tc := { PortMachine.reset with f := { TcFields.reset with struck := 0x8#4 } }
    tcWaiting := [.struck] })

/-- Port 5 with a joint update of skew and probe status and the Line Guard's update waiting. -/
def skewed5 : State :=
  bound 1 (five { PortState.reset with
    tc := { PortMachine.reset with f := { TcFields.reset with skew := .const (some 63) } }
    sched := { status := .done, outcome := none }, lastSource := some .short
    tcWaiting := [.skew], schedWaiting := [.status], guardWaiting := true, jointWaiting := true })

/-- A port reset of port 5, whose run was suspended, waiting for the end of a bind. -/
def resetWaits : State := { five lent5 with busy := some (.portReset 5 true) }

theorem test_hyps_EndOfBindAppliesEveryWaitingUpdate :
    held5.busy = none ∧ TcField.struck ∈ (held5.port 5).tcWaiting ∧ SchedField.status ∉ (held5.port 5).schedWaiting
      ∧ (held5.port 4).tcWaiting = [] ∧ (held5.port 4).schedWaiting = [] ∧ (held5.port 4).guardWaiting = false
      ∧ (held5.port 4).jointWaiting = false ∧ (held5.endBind.port 5).record.tc.struck = 0x8#4
      ∧ (held5.endBind.port 5).record.effectiveOffer = 0x7#4 ∧ (held5.endBind.port 5).record.generation = 1
      ∧ TcField.skew ∈ (skewed5.port 5).tcWaiting ∧ (skewed5.port 5).jointWaiting = true
      ∧ SchedField.status ∈ (skewed5.port 5).schedWaiting ∧ (skewed5.port 5).guardWaiting = true
      ∧ (bound 1 resetWaits).busy = some (.portReset 5 true) := by
  decide +kernel

/-- A joint update of both blocks and the Line Guard's advance the generation by two; the skew has the verdicts derived;
a port reset that waited for the end of the bind is made. -/
theorem test_end_of_bind :
    (skewed5.endBind.port 5).record.generation = 2
      ∧ (skewed5.endBind.port 5).record.verdicts = .const .marginal
      ∧ (skewed5.endBind.port 5).record.ceiling = some .t1000
      ∧ (skewed5.endBind.port 5).record.lastSource = some .short
      ∧ (bound 1 resetWaits).endBind.busy = none
      ∧ ((bound 1 resetWaits).endBind.port 5).record.sched = { status := .aborted, outcome := some { cause := .reset, skipped := 0 } } := by
  decide +kernel

/-- Port 5 with the mode and the probe status of a power abort waiting as one update, and ENERGY in its inbox. -/
def aborted5 : State :=
  bound 3 (five { PortState.reset with
    record := { LineRecord.reset with
      tc := { TcFields.reset with mode := .lent }, sched := { status := .suspended, outcome := none } }
    tc := { PortMachine.reset with f := { TcFields.reset with mode := .dark } }
    sched := { status := .aborted, outcome := none }
    tcWaiting := [.mode], schedWaiting := [.status], jointWaiting := true
    inbox := { Inbox.empty with energy := some true } })

/-- A PARK that takes out the Training Controller's whole part leaves the Scheduler's alone, so that an ENERGY after it
waits as an update of its own; without the PARK the two advance the generation once. -/
theorem test_a_joint_update_is_parted_when_one_part_is_taken_out :
    let parked := after (.park [0x05#8]) aborted5
    let energized := after (.takeEnergy 5) parked
    (parked.port 5).tcWaiting = [] ∧ (parked.port 5).schedWaiting = [.status] ∧ (parked.port 5).jointWaiting = false
      ∧ (energized.port 5).tcWaiting = [.energy] ∧ (energized.port 5).jointWaiting = false
      ∧ (energized.endBind.port 5).record.generation = (parked.port 5).record.generation + 2
      ∧ (aborted5.endBind.port 5).record.generation = 1 := by decide +kernel

/-- A REARM over a waiting RETURN to HELD writes the return mode with the mode, and a PARK over a waiting loss of the link
the resolved rate with it (notes/assumptions/40.md). -/
theorem test_a_command_that_writes_the_mode_writes_what_is_tied_to_it :
    let s := bound 3 (five { PortState.reset with
      record := { LineRecord.reset with
        tc := { TcFields.reset with mode := .lent, returnMode := .held, heldCause := some .exhausted } }
      tc := { PortMachine.reset with f := { TcFields.reset with mode := .held, heldCause := some .exhausted } }
      tcWaiting := [.mode, .returnMode] })
    let lost := bound 3 (five { PortState.reset with
      record := { LineRecord.reset with tc := { TcFields.reset with mode := .up, resolved := some .t1000 } }
      tc := { PortMachine.reset with f := { TcFields.reset with mode := .dark } }
      tcWaiting := [.mode, .resolved, .energy] })
    let t := after (.rearm [0x05#8]) s
    let u := after (.park [0x05#8]) lost
    (t.port 5).tcWaiting = [] ∧ (t.port 5).record.tc.mode = .dark ∧ (t.port 5).record.tc.returnMode = .dark
      ∧ (u.port 5).tcWaiting = [.energy] ∧ (u.port 5).record.tc.mode = .parked
      ∧ (u.port 5).record.tc.resolved = none
      ∧ (recordFields (s.port 5).record).take 2 = [byte Mode.lent.code, byte Mode.held.code]
      ∧ (recordFields { LineRecord.reset with tc := { TcFields.reset with returnMode := .held } }).take 2
        = [byte Mode.parked.code, byte Mode.dark.code] := by decide +kernel

/-! ## Error Slot -/

/-- An Error Slot with some errors held. -/
def slot (first second jammed : Bool) : State :=
  { State.reset with
    errors :=
      { first := if first then some { cause := .noDetach, origin := .event, port := some 3 } else none
        second := if second then some { cause := .busy, origin := .command } else none
        jammed := jammed } }

theorem test_hyps_ErrorSlotTakesAReport :
    (slot false false false).errors.first = none
      ∧ ((slot true false false).errors.first = some { cause := .noDetach, origin := .event, port := some 3 }
        ∧ (slot true false false).errors.second = none)
      ∧ ((slot true true false).errors.second = some { cause := .busy, origin := .command }
        ∧ (slot true true false).errors.jammed = false)
      ∧ (slot true true true).errors.jammed = true := by decide

theorem test_hyps_ErrorSlotIsReadAndCleared : (slot true true true).busy = none := rfl

theorem test_read_and_clear_error :
    (after (.readError []) (slot true true true)).reply = #v[0x00#8, 0x0F#8, 0x03#8, 0x0F#8, 0x07#8, 0, 0, 0]
      ∧ (after (.clearError []) (slot true true true)).errors = .empty := by decide +kernel

/-! ## Management Port -/

theorem test_status_byte_of_a_full_queue_and_a_bind :
    statusByte { bound 1 (changedAt 5) with queue := fullQueue, page := true } = 0x17#8 := by decide +kernel

theorem test_status_read :
    (after (.statusRead 13) { State.reset with cursor := { port := 47, offset := 135 } }).sdo
      = [0x00#8, 0x2F#8, 0x87#8, 0, 0, 0, 0, 0, 0, 0, 0, 0, 0] := by decide +kernel

theorem test_hyps_CursorWalkAndPageCommands :
    State.reset.takesHost ∧ (0x2F#8 : Byte).toNat ≤ 47 ∧ (0x87#8 : Byte).toNat ≤ 135
      ∧ ¬ ((0x88#8 : Byte).toNat ≤ 135) ∧ (0x03#8 : Byte).toNat ≤ 3 ∧ 4 ≤ (0x04#8 : Byte).toNat
      ∧ (0x01#8 : Byte).toNat ≤ 1 ∧ 2 ≤ (0x02#8 : Byte).toNat
      ∧ Cursor.inRange { port := 47, offset := 135 } = true ∧ Cursor.inRange { port := 50, offset := 95 } = true := by
  refine ⟨⟨?_, ?_⟩, ?_⟩ <;> decide +kernel

theorem test_cursor_commands :
    (after (.setCursor [47, 135]) State.reset).cursor = { port := 47, offset := 135 }
      ∧ (after (.setCursor [47, 136]) State.reset).reply = replyRefused
      ∧ (after (.setWalk [3]) State.reset).walk = { byPort := true, down := true }
      ∧ (after (.setPage [1]) State.reset).page = true ∧ (after (.setPage [2]) State.reset).reply = replyRefused := by
  decide +kernel

theorem test_hyps_CommandsAreRefusedInOrder :
    commandBytes (.undecodedCommandWrite [0x20#8]) = some [0x20#8]
      ∧ State.reset.beginDeviceReset.busy = some .deviceReset
      ∧ ((slot true true true).busy ≠ some .deviceReset ∧ (slot true true true).errors.jammed = true)
      ∧ ({ State.reset with busy := some (.portReset 5 false) } : State).busy ≠ none
      ∧ (commandBytes (.undecodedCommandWrite []) = some [] ∧ operandsNeeded false (0x20#8 : Byte).toNat = none)
      ∧ (commandBytes (.probe [5, 1]) = some [0x10#8, 5, 1] ∧ operandsNeeded true (0x10#8 : Byte).toNat = some 3
        ∧ [(5 : Byte), 1].length < 3)
      ∧ (commandBytes (.portReset [0x30#8]) = some [0x14#8, 0x30#8] ∧ 48 ≤ (0x30#8 : Byte).toNat
        ∧ State.reset.page = false ∧ commandBytes (.cancel [0x30#8]) = some [0x11#8, 0x30#8]) := by decide +kernel

theorem test_ports_out_of_range :
    ([Instr.park [48], .unpark [48], .restart [48], .rearm [48], .portReset [255]].all fun c =>
        decide ((after c State.reset).errors.first
          = some { cause := .badPort, origin := .command, port := none })) = true
      ∧ ([Instr.cancel [48], .clearFindings [255]].all fun c =>
        decide ((after c { State.reset with page := true }).errors.first
          = some { cause := .badPort, origin := .command, port := none })) = true := by decide +kernel

theorem test_undecoded_command_write :
    (after (.undecodedCommandWrite [0x20#8]) State.reset).errors.first
        = some { cause := .unknownCmd, origin := .command, port := none }
      ∧ (after (.undecodedCommandWrite []) State.reset).errors.first
        = some { cause := .shortFrame, origin := .command, port := none } := by decide +kernel

/-- A DATA-READ at a place, with the read hold full. -/
def readingAt (port offset : Nat) : State :=
  { moving false .taken State.reset with cursor := { port := port, offset := offset }, readHold := 0xAA#8 }

theorem test_hyps_DataTransactionsAreJudgedOnce :
    (moving false .busy State.reset).transfer = some { write := false, judgment := .busy, raised := false, fetched := none }
      ∧ (moving true .inReset State.reset).transfer = some { write := true, judgment := .inReset, raised := false, fetched := none }
      ∧ (moving true .jammed State.reset).transfer = some { write := true, judgment := .jammed, raised := false, fetched := none }
      ∧ (List.replicate 7 true).length < 8 ∧ (0x3F#8 : Byte).getLsbD 7 = false ∧ (0x3F#8 : Byte).getLsbD 6 = false
      ∧ (0x7F#8 : Byte).getLsbD 6 = true ∧ (0xBF#8 : Byte).getLsbD 7 = true ∧ (0xBF#8 : Byte).getLsbD 6 = false
      ∧ (0xC0#8 : Byte).getLsbD 7 = true
      ∧ State.reset.serial.selected = false := by
  decide

/-- States in the midst of a transaction, for each clause about an edge. -/
theorem test_hyps_edges_of_a_transaction :
    let rises (s : State) : State := s.edge (.sckRises true)
    let begun := clocked [] State.reset
    let reading := rises (clocked (bitsOfByte 0x80 ++ [true]) (readingAt 48 8))
    let beginning := rises (clocked ((bitsOfByte 0x81).take 7) (readingAt 48 8))
    begun.serial.selected = true ∧ begun.serial.bits.length < 8 ∧ begun.serial.sck = false
      ∧ (rises begun).serial.sck = true ∧ (rises begun).serial.bytes = [] ∧ (rises begun).transfer = none
      ∧ (rises (clocked (bitsOfByte 0x40) State.reset)).transfer
        = some { write := true, judgment := .taken, raised := false, fetched := none }
      ∧ (rises (clocked (bitsOfByte 0x40) State.reset)).serial.bytes = [0x40#8]
      ∧ (rises (clocked (bitsOfByte 0xC0) State.reset)).serial.bytes = [0xC0#8]
      ∧ (rises (clocked (bitsOfByte 0xC0) State.reset)).transfer = none
      ∧ reading.serial.sck = true ∧ reading.serial.bytes = [0x80#8] ∧ reading.serial.bits = [true, true]
      ∧ reading.transfer = some { write := false, judgment := .taken, raised := false, fetched := some (0x28#8, 0xAA#8) }
      ∧ beginning.serial.bits = [] ∧ beginning.serial.sck = true ∧ beginning.serial.bytes = [0x81#8]
      ∧ beginning.transfer = some { write := false, judgment := .taken, raised := false, fetched := none } := by
  decide +kernel

/-- One byte read, with three bits clocked of the byte after it: SDO gives the most significant bit first, and of the byte
cut short the four bits it has changed to. -/
theorem test_sdo_gives_the_most_significant_bit_first :
    let s := (readingAt 48 7).edges (transactionEdges (bitsOfByte 0x80 ++ bitsOfByte 0xFF ++ [true, true, true]))
    s.sdo = [(readingAt 48 7).readValue]
      ∧ s.serial.out.take 8 = bitsOfByte (readingAt 48 7).readValue
      ∧ s.serial.out.drop 8 = (bitsOfByte (readingAt 48 8).readValue).take 4
      ∧ s.cursor = { port := 48, offset := 8 }
      ∧ (clocked (bitsOfByte 0xC0) State.reset).serial.image.length = 11 := by decide +kernel

/-- With CSn high, SCK rests low and its edges are none; bits before CSn falls are not sampled. -/
theorem test_sck_rests_while_csn_is_high :
    State.reset.edges [.sckRises true, .sckFalls, .csnRises] = State.reset
      ∧ (clocked [true] (State.reset.edges [.sckRises true, .sckFalls])).serial.bits = [true] := by decide +kernel

/-- The bits of a control byte 3Fh, of the opcode 08h, and of a byte cut short after its first bit. -/
theorem test_transactions_are_read_from_their_bits :
    let o := false
    let l := true
    transactionCommands false [o, o, l, l, l, l, l, l, o, o, o, o, l, o, o, o, l] = [.takeChange []]
      ∧ transactionCommands false [o, l, o, o, o, o, o, o, o, o, o, o, l, o, o, o, l]
        = [.dataWrite .control, .dataWrite (.byte 0x08#8)]
      ∧ transactionCommands false [l, o, o, o, o, o, o, o, o, o, o, o, l, o, o, o, l]
        = [.dataRead .control, .dataRead .fetch, .dataRead .byte, .dataRead .fetch]
      ∧ transactionCommands false [l, l, o, o, o, o, o, o, o, o, o, o, l, o, o, o] = [.statusRead 1]
      ∧ transactionCommands false [l, l, o, o, o, o, o] = []
      ∧ transactionCommands true [o, o, o, o, o, o, o, o, o, o, o, l, o, o, o, l, o, o, o, o, o, l, o, l]
        = [.cancel [0x05#8]] := by decide +kernel

theorem test_hyps_DataReadReturnsTheByteAtTheCursor :
    (readingAt 0 36).transfer = some { write := false, judgment := .taken, raised := false, fetched := none }
      ∧ (readingAt 0 36).cursor.inRange = true ∧ (readingAt 49 63).cursor.inRange = true
      ∧ (readingAt 50 95).cursor.inRange = true
      ∧ (after (.dataRead .fetch) (readingAt 0 36)).transfer
        = some { write := false, judgment := .taken, raised := false, fetched := some (0x00#8, 0x00#8) } := by
  decide +kernel

/-- A byte is fetched as it begins: what changes before its eighth bit is not seen (R137). -/
theorem test_data_read_is_fetched_at_its_beginning :
    let begun := after (.dataRead .fetch) (readingAt 48 8)
    let changed := { begun with settings := { begun.settings with skewLimit := 1 } }
    (after (.dataRead .byte) changed).sdo = [0x28#8] ∧ begun.sdo = [] ∧ begun.cursor = (readingAt 48 8).cursor
      ∧ (after (.dataRead .byte) changed).cursor = { port := 48, offset := 9 } := by decide +kernel

theorem test_data_read :
    (after (.dataRead .byte) (readingAt 48 0)).readHold = 0x04#8 ∧ (after (.dataRead .byte) (readingAt 48 1)).sdo = [0xAA#8]
      ∧ (after (.dataRead .byte) (readingAt 0 2)).sdo = [0x0F#8]
      ∧ (after (.dataRead .byte) (readingAt 0 135)).cursor = { port := 0, offset := 0 } := by decide +kernel

/-- A DATA-WRITE at a place, with the write hold full. -/
def writingAt (port offset : Nat) (hold : Byte) : State :=
  { moving true .taken State.reset with cursor := { port := port, offset := offset }, writeHold := hold }

theorem test_hyps_DataWriteAppliesOneByteOrIsRefused :
    (writingAt 5 2 0).transfer = some { write := true, judgment := .taken, raised := false, fetched := none }
      ∧ (writingAt 5 2 0).cursor.port = (5 : Port).val ∧ (0x0F#8 : Byte).toNat ≤ 15 ∧ 16 ≤ (0x10#8 : Byte).toNat
      ∧ (0x1F#8 : Byte).toNat ≤ 31 ∧ 32 ≤ (0x20#8 : Byte).toNat
      ∧ (writingAt 49 63 0).cursor.offset = 8 * (7 : TemplateId).val + 7
      ∧ 64 ≤ (0x00#8 : Byte).toNat * 256 + (0x40#8 : Byte).toNat
      ∧ (0x07#8 : Byte).toNat * 256 + (0xFF#8 : Byte).toNat ≤ 2047
      ∧ 2047 < (0x08#8 : Byte).toNat * 256 + (0x00#8 : Byte).toNat := by decide

theorem test_data_write :
    ((after (.dataWrite (.byte 0x0F#8)) (writingAt 5 3 0)).port 5).record.rights = 0xF#4
      ∧ (after (.dataWrite (.byte 0x07#8)) (writingAt 48 1 0xFF#8)).settings.probe.window = 2047
      ∧ (after (.dataWrite (.byte 0x08#8)) (writingAt 48 1 0x00#8)).errors.first
        = some { cause := .badValue, origin := .command, port := none }
      ∧ ((after (.dataWrite (.byte 0xFF#8)) (writingAt 49 63 0xFE#8)).templates[7]).high = 65534 := by decide +kernel

/-- A SEARCH for mode PARKED under way. -/
def scanning (next : Nat) (found : Option (Port × BitVec 16)) : State :=
  { State.reset with busy := some (.search .mode 0 next found) }

theorem test_hyps_SearchScansUpward :
    State.reset.takesHost ∧ (0x2F#8 : Byte).toNat = (47 : Port).val ∧ (0x10#8 : Byte).toNat ≤ 16
      ∧ 48 ≤ (0x30#8 : Byte).toNat ∧ 17 ≤ (0x11#8 : Byte).toNat
      ∧ (scanning 47 none).busy = some (.search .mode 0 (47 : Port).val none)
      ∧ ((scanning 47 none).port 47).record.tc.mode.code = 0
      ∧ ¬ (((scanning 5 none).setPort 5 { PortState.reset with
          record := { LineRecord.reset with tc := { TcFields.reset with mode := .up } } }).port 5).record.tc.mode.code = 0
      ∧ (scanning 47 (some (47, 3))).busy = some (.search .mode 0 47 (some (47, 3)))
      ∧ (scanning 48 none).busy = some (.search .mode 0 48 none) := by
  refine ⟨⟨?_, ?_⟩, ?_⟩ <;> decide +kernel

theorem test_search :
    (after (.search [5, 16, 47]) State.reset).busy = some (.search .findingCount 16 47 none)
      ∧ (after (.search [5, 17, 47]) State.reset).reply = replyRefused
      ∧ (after .scanExamineRecord (scanning 47 none)).busy = some (.search .mode 0 47 (some (47, 0)))
      ∧ (after .searchComplete (scanning 48 none)).reply = #v[0x00#8, 0xFF#8, 0, 0, 0, 0, 0, 0] := by decide +kernel

/-! ## Line Guard -/

/-- Port 5 UP with a firing of two edges and a guard mask of SHORT and POWER-FAULT. -/
def guardCase (armed : Bool) : State :=
  five { inMode .up with
    tc := { (inMode .up).tc with f := { (inMode .up).tc.f with armed := armed } }
    firings := [.edges [.open, .short]] }

theorem test_hyps_GuardFiringRecordsAndWithdraws :
    ((guardCase true).port 5).firings = [.edges [.open, .short]]
      ∧ (Firing.edges [.open, .short]).sources.getLast? = some .short
      ∧ (Firing.edges [.open, .short]).sources = [.open] ++ GuardSource.short :: []
      ∧ ((guardCase true).port 5).record.guardMask.getLsbD GuardSource.open.bit = false
      ∧ ((guardCase true).port 5).record.guardMask.getLsbD GuardSource.short.bit = true
      ∧ ((guardCase true).port 5).tc.f.armed = true ∧ ((guardCase true).port 5).tc.f.mode ≠ .parked
      ∧ ((guardCase false).port 5).tc.f.armed = false ∧ ((guardCase true).port 5).lastSource ≠ some .short
      ∧ (guardCase true).bind = none ∧ (bound 2 (guardCase true)).bind ≠ none := by decide +kernel

theorem test_guard_firing :
    ((after (.guardFiring 5) (guardCase true)).port 5).withdraws = [.short]
      ∧ ((after (.guardFiring 5) (guardCase true)).port 5).record.lastSource = some .short
      ∧ ((after (.guardFiring 5) (guardCase false)).port 5).withdraws = [] := by decide +kernel

/-! ## Probe Scheduler -/

/-- Port 5 DARK on page 1, with a probe status and a queue. -/
def asking (status : ProbeStatus) (queue : List Entry) : State :=
  { five { inMode .dark with sched := { status := status, outcome := none } } with queue := queue, page := true }

theorem test_hyps_ProbeIsCheckedInOrderAndJoinsOrMerges :
    ((asking .none []).takesHost ∧ (asking .none []).page = true)
      ∧ (48 ≤ (0x30#8 : Byte).toNat ∧ (0x05#8 : Byte).toNat = (5 : Port).val
        ∧ (0x02#8 : Byte).toNat = ReqClass.routine.code ∧ (0x0F#8 : Byte).toNat ≤ 15 ∧ 16 ≤ (0x10#8 : Byte).toNat)
      ∧ (((asking .none []).port 5).tc.f.mode ≠ .up ∧ ((asking .none []).port 5).record.rights.getLsbD 0 = true)
      ∧ (((five (inMode .up)).port 5).tc.f.mode = .up ∧ ((five (inMode .up)).port 5).record.rights.getLsbD 1 = false)
      ∧ (0x3#4 : PairSet) &&& ~~~((asking .none []).port 5).tc.f.powered ≠ 0
      ∧ ((asking .running []).port 5).sched.status = .running
      ∧ ((∀ x ∈ (asking .none fullQueue).queue, x.port ≠ 5) ∧ 16 ≤ (asking .none fullQueue).queue.length)
      ∧ ((asking .wanted [entry 7 .urgent, entry 8 .routine]).queue.length < 16
        ∧ (asking .wanted [entry 7 .urgent, entry 8 .routine]).queue = [entry 7 .urgent] ++ [entry 8 .routine]
        ∧ ((asking .wanted [entry 7 .urgent, entry 8 .routine]).port 5).sched.status = .wanted)
      ∧ ((asking .queued [entry 7 .urgent, entry 5 .routine]).queue = [entry 7 .urgent] ++ entry 5 .routine :: []
        ∧ ((asking .queued [entry 7 .urgent, entry 5 .routine]).port 5).sched.status = .queued) := by
  refine ⟨⟨⟨?_, ?_⟩, ?_⟩, ?_⟩ <;> decide +kernel

theorem test_probe :
    (after (.probe [5, 3, 1]) (asking .none [entry 7 .urgent, entry 8 .routine])).queue
        = [entry 7 .urgent, entry 5 .urgent, entry 8 .routine]
      ∧ (after (.probe [5, 4, 2]) (asking .queued [entry 5 .urgent])).queue = [{ entry 5 .urgent with pairs := 0x7#4 }]
      ∧ (after (.probe [5, 3, 1]) (asking .none fullQueue)).errors.first
        = some { cause := .queueFull, origin := .command, port := some 5 } := by decide +kernel

/-- Port 5 with an auto-probe request. -/
def autoCase (status : ProbeStatus) (queue : List Entry) : State :=
  State.also (asking status queue) fun ps => { ps with autoRequests := 1 }

theorem test_hyps_AutoProbeRequestsQueueWaitOrArePromoted :
    ((autoCase .suspended []).port 5).autoRequests = 0 + 1 ∧ ((autoCase .suspended []).port 5).sched.status = .suspended
      ∧ (autoCase .queued [entry 5 .routine]).queue = [] ++ entry 5 .routine :: []
      ∧ ((∀ y ∈ (autoCase .wanted []).queue, y.port ≠ 5) ∧ ((autoCase .wanted []).port 5).sched.status = .wanted)
      ∧ (((autoCase .none (fullQueue.take 15)).port 5).sched.status ≠ .wanted
        ∧ (autoCase .none (fullQueue.take 15)).queue.length < 16)
      ∧ 16 ≤ (autoCase .none fullQueue).queue.length
      ∧ (∀ p, (State.reset.port p).sched.status ≠ .wanted)
      ∧ (∀ q : Port, q < 5 → ((asking .wanted []).port q).sched.status ≠ .wanted)
      ∧ ((asking .wanted []).port 5).record.rights.getLsbD 2 = true
      ∧ ((State.also (asking .wanted []) fun ps =>
          { ps with record := { ps.record with rights := 0 } }).port 5).record.rights.getLsbD 2 = false := by
  decide +kernel

theorem test_auto_probe_request :
    (after (.autoProbeRequest 5) (autoCase .none [])).queue = [routineEntry 5]
      ∧ ((after (.autoProbeRequest 5) (autoCase .none fullQueue)).port 5).record.sched.status = .wanted := by
  decide +kernel

theorem test_hyps_CancelByStanding :
    (waiting5.takesHost ∧ (asking .wanted []).page = true)
      ∧ ((lentTo (.attaching run5 1)).engineHolding 5 = some 0 ∧ (lentTo (.attaching run5 1)).engine 0 = .attaching run5 1)
      ∧ (lentTo (.closing run5 .complete)).engine 0 = .closing run5 .complete
      ∧ ((asking .queued [entry 5 .routine]).engineHolding 5 = none
        ∧ (asking .queued [entry 5 .routine]).entryOf 5 = some (entry 5 .routine))
      ∧ (waiting5.engineHolding 5 = none ∧ waiting5.entryOf 5 = some suspended5 ∧ (waiting5.port 5).tc.f.mode = .lent)
      ∧ ((asking .wanted []).entryOf 5 = none ∧ ((asking .wanted []).port 5).sched.status = .wanted)
      ∧ ((asking .none []).port 5).sched.status ≠ .wanted := by
  refine ⟨⟨⟨?_, ?_⟩, ?_⟩, ?_⟩ <;> decide +kernel

theorem test_cancel :
    (after (.cancel [5]) { lentTo (.sweeping run5 .b 2 9 []) with page := true }).engine 0 = .closing run5 .cancelled
      ∧ (after (.cancel [5]) { waiting5 with page := true }).queue = []
      ∧ ((after (.cancel [5]) { waiting5 with page := true }).port 5).tc.f.mode = .listen := by decide +kernel

/-- Port 5 queued at the head with some pairs powered. -/
def headCase (powered : PairSet) : State :=
  State.also (asking .queued [entry 5 .urgent, entry 8 .routine]) fun ps =>
    { ps with tc := { ps.tc with f := { ps.tc.f with powered := powered } } }

theorem test_hyps_DispatchLendsThePort :
    (headCase 0).engine 0 = .idle ∧ (headCase 0).queue = entry 5 .urgent :: [entry 8 .routine]
      ∧ (entry 5 .urgent).suspended = none ∧ ((headCase 0).port 5).tc.f.mode ≠ .lent ∧ (headCase 0).bind = none
      ∧ (bound 1 (headCase 0)).bind ≠ none ∧ (entry 5 .urgent).pairs &&& ~~~((headCase 0x3#4).port 5).tc.f.powered = 0
      ∧ (entry 5 .urgent).pairs &&& ~~~((headCase 0x1#4).port 5).tc.f.powered ≠ 0 := by decide +kernel

theorem test_dispatch :
    ((after .dispatch (headCase 0x1#4)).engine 0).run?.map (fun r => (r.toSweep, r.skipped)) = some (0x2#4, 0x1#4)
      ∧ ((after .dispatch (headCase 0x1#4)).port 5).tc.f.mode = .lent
      ∧ ((after .dispatch (headCase 0x3#4)).port 5).record.sched
        = { status := .aborted, outcome := some { cause := .power, skipped := 0x3#4 } } := by decide +kernel

theorem test_hyps_ResumptionContinuesASuspendedRun :
    waiting5.engine 0 = .idle ∧ waiting5.queue = suspended5 :: [] ∧ waiting5.bind = none
      ∧ (waiting5.port 5).powerNotice = false ∧ (bound 1 waiting5).bind ≠ none
      ∧ (waiting5.resumedRun suspended5 { completed := [{ pair := .b, results := [], more := false }], skipped := 0
                                          latched := run5.latched }).toSweep = 0xD#4
      ∧ (waiting5.resumedRun suspended5 { completed := Pair.all.map fun q => { pair := q, results := [], more := false }
                                          skipped := 0, latched := run5.latched }).toSweep = 0 := by decide +kernel

theorem test_resumption :
    (after .resumption waiting5).queue = [] ∧ ((after .resumption waiting5).port 5).record.sched.status = .running
      ∧ (match (after .resumption waiting5).engine 0 with
        | .sweeping _ q n left _ => decide (q = .a) && decide (n = 1) && decide (left = 1024)
        | _ => false) = true := by decide +kernel

/-- A run of another port. -/
def runOf (p : Port) (c : ReqClass) : Run := { run5 with port := p, cls := c }

/-- All four engines busy, a ROUTINE run SWEEPING on engine 2, and port 5 URGENT at the head. -/
def preemptCase (powered : PairSet) : State :=
  let s := headCase powered
  { (((s.setEngine 0 (.sweeping (runOf 20 .urgent) .b 1 9 [])).setEngine 1 (.attaching (runOf 21 .routine) 9)).setEngine 2
      (.sweeping (runOf 22 .routine) .b 1 9 [])).setEngine 3 (.closing (runOf 23 .routine) .complete) with
    order := [0, 2, 1, 3] }

theorem test_hyps_PreemptionSuspendsTheLatestRoutineRun :
    (∀ f, (preemptCase 0).engine f ≠ .idle) ∧ (preemptCase 0).queue = entry 5 .urgent :: [entry 8 .routine]
      ∧ (preemptCase 0).bind = none ∧ ((preemptCase 0).port 5).tc.f.mode ≠ .lent
      ∧ (preemptCase 0).order = [0] ++ 2 :: [1, 3]
      ∧ (preemptCase 0).engine 2 = .sweeping (runOf 22 .routine) .b 1 9 []
      ∧ (preemptCase 0).engine 0 = .sweeping (runOf 20 .urgent) .b 1 9 [] ∧ (runOf 20 .urgent).cls = .urgent
      ∧ [entry 8 .routine] = [] ++ [entry 8 .routine]
      ∧ (entry 5 .urgent).pairs &&& ~~~((preemptCase 0x3#4).port 5).tc.f.powered = 0
      ∧ (bound 1 (preemptCase 0)).bind ≠ none := by decide +kernel

theorem test_preemption :
    (after .preemption (preemptCase 0)).queue = [(runOf 22 .routine).suspend, entry 8 .routine]
      ∧ ((after .preemption (preemptCase 0)).engine 2).run?.map (fun r => r.port) = some 5
      ∧ (after .preemption (preemptCase 0x3#4)).engine 2 = .sweeping (runOf 22 .routine) .b 1 9 [] := by decide +kernel

/-- A power notice of port 5. -/
def noticeOf (s : State) : State := State.also s fun ps => { ps with powerNotice := true }

theorem test_hyps_PowerNoticeAbortsTheRun :
    ((noticeOf (five (inMode .up))).port 5).powerNotice = true ∧ ((noticeOf (five (inMode .up))).port 5).tc.f.mode ≠ .lent
      ∧ ((noticeOf (lentTo (.attaching run5 1))).engineHolding 5 = some 0
        ∧ (noticeOf (lentTo (.attaching run5 1))).engine 0 = .attaching run5 1)
      ∧ (noticeOf (lentTo (.closing run5 .complete))).engine 0 = .closing run5 .complete
      ∧ ((noticeOf waiting5).engineHolding 5 = none ∧ (noticeOf waiting5).entryOf 5 = some suspended5
        ∧ ((noticeOf waiting5).port 5).tc.f.mode = .lent) := by decide +kernel

theorem test_power_notice :
    (after (.powerNotice 5) (noticeOf (lentTo (.sweeping run5 .b 1 9 [])))).engine 0 = .closing run5 .power
      ∧ ((after (.powerNotice 5) (noticeOf waiting5)).port 5).record.sched.status = .aborted
      ∧ (after (.powerNotice 5) (noticeOf waiting5)).errors.first
        = some { cause := .powerAbort, origin := .event, port := some 5 } := by decide +kernel

/-! ## Echo Probe Engines -/

theorem test_hyps_WaitExpiryEndsTheRun : (lentTo (.attaching run5 0)).engine 0 = .attaching run5 0 := by decide +kernel

theorem test_wait_expiry :
    (after (.waitExpiry 0) (lentTo (.attaching run5 0))).engine 0 = .closing run5 .noDetach
      ∧ (after (.waitExpiry 0) (lentTo (.attaching run5 1))).engine 0 = .attaching run5 1 := by decide +kernel

/-- Two candidates that an echo at 102 may match, equally near. -/
def twoOpen : List (Candidate × Bool) := [(⟨.open, 101, 85, 1, false⟩, false), (⟨.open, 103, 85, 1, false⟩, false)]

theorem test_an_echo_matches_one_candidate :
    takeEcho Settings.default.probe twoOpen ⟨102, 90, none⟩
        = [(⟨.open, 102, 90, 2, false⟩, true), (⟨.open, 103, 85, 1, false⟩, false)]
      ∧ takeEcho Settings.default.probe twoOpen.reverse ⟨102, 90, none⟩
        = [(⟨.open, 103, 85, 1, false⟩, false), (⟨.open, 102, 90, 2, false⟩, true)]
      ∧ sweepTable Settings.default.probe [] [⟨100, 90, none⟩, ⟨101, 91, none⟩]
        = [⟨.open, 100, 90, 1, false⟩, ⟨.open, 101, 91, 1, false⟩]
      ∧ takeEcho Settings.default.probe (List.replicate 8 (⟨.short, 9, -90, 1, false⟩, true)) ⟨102, 90, none⟩
        = List.replicate 8 (⟨.short, 9, -90, 1, false⟩, true) := by decide +kernel

theorem test_hyps_CountingEchoesAreClassifiedAndTabled :
    classifyEcho 10 ⟨9, 5, some (.c, 10)⟩ = some (.cross .c, 10) ∧ classifyEcho 10 ⟨9, 80, some (.c, 9)⟩ = some (.open, 80)
      ∧ classifyEcho 10 ⟨9, -80, none⟩ = some (.short, -80) ∧ classifyEcho 10 ⟨9, 79, none⟩ = some (.highZ, 79)
      ∧ classifyEcho 10 ⟨9, -10, none⟩ = some (.lowZ, -10) ∧ classifyEcho 0 ⟨9, 0, none⟩ = some (.lowZ, 0)
      ∧ classifyEcho 10 ⟨9, 9, none⟩ = none ∧ 7 < run5.latched.blanking ∧ run5.latched.blanking ≤ 8
      ∧ twoOpen = [(⟨.open, 101, 85, 1, false⟩, false)] ++ (⟨.open, 103, 85, 1, false⟩, false) :: []
      ∧ (103 - 102 : Nat) + (102 - 103) = (101 - 102) + (102 - 101)
      ∧ (List.replicate 8 ((⟨.short, 9, -90, 1, false⟩ : Candidate), true)).length = 8 := by decide

/-- Engine 0 at the end of a sweep of pair B or D, with one candidate seen twice. -/
def sweepCase (q : Pair) (n : Nat) : State :=
  lentTo (.sweeping { run5 with toSweep := 0xA#4, completed := if q = .d then [⟨.b, [], false⟩] else [] } q n 0
    [⟨.open, 203, 92, 2, false⟩])

theorem test_hyps_SweepCompletionGoesOnOrFinishesThePair :
    echoesPossible run5.latched.window .b [⟨203, 92, some (.a, 100)⟩] = true
      ∧ 4 < run5.latched.confirm + 2 ∧ run5.latched.confirm + 2 ≤ 5
      ∧ (sweepCase .b 5).engine 0
        = .sweeping { run5 with toSweep := 0xA#4 } .b 5 0 [⟨.open, 203, 92, 2, false⟩] := by decide +kernel

theorem test_sweep_completion :
    (match (after (.sweepCompletion 0 [⟨204, 91, none⟩]) (sweepCase .b 5)).engine 0 with
      | .sweeping r q n _ table =>
        decide (q = .d) && decide (n = 1) && decide (table = [])
          && decide (r.completed = [⟨.b, [⟨.open, 416, 91⟩], false⟩])
      | _ => false) = true
      ∧ (match (after (.sweepCompletion 0 []) (sweepCase .d 5)).engine 0 with
        | .closing _ x => decide (x = .complete)
        | _ => false) = true := by decide +kernel

/-- Engine 0 CLOSING with a result on pair B and, pair A being skipped at the dispatch and completed after a resumption,
one on pair A. -/
def endingCase (x : Ending) : State :=
  lentTo (.closing { run5 with completed := [⟨.b, [⟨.short, 100, -90⟩], false⟩, ⟨.a, [⟨.open, 200, 90⟩], false⟩] } x)

/-- Edges of an earlier update of port 5 wait for the Line Guard. -/
def edgesFirst (s : State) : State := State.also s fun ps => { ps with firings := [.edges [.open]] }

theorem test_hyps_EndingsReconcileAndReturnThePort :
    (endingCase .complete).bind = none ∧ (bound 1 (endingCase .complete)).bind ≠ none
      ∧ ((endingCase .complete).port 5).firings = [] ∧ ((endingCase .complete).port 5).tc.f.mode = .lent
      ∧ verdictEdges ((endingCase .complete).port 5).record
          (((endingCase .complete).reconcile 5 [⟨.b, [⟨.short, 100, -90⟩], false⟩]).port 5).record = [.short]
      ∧ ((endingCase .complete).port 5).record.guardMask.getLsbD GuardSource.short.bit = true
      ∧ ((endingCase .complete).port 5).tc.f.armed = true
      ∧ Ending.noDetach ∈ [Ending.cancelled, Ending.power, Ending.noDetach]
      ∧ Firing.edges [.open] ∈ ((edgesFirst (endingCase .complete)).port 5).firings := by decide +kernel

theorem test_endings :
    ((after (.takeEndingComplete 0) (endingCase .complete)).port 5).record.tc.heldCause = some .short
      ∧ ((after (.takeEndingComplete 0) (endingCase .complete)).port 5).record.ceiling = none
      ∧ ((after (.takeEndingComplete 0) (endingCase .complete)).port 5).record.findings.map (fun f => f.pair) = [.b]
      ∧ (((after (.takeEndingComplete 0) (endingCase .complete)).port 5).record.pairs.get .a).probed = false
      ∧ (((after (.takeEndingComplete 0) (endingCase .complete)).port 5).record.pairs.get .a).verdict = .untested
      ∧ ((after (.takeEndingComplete 0) (endingCase .complete)).port 5).record.sched
        = { status := .done, outcome := some { cause := .complete, skipped := 0x1#4 } }
      ∧ ((after (.takeEndingAborted 0) (endingCase .noDetach)).port 5).record.sched
        = { status := .aborted, outcome := some { cause := .noDetach, skipped := 0x1#4 } }
      ∧ (after (.takeEndingAborted 0) (endingCase .noDetach)).engine 0 = .idle
      ∧ (after (.takeEndingComplete 0) (edgesFirst (endingCase .complete))).engine 0
        = (endingCase .complete).engine 0 := by decide +kernel

/-! ## Port reset -/

/-- Engine 0 CLOSING with RESET for port 5. -/
def resetCase : State := { endingCase .reset with busy := some (.portReset 5 false) }

theorem test_hyps_PortResetResetsTheAccount :
    (waiting5.takesHost ∧ waiting5.page = false)
      ∧ ((five (inMode .up)).engineHolding 5 = none ∧ (five (inMode .up)).entryOf 5 = none)
      ∧ (asking .queued [entry 5 .routine]).entryOf 5 = some (entry 5 .routine)
      ∧ (waiting5.engineHolding 5 = none ∧ waiting5.entryOf 5 = some suspended5)
      ∧ ((lentTo (.attaching run5 1)).engineHolding 5 = some 0
        ∧ ((lentTo (.attaching run5 1)).engine 0).run? = some run5)
      ∧ resetCase.engine 0 = .closing { run5 with
          completed := [⟨.b, [⟨.short, 100, -90⟩], false⟩, ⟨.a, [⟨.open, 200, 90⟩], false⟩] } .reset
      ∧ (bound 1 resetCase).bind ≠ none ∧ resetCase.bind = none := by
  refine ⟨⟨⟨?_, ?_⟩, ?_⟩, ?_⟩ <;> decide +kernel

theorem test_port_reset :
    ((after (.portReset [5]) waiting5).port 5).record.sched
        = { status := .aborted, outcome := some { cause := .reset, skipped := 0 } }
      ∧ (after (.portReset [5]) (lentTo (.attaching run5 1))).busy = some (.portReset 5 false)
      ∧ (after (.takeEndingReset 0) resetCase).busy = none
      ∧ ((after (.takeEndingReset 0) resetCase).port 5).tc.f.mode = .parked := by decide +kernel

/-- Port 5's run SUSPENDED and a WITHDRAW of it untaken, under a bind, with port 9 WANTED. -/
def suspendedReset : State :=
  bound 9 ((State.also waiting5 fun ps => { ps with withdraws := [.short] }).modPort 9 fun ps =>
    { ps with
      sched := { status := .wanted, outcome := none }
      record := { ps.record with sched := { status := .wanted, outcome := none } } })

/-- The promotion that a suspended run's place brings waits for the end of the bind (R18); the reset update leaves no
WITHDRAW (R134). -/
theorem test_port_reset_of_a_suspended_run_under_a_bind :
    ((after (.portReset [5]) suspendedReset).port 9).sched.status = .queued
      ∧ ((after (.portReset [5]) suspendedReset).port 9).record.sched.status = .wanted
      ∧ (after (.portReset [5]) suspendedReset).endBind.busy = none
      ∧ ((after (.portReset [5]) suspendedReset).endBind.port 5).withdraws = []
      ∧ ((after (.portReset [5]) suspendedReset).endBind.port 9).record.sched.status = .queued := by decide +kernel

/-! ## Findings -/

/-- Port 5 with two findings, on page 1. -/
def foundCase : State :=
  { five { PortState.reset with
      record := LineRecord.rederive Settings.default
        { LineRecord.reset with findings := [findingA .open 100, findingA .short 200] } } with
    page := true }

theorem test_hyps_FindingsAreRetiredAndCleared :
    (foundCase.takesHost ∧ foundCase.page = true) ∧ 48 ≤ (0x30#8 : Byte).toNat ∧ (0x2F#8 : Byte).toNat = (47 : Port).val
      ∧ (foundCase.port 5).record.findings.length ≤ (0x02#8 : Byte).toNat
      ∧ (0x01#8 : Byte).toNat < (foundCase.port 5).record.findings.length := by
  refine ⟨⟨⟨?_, ?_⟩, ?_⟩, ?_⟩ <;> decide +kernel

theorem test_retire_and_clear_findings :
    ((after (.retire [5, 0]) foundCase).port 5).record.findings = [findingA .short 200]
      ∧ ((after (.retire [5, 0]) foundCase).port 5).firings = [.edges [.short]]
      ∧ (after (.retire [5, 2]) foundCase).errors.first = some { cause := .notFound, origin := .command, port := some 5 }
      ∧ ((after (.clearFindings [5]) foundCase).port 5).record.findings = [] := by decide +kernel

/-- A FADING finding of pair A. -/
def faded (d : Nat) : Finding := { findingA .open d with state := .fading }

/-- The matching of pair A: one finding kept, two results over. -/
def work2 : PairWork :=
  { pair := .a, more := false, kept := [findingA .highZ 300], fresh := [⟨.open, 500, 30⟩, ⟨.open, 600, 30⟩] }

theorem test_hyps_ReconciliationCoversTheRunsPairs :
    ((foundCase.port 5).record.findings.Pairwise fun f g => keyLe f.key g.key = true)
      ∧ ([⟨.b, [], true⟩] : List PairResult) = [] ++ ⟨.b, [], true⟩ :: []
      ∧ (⟨0, true, [], .const .reset⟩ : Adding).exhausted = true
      ∧ (⟨1, false, [], .const .reset⟩ : Adding).free + (work2.kept.length - work2.kept.length) < work2.fresh.length
      ∧ work2.fresh.length ≤ (⟨2, false, [], .const .reset⟩ : Adding).free
      ∧ [faded 9, findingA .open 30, faded 60] = [faded 9, findingA .open 30] ++ faded 60 :: [] ∧ (faded 60).state = .fading
      ∧ (findingA .open 30).state ≠ .fading := by decide +kernel

theorem test_results_are_added_while_the_pool_lasts :
    (addPair ⟨1, false, [], .const .reset⟩ work2).findings = [findingA .highZ 300, findingA .open 500]
      ∧ (addPair ⟨1, false, [], .const .reset⟩ work2).exhausted = true
      ∧ ((addPair ⟨1, false, [], .const .reset⟩ work2).pairs.get .a).truncated = true
      ∧ makeRoom 1 [faded 9, findingA .open 30, faded 60] = [faded 9, findingA .open 30]
      ∧ makeRoom 5 [faded 9, findingA .open 30, faded 60] = [findingA .open 30] := by decide +kernel

/-- Template 3 claims pair A of port 5 from 100 to 100. -/
def claiming : Vector Template 8 :=
  State.reset.templates.set 3 { valid := true, pairs := 0x1#4, firstPort := 5, lastPort := 5, low := 100, high := 100 }

theorem test_hyps_ReconciliationLeavesNoDuplicates :
    (⟨.a, [⟨.open, 105, 90⟩, ⟨.open, 106, 90⟩], false⟩ : PairResult)
        ∈ [(⟨.a, [⟨.open, 105, 90⟩, ⟨.open, 106, 90⟩], false⟩ : PairResult)]
      ∧ ((foundCase.reconcile 5 [⟨.a, [⟨.open, 105, 90⟩, ⟨.open, 106, 90⟩], false⟩]).port 5).record.findings
        = [{ findingA .open 105 with amplitude := 90, runs := 2, state := .standing },
           { findingA .short 200 with state := .fading }]
      ∧ (let y := claiming[(3 : TemplateId)]
        y.valid = true ∧ y.firstPort ≤ (5 : Port).val ∧ (5 : Port).val ≤ y.lastPort
          ∧ y.pairs.getLsbD Pair.a.index = true ∧ y.low ≤ 100 ∧ 100 ≤ y.high)
      ∧ (∀ j : TemplateId, j < 3 → (claiming[j]).valid = false)
      ∧ [findingA .open 10, findingA .open 15] = [] ++ findingA .open 10 :: ([] ++ findingA .open 15 :: [])
      ∧ (findingA .open 10).runs = (findingA .open 15).runs ∧ ¬ (findingA .open 15).distance < (findingA .open 10).distance
      ∧ (faded 10).state = .fading ∧ (findingA .open 10).state ≠ .fading := by decide +kernel

theorem test_matching_of_a_pair :
    classifyResult claiming 5 .a ⟨.highZ, 100, 30⟩ = ⟨.expected 3, 100, 30⟩
      ∧ classifyResult claiming 6 .a ⟨.highZ, 100, 30⟩ = ⟨.highZ, 100, 30⟩
      ∧ compactFindings 5 2 [findingA .open 10, findingA .open 15] = [findingA .open 10]
      ∧ collapseResults 5 [⟨.open, 10, 30⟩, ⟨.open, 15, 31⟩, ⟨.open, 16, 32⟩] = [⟨.open, 10, 30⟩, ⟨.open, 16, 32⟩]
      ∧ makePairings 5 [findingA .open 10, findingA .open 18] [⟨.open, 14, 30⟩, ⟨.open, 30, 30⟩] = [⟨4, 0, 0⟩]
      ∧ settleUnmatched 5 [findingA .open 15] (findingA .open 10) = none
      ∧ settleUnmatched 5 [findingA .open 16] (findingA .open 10) = some (faded 10)
      ∧ settleUnmatched 5 [] (faded 10) = none := by decide +kernel

/-! ## Invariants -/

/-- A port whose record shows its blocks' values. -/
def shown (ps : PortState) : PortState := { ps with record := { ps.record with tc := ps.tc.f, sched := ps.sched } }

/-- Engine 0 sweeping pair B of port 5, with port 7 queued and one finding held. -/
def atWork : State :=
  let s := (lentTo (.sweeping run5 .b 1 9 [])).setPort 7
    (shown { inMode .dark with sched := { status := .queued, outcome := none } })
  State.also { s with queue := [entry 7 .urgent] } fun ps =>
    shown { ps with record := { ps.record with findings := [findingA .highZ 100] } }

theorem test_a_step_is_taken_at_work : step atWork = .next (tick atWork) := rfl

theorem atWork_run (e : EngineId) : (atWork.engine e).run? = if e = 0 then some run5 else none := by
  revert e; decide +kernel

theorem test_hyps_EveryStepKeepsTheMachinesConsistent : atWork.machinesOk := by
  unfold State.machinesOk State.settingsOk Settings.inRange Template.inRange PortMachine.consistent
  decide +kernel

theorem test_hyps_EveryStepKeepsTheDerivedFields : atWork.recordsDerived ∧ atWork.recordsPublished := by
  constructor
  · unfold State.recordsDerived LineRecord.derived
    decide +kernel
  · have shows : ∀ p : Port, (atWork.port p).record.tc = (atWork.port p).tc.f
        ∧ (atWork.port p).record.sched = (atWork.port p).sched
        ∧ (atWork.port p).record.lastSource = (atWork.port p).lastSource := by decide +kernel
    have waits : ∀ p : Port, (atWork.port p).nothingWaits := by
      unfold PortState.nothingWaits
      decide +kernel
    have joint : ∀ p : Port, (atWork.port p).jointHasBothParts :=
      fun p hj => absurd (hj.symm.trans (waits p).2.2.2) (by decide)
    refine fun p => ⟨fun _ => waits p, joint p, fun _ => ⟨fun f _ => ?_, fun _ => ?_, fun _ => ?_, fun _ => (shows p).2.2⟩⟩
    · rw [(shows p).1]; cases f <;> simp [TcField.differs]
    · rw [(shows p).2.1]
    · rw [(shows p).2.1]

theorem test_hyps_EveryStepKeepsTheSerialSideInRange :
    atWork.managementOk ∧ atWork.errors.consistent ∧ atWork.transmitOk := by
  have hb : atWork.bind = none := by decide +kernel
  have hv : atWork.saved = none := by decide +kernel
  have hc : atWork.cursor.inRange = true := by decide +kernel
  have hw : atWork.busy = none := by decide +kernel
  refine ⟨⟨hc, by simp [hv], by simp [hb], by simp [hv], by simp [hw]⟩, ?_, ?_⟩
  · unfold ErrorSlot.consistent; decide +kernel
  · unfold State.transmitOk; decide +kernel

theorem test_hyps_EveryStepKeepsTheSchedulersAccount : atWork.schedulerOk := by
  have hq : atWork.queue = [entry 7 .urgent] := by decide +kernel
  have ho : atWork.order = [0] := by decide +kernel
  have hw : atWork.busy = none := by decide +kernel
  have hon (p : Port) : atWork.onEngine p ↔ p = 5 := by
    simp only [State.onEngine, atWork_run]
    constructor
    · rintro ⟨e, r, h, rfl⟩
      split at h <;> cases h
      rfl
    · rintro rfl
      exact ⟨0, run5, rfl, rfl⟩
  refine ⟨?_, ⟨?_, ?_, ?_, ?_⟩, ?_, ?_, ?_, ?_⟩
  · rw [hq]; unfold queueOk; decide
  · intro e f r q he hf _
    rw [atWork_run] at he hf
    split at he <;> split at hf <;> simp_all
  · intro e r he
    rw [atWork_run] at he
    split at he <;> cases he
    rw [hq]; decide
  · rw [ho]; decide
  · intro e; rw [ho, atWork_run]; revert e; decide
  · intro p
    rw [hon]
    simp only [State.hasQueued, State.hasSuspended, hq, hw]
    revert p; decide +kernel
  · intro e r he
    have := atWork_run e
    rw [he] at this
    simp only [Engine.run?] at this
    have h0 : e = 0 := by
      by_contra h; rw [if_neg h] at this; cases this
    subst h0
    exact absurd he (by
      have : atWork.engine 0 = .sweeping run5 .b 1 9 [] := by decide +kernel
      rw [this]; intro h; cases h)
  · simp [hw]
  · simp [hw]

theorem test_hyps_NoEngineDrivesAPoweredPair : atWork.powerOk ∧ atWork.drives 0 = some (5, .b) := by
  refine ⟨?_, by decide +kernel⟩
  unfold State.powerOk State.runUnpowered
  intro e
  have h0 : atWork.engine 0 = .sweeping run5 .b 1 9 [] := by decide +kernel
  have h1 : ∀ e : EngineId, e ≠ 0 → atWork.engine e = .idle := by decide +kernel
  by_cases h : e = 0
  · subst h; rw [h0]
    exact ⟨by decide +kernel, by decide⟩
  · rw [h1 e h]; trivial

theorem test_hyps_EveryStepKeepsTheFindings : atWork.findingsOk := by
  have hq : atWork.queue = [entry 7 .urgent] := by decide +kernel
  refine ⟨⟨?_, ?_⟩, by decide +kernel, ?_⟩
  · intro e r he
    rw [atWork_run] at he
    split at he <;> cases he
    intro x hx; cases hx
  · rw [hq]; intro x hx ctx hc
    simp only [List.mem_singleton] at hx
    subst hx; cases hc
  · intro p
    have : (atWork.port p).record.findings = if p = 5 then [findingA .highZ 100] else [] := by
      revert p; decide +kernel
    rw [this]
    refine ⟨fun q => ?_, ?_⟩
    · split <;> revert q <;> simp [Config.findingsPerPair]
      intro q; exact le_trans (List.length_filter_le _ _) (by decide)
    · split <;> simp

theorem test_hyps_BoundRecordsKeepStill :
    (bound 2 powerCase).bind ≠ none ∧ isHost (.takePower 5) = false ∧ isReset (.takePower 5) = false
      ∧ (exec (.takePower 5) (bound 2 powerCase) = .next (after (.takePower 5) (bound 2 powerCase)))
      ∧ TcField.powered ∈ ((after (.takePower 5) (bound 2 powerCase)).port 5).tcWaiting := by
  refine ⟨by decide +kernel, rfl, rfl, rfl, by decide +kernel⟩

end Sys2Proof.Tests
end

section

namespace Sys2Proof.Machine

/-! ### The machine functions keep a machine consistent (R2, R39, R59) -/

namespace PortMachine

variable {m : PortMachine} {c : TcContext}

/-- Nothing of a lending or of HELD is left in the machine: the return mode is DARK and no cause is held. -/
def Clear (m : PortMachine) : Prop := m.f.returnMode = .dark ∧ m.f.heldCause = none

theorem consistent.returnMode_eq (h : m.consistent) (hl : m.f.mode ≠ .lent) : m.f.returnMode = .dark := by
  obtain ⟨-, -, -, -, -, -, hreturn⟩ := h
  exact hreturn hl

theorem consistent.clear (h : m.consistent) (hl : m.f.mode ≠ .lent) (hh : m.f.mode ≠ .held) : m.Clear := by
  obtain ⟨-, -, -, -, -, hcause, hreturn⟩ := h
  exact ⟨hreturn hl, by simpa [hl, hh] using hcause⟩

theorem Clear.leaveAttempt_toMode_consistent (h : m.Clear) {mode : Mode}
    (hm : mode = .parked ∨ mode = .dark) : (m.leaveAttempt.toMode mode).consistent := by
  obtain ⟨hr, hc⟩ := h
  rcases hm with rfl | rfl <;> simp [consistent, leaveAttempt, toMode, hr, hc]

theorem hold_consistent (h : m.f.returnMode = .dark) (cause : HeldCause) : (m.hold cause).consistent := by
  simp [consistent, hold, leaveAttempt, h]

theorem Clear.advertise_consistent (h : m.Clear) (halted : Bool) : (m.advertise c halted).1.consistent := by
  obtain ⟨hr, hc⟩ := h
  unfold advertise
  split
  · exact hold_consistent hr _
  · simp [consistent, leaveAttempt, toMode, hr, hc]

theorem Clear.darkRule_consistent (h : m.Clear) (halted : Bool) : (m.darkRule c halted).1.consistent := by
  unfold darkRule
  split
  · exact Clear.advertise_consistent (m := m.toMode .dark) h halted
  · exact h.leaveAttempt_toMode_consistent (.inr rfl)

theorem Clear.startAttempt_consistent (h : m.Clear) (rate : Rate) {attempts : Nat} (ha : attempts ≤ 7) :
    (m.startAttempt rate attempts).1.consistent := by
  obtain ⟨hr, hc⟩ := h
  simp [consistent, startAttempt, hr, hc, ha]

/-- A change of the fields that consistency does not read. -/
theorem consistent.of_eq {n : PortMachine} (h : m.consistent) (hmode : n.f.mode = m.f.mode)
    (hreturn : n.f.returnMode = m.f.returnMode) (hcause : n.f.heldCause = m.f.heldCause)
    (hresolved : n.f.resolved = m.f.resolved) (hattempts : n.f.attempts = m.f.attempts)
    (hlisten : n.listen = m.listen) (htrain : n.train = m.train) : n.consistent := by
  simpa only [consistent, hmode, hreturn, hcause, hresolved, hattempts, hlisten, htrain] using h

theorem consistent.takePower (h : m.consistent) (pairs : PairSet) (fault : Bool) :
    (m.takePower pairs fault).m.consistent := h

theorem consistent.takeEnergy (h : m.consistent) (present : Bool) : (m.takeEnergy c present).m.consistent := by
  have live (hl : m.f.mode ≠ .lent) (hh : m.f.mode ≠ .held) := h.clear hl hh
  unfold PortMachine.takeEnergy
  cases present with
  | true =>
    simp only [if_true]
    split
    · next hm =>
      refine Clear.darkRule_consistent ?_ _
      exact live (by simp [hm]) (by simp [hm])
    · exact h
  | false =>
    simp only [Bool.false_eq_true, if_false]
    split
    case h_1 hm | h_2 hm | h_3 hm =>
      refine Clear.leaveAttempt_toMode_consistent ?_ (.inr rfl)
      exact live (by simp [hm]) (by simp [hm])
    case h_4 => exact h

theorem consistent.takeLost (h : m.consistent) : (m.takeLost c).m.consistent := by
  unfold PortMachine.takeLost
  split
  · next hm =>
    have hclear := h.clear (by simp [hm]) (by simp [hm])
    split
    · exact hclear.advertise_consistent _
    · exact hclear.leaveAttempt_toMode_consistent (.inr rfl)
  · exact h

theorem consistent.takeResultPass (h : m.consistent) (inverted : PairSet) (skew : PerPair Nat) (swap : Swap) :
    (m.takeResultPass inverted skew swap).m.consistent := by
  unfold PortMachine.takeResultPass
  split
  · next hm hr =>
    obtain ⟨hret, hcause⟩ := h.clear (by simp [hm]) (by simp [hm])
    simp [consistent, TcEffect.of, hret, hcause, hr]
  · exact h

theorem Clear.strike_consistent (h : m.Clear) (rate : Rate) : (m.strike c rate).m.consistent := by
  unfold strike
  dsimp only [TcEffect.of]
  split
  · refine (hold_consistent (m := m) h.1 .downshift).of_eq ?_ ?_ ?_ ?_ ?_ ?_ ?_ <;> rfl
  · refine Clear.advertise_consistent ?_ _
    exact h

theorem consistent.failAttempt (h : m.consistent) (ht : c.tries ≤ 7) : (m.failAttempt c).m.consistent := by
  unfold PortMachine.failAttempt
  split
  · next hm hr =>
    have hclear := h.clear (by simp [hm]) (by simp [hm])
    split
    · exact hclear.startAttempt_consistent _ (by omega)
    · split
      · exact hclear.strike_consistent _
      · exact hclear.startAttempt_consistent _ (by omega)
  · exact h

theorem consistent.takePage (h : m.consistent) (rates : RateSet) : (m.takePage c rates).m.consistent := by
  have live (hl : m.f.mode ≠ .lent) (hh : m.f.mode ≠ .held) := h.clear hl hh
  unfold PortMachine.takePage
  dsimp only
  split
  case h_1 hm =>
    split
    · refine Clear.startAttempt_consistent ?_ _ (by omega)
      exact live (by simp [hm]) (by simp [hm])
    · exact h
  case h_2 hm | h_3 hm =>
    split
    · refine Clear.startAttempt_consistent ?_ _ (by omega)
      exact live (by simp [hm]) (by simp [hm])
    · refine Clear.advertise_consistent ?_ _
      exact live (by simp [hm]) (by simp [hm])
  case h_4 => exact h

theorem consistent.listenExpiry (h : m.consistent) (hm : m.f.mode = .listen) : (m.listenExpiry c).m.consistent :=
  (h.clear (by simp [hm]) (by simp [hm])).advertise_consistent _

theorem consistent.lend (h : m.consistent) : m.lend.m.consistent := by
  obtain ⟨-, -, -, -, -, hcause, -⟩ := id h
  unfold PortMachine.lend
  cases hm : m.f.mode <;> simp_all [consistent, TcEffect.of, leaveAttempt]

theorem consistent.returnPort (h : m.consistent) (outcome : Ending) : (m.returnPort c outcome).m.consistent := by
  unfold PortMachine.returnPort
  split
  · next hm =>
    obtain ⟨hres, hatt, -, hlisten, htrain, hcause, -⟩ := id h
    simp only [hm, reduceCtorEq, or_self, iff_false, not_not, ne_eq, true_and, false_or, imp_false] at *
    split
    · next hd => exact Clear.darkRule_consistent ⟨rfl, by simpa [hd] using hcause⟩ _
    · next r hd =>
      cases hr : m.f.returnMode <;> simp_all [consistent, TcEffect.of, ReturnMode.mode]
  · exact h

theorem consistent.withdraw (h : m.consistent) (cause : HeldCause) : (m.withdraw cause).m.consistent := by
  have held (hl : m.f.mode ≠ .lent) : (m.hold cause).consistent := hold_consistent (h.returnMode_eq hl) cause
  unfold PortMachine.withdraw
  dsimp only
  split
  case h_1 hm | h_2 hm | h_3 hm | h_4 hm => exact (held (by simp [hm])).of_eq rfl rfl rfl rfl rfl rfl rfl
  case h_5 hm =>
    split
    · exact h
    · simp_all [consistent, TcEffect.of]
  case h_6 | h_7 => exact h

theorem consistent.park (h : m.consistent) : m.park.m.consistent := by
  unfold PortMachine.park
  dsimp only
  cases hm : m.f.mode <;> simp_all [consistent, TcEffect.of, TcEffect.carrying, leaveAttempt]

theorem consistent.unpark (h : m.consistent) : (m.unpark c).m.consistent := by
  unfold PortMachine.unpark
  split
  · next hm =>
    refine Clear.darkRule_consistent ?_ _
    exact h.clear (by simp [hm]) (by simp [hm])
  · split
    · simp_all [consistent, TcEffect.of, TcEffect.carrying]
    · exact h
  · exact h

theorem consistent.restart? (h : m.consistent) {out : TcEffect} (ho : m.restart? c = some out) :
    out.m.consistent := by
  unfold PortMachine.restart? at ho
  dsimp only at ho
  have live (hl : m.f.mode ≠ .lent) (hh : m.f.mode ≠ .held) := h.clear hl hh
  split at ho
  case h_1 hm | h_2 hm | h_3 hm =>
    cases ho
    exact Clear.darkRule_consistent (m := m.newEpisode.leaveAttempt) (live (by simp [hm]) (by simp [hm])) _
  case h_4 hm =>
    cases ho
    simp_all [consistent, TcEffect.of, TcEffect.carrying, newEpisode]
  case h_5 => cases ho

theorem consistent.rearm (h : m.consistent) : (m.rearm c).m.consistent := by
  unfold PortMachine.rearm
  dsimp only
  split
  · next hm =>
    refine Clear.darkRule_consistent ?_ _
    exact ⟨h.returnMode_eq (by simp [hm]), rfl⟩
  · split
    · simp_all [consistent, TcEffect.of, TcEffect.carrying]
    · exact h
  · exact h

theorem portReset_consistent (m : PortMachine) : m.portReset.consistent := by
  simp [consistent, portReset, PortMachine.reset, TcFields.reset]

end PortMachine
end Sys2Proof.Machine

end

section

namespace Sys2Proof.Machine

/-! ### What a frame keeps -/

section

variable {s t : State} (h : SameOutsidePorts s t)

include h

theorem SameOutsidePorts.groups : t.groups = s.groups := by rw [← show { t with ports := s.ports } = s from h]
theorem SameOutsidePorts.queue : t.queue = s.queue := by rw [← show { t with ports := s.ports } = s from h]
theorem SameOutsidePorts.engines : t.engines = s.engines := by rw [← show { t with ports := s.ports } = s from h]
theorem SameOutsidePorts.order : t.order = s.order := by rw [← show { t with ports := s.ports } = s from h]
theorem SameOutsidePorts.bind : t.bind = s.bind := by rw [← show { t with ports := s.ports } = s from h]
theorem SameOutsidePorts.busy : t.busy = s.busy := by rw [← show { t with ports := s.ports } = s from h]
theorem SameOutsidePorts.settings : t.settings = s.settings := by rw [← show { t with ports := s.ports } = s from h]
theorem SameOutsidePorts.templates : t.templates = s.templates := by rw [← show { t with ports := s.ports } = s from h]

end

/-- A property of every port after a change of one port. -/
theorem OnlyPort.forall_port {p : Port} {s t : State} (h : OnlyPort p s t) {P : Port → PortState → Prop}
    (hp : P p (t.port p)) (hs : ∀ q, q ≠ p → P q (s.port q)) : ∀ q, P q (t.port q) := by
  intro q
  by_cases hq : q = p
  · exact hq ▸ hp
  · exact (h.2 q hq).symm ▸ hs q hq

/-! ### What the Store and the writing blocks keep of a port -/

/-- The record, the working states of the writing blocks and their waiting updates are as they were. -/
structure PortState.SameBlocks (a b : PortState) : Prop where
  record : b.record = a.record
  tc : b.tc = a.tc
  sched : b.sched = a.sched
  lastSource : b.lastSource = a.lastSource
  tcWaiting : b.tcWaiting = a.tcWaiting
  schedWaiting : b.schedWaiting = a.schedWaiting
  guardWaiting : b.guardWaiting = a.guardWaiting
  jointWaiting : b.jointWaiting = a.jointWaiting

theorem PortState.SameBlocks.refl (a : PortState) : a.SameBlocks a := ⟨rfl, rfl, rfl, rfl, rfl, rfl, rfl, rfl⟩

theorem PortState.SameBlocks.published {a b : PortState} (h : a.SameBlocks b) : b.published ↔ a.published := by
  simp only [PortState.published, h.record, h.tc, h.sched, h.lastSource, h.tcWaiting, h.schedWaiting, h.guardWaiting]

theorem PortState.SameBlocks.nothingWaits {a b : PortState} (h : a.SameBlocks b) :
    b.nothingWaits ↔ a.nothingWaits := by
  simp only [PortState.nothingWaits, h.tcWaiting, h.schedWaiting, h.guardWaiting, h.jointWaiting]

theorem PortState.SameBlocks.jointHasBothParts {a b : PortState} (h : a.SameBlocks b) :
    b.jointHasBothParts ↔ a.jointHasBothParts := by
  simp only [PortState.jointHasBothParts, h.tcWaiting, h.schedWaiting, h.jointWaiting]

/-- No block's state and no setting changes, no bind closes, and no PORT-RESET begins or ends. -/
structure Quiet (s t : State) : Prop where
  blocks : ∀ p, (s.port p).SameBlocks (t.port p)
  settings : t.settings = s.settings
  templates : t.templates = s.templates
  bind : t.bind = none → s.bind = none
  busy : ∀ p b, t.busy = some (.portReset p b) ↔ s.busy = some (.portReset p b)

theorem Quiet.of_fields {s t : State} (ports : t.ports = s.ports) (settings : t.settings = s.settings)
    (templates : t.templates = s.templates) (bind : t.bind = s.bind) (busy : t.busy = s.busy) : Quiet s t where
  blocks p := by
    have : t.port p = s.port p := by simp only [State.port, ports]
    exact this ▸ PortState.SameBlocks.refl _
  settings := settings
  templates := templates
  bind := by rw [bind]; exact id
  busy := by simp [busy]

theorem Quiet.modPort (s : State) (p : Port) {f : PortState → PortState} (hf : (s.port p).SameBlocks (f (s.port p))) :
    Quiet s (s.modPort p f) where
  blocks := (OnlyPort.modPort s p f).forall_port (P := fun q b => (s.port q).SameBlocks b)
    (by simpa using hf) fun q _ => PortState.SameBlocks.refl _
  settings := rfl
  templates := rfl
  bind := id
  busy _ _ := .rfl

theorem Quiet.resetting {s t : State} (h : Quiet s t) (p : Port) : t.resetting p ↔ s.resetting p := by
  simp only [State.resetting, h.busy]

/-- A quiet change of the Management Port's or the host's: the queue and the engines are as they were too. -/
structure HostQuiet (s t : State) : Prop extends Quiet s t where
  queue : t.queue = s.queue
  engines : t.engines = s.engines
  order : t.order = s.order

/-! ### The Store's application of an update, said of one port (R13 to R15) -/

/-- What the Store leaves of record `a` when it applies `r`. -/
def LineRecord.applied (a r : LineRecord) : LineRecord :=
  if r = a then a else { r.withEffectiveOffer with generation := a.generation + 1 }

theorem State.commit_eq (s : State) (p : Port) (r : LineRecord) :
    s.commit p r = s.setPort p
      { s.port p with
        record := (s.port p).record.applied r
        inChangeSet := (s.port p).inChangeSet || decide (r ≠ (s.port p).record) } := by
  by_cases h : r = (s.port p).record
  · rw [h, State.commit_same]
    simp only [LineRecord.applied, if_true, ne_eq, not_true_eq_false, decide_false, Bool.or_false]
    exact (State.setPort_port s p).symm
  · rw [State.commit_changed s h]
    simp [LineRecord.applied, h]

/-- The port after the Store has applied an update of it. -/
def PortState.apply (set : Settings) (u : Update) (ps : PortState) : PortState :=
  { ps with
    record := ps.record.applied (ps.updated set u)
    inChangeSet := ps.inChangeSet || decide (ps.updated set u ≠ ps.record) }

theorem State.apply_eq (s : State) (p : Port) (u : Update) :
    s.apply p u = s.modPort p (PortState.apply s.settings u) := State.commit_eq s p _

theorem LineRecord.applied_writers (a r : LineRecord) :
    (a.applied r).tc = r.tc ∧ (a.applied r).sched = r.sched ∧ (a.applied r).lastSource = r.lastSource := by
  unfold LineRecord.applied
  split
  · next h => simp [h]
  · exact ⟨rfl, rfl, rfl⟩

/-- An applied update leaves its fields in the record at the values the blocks have. -/
theorem PortState.apply_writers (set : Settings) (u : Update) (ps : PortState) :
    (ps.apply set u).record.tc = u.tc.foldl (TcField.copy ps.tc.f) ps.record.tc
      ∧ (ps.apply set u).record.sched = u.sched.foldl (SchedField.copy ps.sched) ps.record.sched
      ∧ (ps.apply set u).record.lastSource = (if u.guard then ps.lastSource else ps.record.lastSource) := by
  obtain ⟨h1, h2, h3⟩ := LineRecord.applied_writers ps.record (ps.updated set u)
  obtain ⟨u1, u2, u3, -⟩ := PortState.updated_rest set u ps
  exact ⟨h1.trans u1, h2.trans u2, h3.trans u3⟩

/-! ### The ceiling of a record (R11, R12) -/

/-- A record to be applied has its ceiling derived, or keeps ceiling and verdicts. -/
def LineRecord.KeepsCeiling (a r : LineRecord) : Prop :=
  r.ceiling = ceilingOf r.verdicts ∨ (r.ceiling = a.ceiling ∧ r.pairs = a.pairs)

theorem LineRecord.rederive_keepsCeiling (set : Settings) (a r : LineRecord) : a.KeepsCeiling (r.rederive set) :=
  .inl rfl

theorem PortState.updated_keepsCeiling (set : Settings) (u : Update) (ps : PortState) :
    ps.record.KeepsCeiling (ps.updated set u) := by
  unfold PortState.updated
  dsimp only
  split
  · exact LineRecord.rederive_keepsCeiling _ _ _
  · exact .inr ⟨rfl, rfl⟩

/-- Applying a record leaves it derived, where the one it replaces was. -/
theorem LineRecord.applied_derived {a r : LineRecord} (hd : a.derived) (hr : a.KeepsCeiling r) :
    (a.applied r).derived := by
  unfold LineRecord.applied
  split
  · exact hd
  · refine ⟨?_, rfl⟩
    rcases hr with hr | ⟨hc, hp⟩
    · exact hr
    · show r.ceiling = ceilingOf (PerPair.build fun q => (r.pairs.get q).verdict)
      rw [hc, hp]
      exact hd.1

theorem State.commit_derived {s : State} {p : Port} {r : LineRecord} (hd : (s.port p).record.derived)
    (hr : (s.port p).record.KeepsCeiling r) : ((s.commit p r).port p).record.derived := by
  rw [State.commit_eq, State.port_setPort_self]
  exact LineRecord.applied_derived hd hr

theorem PortState.apply_derived {ps : PortState} (hd : ps.record.derived) (set : Settings) (u : Update) :
    (ps.apply set u).record.derived :=
  LineRecord.applied_derived hd (PortState.updated_keepsCeiling _ _ _)

theorem State.apply_derived {s : State} {p : Port} (hd : (s.port p).record.derived) (u : Update) :
    ((s.apply p u).port p).record.derived :=
  State.commit_derived hd (PortState.updated_keepsCeiling _ _ _)

@[simp] theorem PortState.record_unwait (u : Update) (ps : PortState) : (ps.unwait u).record = ps.record := rfl
@[simp] theorem PortState.record_wait (u : Update) (ps : PortState) : (ps.wait u).record = ps.record := rfl

theorem State.submit_derived {s : State} {p : Port} (hd : (s.port p).record.derived) (host : Bool) (u : Update) :
    ((s.submit host p u).port p).record.derived := by
  unfold State.submit
  split
  · exact State.apply_derived (by simpa using hd) u
  · simpa using hd

theorem State.event_derived {s : State} {p : Port} (hd : (s.port p).record.derived) (host : Bool) (out : TcEffect)
    (sched : SchedFields) : ((s.event host p out sched).port p).record.derived := by
  rw [State.event_eq_submit]
  exact State.submit_derived (by simpa [handedPort, eventPort] using hd) _ _

/-! ### The publishing of an event keeps a port published (R13, R18 to R21) -/

section

variable {host : Bool} {carried : List TcField} {p : Port} {s t : State}

theorem TcField.differs_trans {a b c : TcFields} {f : TcField} (h : TcField.differs a b f = false)
    (k : TcField.differs b c f = false) : TcField.differs a c f = false := by
  rw [TcField.differs_congr h (TcField.differs_self c f)]
  exact k

theorem Publishes.published (h : Publishes host carried p s t) (hl : (t.port p).lastSource = (s.port p).lastSource)
    (hp : (s.port p).published) : (t.port p).published := by
  obtain ⟨hnow, hlater, hguard, hsource, -⟩ := h
  obtain ⟨ptc, pstatus, poutcome, pguard⟩ := hp
  have keeps {f : TcField}
      (hw : ¬ (TcField.differs (s.port p).tc.f (t.port p).tc.f f = true ∨ f ∈ carried)) :
      TcField.differs (s.port p).tc.f (t.port p).tc.f f = false := by
    simpa using (not_or.1 hw).1
  by_cases ha : s.atOnce host
  · obtain ⟨hwrites, hrest, hstatus, hstatus', houtcome, houtcome', -⟩ := hnow ha
    refine ⟨fun f hf => ?_, fun hf => ?_, fun hf => ?_, ?_⟩
    · by_cases hw : TcField.differs (s.port p).tc.f (t.port p).tc.f f = true ∨ f ∈ carried
      · exact (hwrites f hw).1
      · obtain ⟨hr, hm⟩ := hrest f hw
        exact TcField.differs_trans hr (TcField.differs_trans (ptc f (hm.not.1 hf)) (keeps hw))
    · by_cases hs : (t.port p).sched.status = (s.port p).sched.status
      · obtain ⟨hr, hm⟩ := hstatus' hs
        rw [hr, hs, pstatus (hm.not.1 hf)]
      · exact (hstatus hs).1
    · by_cases hs : (t.port p).sched.outcome = (s.port p).sched.outcome
      · obtain ⟨hr, hm⟩ := houtcome' hs
        rw [hr, hs, poutcome (hm.not.1 hf)]
      · exact (houtcome hs).1
    · rw [hguard, hsource, hl]; exact pguard
  · obtain ⟨hrecord, -, hm, hstatus, houtcome, -⟩ := hlater ha
    refine ⟨fun f hf => ?_, fun hf => ?_, fun hf => ?_, ?_⟩
    · obtain ⟨hf', hw⟩ := not_or.1 ((hm f).not.1 hf)
      rw [hrecord]
      exact TcField.differs_trans (ptc f hf') (keeps hw)
    · obtain ⟨hf', hs⟩ := not_or.1 (hstatus.not.1 hf)
      rw [hrecord, pstatus hf', not_not.1 hs]
    · obtain ⟨hf', hs⟩ := not_or.1 (houtcome.not.1 hf)
      rw [hrecord, poutcome hf', not_not.1 hs]
    · rw [hguard, hsource, hl]; exact pguard

theorem SchedField.eq_nil_iff {l : List SchedField} : l = [] ↔ .status ∉ l ∧ .outcome ∉ l := by
  constructor
  · rintro rfl; simp
  · rintro ⟨h1, h2⟩
    refine List.eq_nil_iff_forall_not_mem.2 fun f => ?_
    cases f <;> assumption

theorem Publishes.nothingWaits (h : Publishes host carried p s t) (hb : s.bind = none)
    (hn : (s.port p).nothingWaits) : (t.port p).nothingWaits := by
  obtain ⟨htc, hsched, hguard, hjoint⟩ := hn
  obtain ⟨hnow, -, hg, -⟩ := h
  obtain ⟨hwrites, hrest, hstatus, hstatus', houtcome, houtcome', hj⟩ := hnow (.inr hb)
  simp only [hsched, List.not_mem_nil, iff_false] at hstatus' houtcome'
  refine ⟨List.eq_nil_iff_forall_not_mem.2 fun f => ?_, SchedField.eq_nil_iff.2 ⟨?_, ?_⟩, hg.trans hguard, ?_⟩
  · by_cases hw : TcField.differs (s.port p).tc.f (t.port p).tc.f f = true ∨ f ∈ carried
    · exact (hwrites f hw).2
    · simpa [htc] using (hrest f hw).2
  · by_cases hs : (t.port p).sched.status = (s.port p).sched.status
    · exact (hstatus' hs).2
    · exact (hstatus hs).2
  · by_cases hs : (t.port p).sched.outcome = (s.port p).sched.outcome
    · exact (houtcome' hs).2
    · exact (houtcome hs).2
  · simpa [hjoint] using hj

theorem SchedFields.ne_iff {a b : SchedFields} : a ≠ b ↔ a.status ≠ b.status ∨ a.outcome ≠ b.outcome := by
  cases a; cases b
  simp only [ne_eq, SchedFields.mk.injEq]
  tauto

theorem Publishes.jointHasBothParts (h : Publishes host carried p s t) (hj : (s.port p).jointHasBothParts) :
    (t.port p).jointHasBothParts := by
  obtain ⟨hnow, hlater, -⟩ := h
  intro hjoint
  by_cases ha : s.atOnce host
  · obtain ⟨-, -, -, -, -, -, hiff⟩ := hnow ha
    obtain ⟨hold, htc, hsched⟩ := hiff.1 hjoint
    exact ⟨htc.not.2 (hj hold).1, hsched.not.2 (hj hold).2⟩
  · obtain ⟨-, -, hm, hstatus, houtcome, hiff⟩ := hlater ha
    rw [ne_eq, ne_eq, SchedField.eq_nil_iff, List.eq_nil_iff_forall_not_mem]
    simp only [hm, hstatus, houtcome]
    rcases hiff.1 hjoint with hold | ⟨⟨f, hf⟩, hs⟩
    · obtain ⟨htc, hsched⟩ := hj hold
      rw [ne_eq, List.eq_nil_iff_forall_not_mem] at htc
      rw [ne_eq, SchedField.eq_nil_iff] at hsched
      exact ⟨fun hn => htc fun f hf => hn f (.inl hf), fun hn => hsched ⟨fun k => hn.1 (.inl k), fun k => hn.2 (.inl k)⟩⟩
    · refine ⟨fun hn => hn f (.inr hf), fun hn => ?_⟩
      rcases SchedFields.ne_iff.1 hs with hs | hs
      · exact hn.1 (.inr hs)
      · exact hn.2 (.inr hs)

end
end Sys2Proof.Machine

end

section

namespace Sys2Proof.Machine

theorem SchedField.foldl_copy_status (src : SchedFields) (l : List SchedField) (dst : SchedFields) :
    (l.foldl (SchedField.copy src) dst).status = if .status ∈ l then src.status else dst.status := by
  induction l generalizing dst with
  | nil => rfl
  | cons f l ih =>
    rw [List.foldl_cons, ih]
    cases f <;> simp [SchedField.copy]

theorem SchedField.foldl_copy_outcome (src : SchedFields) (l : List SchedField) (dst : SchedFields) :
    (l.foldl (SchedField.copy src) dst).outcome = if .outcome ∈ l then src.outcome else dst.outcome := by
  induction l generalizing dst with
  | nil => rfl
  | cons f l ih =>
    rw [List.foldl_cons, ih]
    cases f <;> simp [SchedField.copy]

/-! ### The waiting updates of a port (R21) -/

/-- The port after its waiting updates have been applied. -/
def PortState.applyWaiting (set : Settings) (ps : PortState) : PortState :=
  let first :=
    if ps.jointWaiting then
      ps.discardWaiting.apply set { tc := ps.tcWaiting, sched := ps.schedWaiting, guard := false }
    else
      (ps.discardWaiting.apply set { Update.none with tc := ps.tcWaiting }).apply set
        { Update.none with sched := ps.schedWaiting }
  first.apply set { Update.none with guard := ps.guardWaiting }

theorem State.modPort_modPort (s : State) (p : Port) (f g : PortState → PortState) :
    (s.modPort p f).modPort p g = s.modPort p fun a => g (f a) := by
  simp [State.modPort]

theorem State.applyWaiting_eq (s : State) (p : Port) :
    s.applyWaiting p = s.modPort p (PortState.applyWaiting s.settings) := by
  have hd : s.setPort p { s.port p with tcWaiting := [], schedWaiting := [], guardWaiting := false, jointWaiting := false }
      = s.modPort p PortState.discardWaiting := rfl
  simp only [State.applyWaiting, hd, State.apply_eq, State.settings_modPort, State.modPort_modPort]
  cases h : (s.port p).jointWaiting <;>
    simp [State.modPort, PortState.applyWaiting, h]

/-- A change made to each port of a list in turn. -/
theorem State.foldl_modPort_port (f : PortState → PortState) (s : State) (l : List Port) (h : l.Nodup) (q : Port) :
    (l.foldl (fun t p => t.modPort p f) s).port q = if q ∈ l then f (s.port q) else s.port q := by
  induction l generalizing s with
  | nil => rfl
  | cons p l ih =>
    obtain ⟨hp, hl⟩ := List.nodup_cons.1 h
    rw [List.foldl_cons, ih _ hl, State.port_modPort]
    by_cases hq : q = p
    · subst hq; simp [hp]
    · simp [hq]

theorem State.foldl_modPort_outside (f : PortState → PortState) (s : State) (l : List Port) :
    SameOutsidePorts s (l.foldl (fun t p => t.modPort p f) s) := by
  induction l generalizing s with
  | nil => rfl
  | cons p l ih => exact (SameOutsidePorts.setPort s p _).trans (ih (s.modPort p f))

theorem State.applyAllWaiting_eq (s : State) :
    s.applyAllWaiting = allPorts.foldl (fun t p => t.modPort p (PortState.applyWaiting s.settings)) s := by
  unfold State.applyAllWaiting
  generalize hset : s.settings = set
  induction allPorts generalizing s with
  | nil => rfl
  | cons p l ih =>
    rw [List.foldl_cons, List.foldl_cons, ih _ (by rw [State.applyWaiting_eq]; exact hset), State.applyWaiting_eq, hset]

theorem State.applyAllWaiting_port (s : State) (p : Port) :
    s.applyAllWaiting.port p = (s.port p).applyWaiting s.settings := by
  rw [State.applyAllWaiting_eq, State.foldl_modPort_port _ _ _ (by rw [allPorts_eq]; exact List.nodup_finRange 48),
    if_pos (mem_allPorts p)]

theorem State.applyAllWaiting_outside (s : State) : SameOutsidePorts s s.applyAllWaiting := by
  rw [State.applyAllWaiting_eq]
  exact State.foldl_modPort_outside _ _ _

theorem PortState.applyWaiting_derived {ps : PortState} (hd : ps.record.derived) (set : Settings) :
    (ps.applyWaiting set).record.derived := by
  unfold PortState.applyWaiting
  refine PortState.apply_derived ?_ _ _
  split
  · exact PortState.apply_derived (ps := ps.discardWaiting) hd _ _
  · exact PortState.apply_derived (PortState.apply_derived (ps := ps.discardWaiting) hd _ _) _ _

/-- The waiting fields are in the record at the values their blocks have. -/
theorem PortState.applyWaiting_writers (set : Settings) (ps : PortState) :
    (ps.applyWaiting set).record.tc = ps.tcWaiting.foldl (TcField.copy ps.tc.f) ps.record.tc
      ∧ (ps.applyWaiting set).record.sched = ps.schedWaiting.foldl (SchedField.copy ps.sched) ps.record.sched
      ∧ (ps.applyWaiting set).record.lastSource = (if ps.guardWaiting then ps.lastSource else ps.record.lastSource) := by
  cases h : ps.jointWaiting <;>
    simp only [PortState.applyWaiting, h, if_true, if_false, Bool.false_eq_true, PortState.apply_writers] <;>
    exact ⟨rfl, rfl, rfl⟩

/-- The end of a bind touches no more of a port than its record, its place in the change set and what waits. -/
theorem PortState.applyWaiting_rest (set : Settings) (ps : PortState) :
    ps.applyWaiting set = { ps.discardWaiting with
      record := (ps.applyWaiting set).record, inChangeSet := (ps.applyWaiting set).inChangeSet } := by
  cases h : ps.jointWaiting <;> simp [PortState.applyWaiting, h, PortState.apply, PortState.discardWaiting]

theorem PortState.applyWaiting_nothingWaits (set : Settings) (ps : PortState) :
    (ps.applyWaiting set).nothingWaits := by
  rw [PortState.applyWaiting_rest]
  exact ⟨rfl, rfl, rfl, rfl⟩

theorem PortState.applyWaiting_published {ps : PortState} (hp : ps.published) (set : Settings) :
    (ps.applyWaiting set).published := by
  obtain ⟨ptc, pstatus, poutcome, pguard⟩ := hp
  obtain ⟨htc, hsched, hsource⟩ := PortState.applyWaiting_writers set ps
  have hrest := PortState.applyWaiting_rest set ps
  have etc : (ps.applyWaiting set).tc = ps.tc := by rw [hrest]; rfl
  have esched : (ps.applyWaiting set).sched = ps.sched := by rw [hrest]; rfl
  have esource : (ps.applyWaiting set).lastSource = ps.lastSource := by rw [hrest]; rfl
  refine ⟨fun f _ => ?_, fun _ => ?_, fun _ => ?_, fun _ => ?_⟩
  · rw [htc, etc, TcField.foldl_copy]
    by_cases hf : f ∈ ps.tcWaiting
    · simp [hf]
    · simpa [hf] using ptc f hf
  · rw [hsched, esched, SchedField.foldl_copy_status]
    by_cases hf : SchedField.status ∈ ps.schedWaiting
    · simp [hf]
    · simpa [hf] using pstatus hf
  · rw [hsched, esched, SchedField.foldl_copy_outcome]
    by_cases hf : SchedField.outcome ∈ ps.schedWaiting
    · simp [hf]
    · simpa [hf] using poutcome hf
  · rw [hsource, esource]
    split
    · rfl
    · next hg => exact pguard (by simpa using hg)

end Sys2Proof.Machine

end

section

namespace Sys2Proof.Machine

/-! ## What a command can do: the acts it is made of -/

/-- A record the Store is given outside the blocks' own updates: the writing blocks' fields as they stand. -/
structure LineRecord.StoreUpdate (a r : LineRecord) : Prop where
  tc : r.tc = a.tc
  sched : r.sched = a.sched
  lastSource : r.lastSource = a.lastSource
  ceiling : a.KeepsCeiling r

/-- One thing a command does to the part. With `free`, what only a host command, the end of a bind or a device reset
does is allowed too: to change a record under a bind, to end the bind, and to write settings. -/
inductive Act (free : Bool) (s : State) : State → Prop where
  /-- Nothing of the records, the blocks or the settings changes. -/
  | quiet (t : State) (h : Quiet s t)
      (hc : free = false → ∀ p, (t.port p).inChangeSet = (s.port p).inChangeSet) : Act free s t
  /-- An event of the Training Controller and the Scheduler (R13, R38). -/
  | event (host : Bool) (p : Port) (out : TcEffect) (sched : SchedFields) (hh : host = true → free = true)
      (hm : s.settings.inRange → (s.port p).tc.consistent → out.m.consistent) : Act free s (s.event host p out sched)
  /-- The Line Guard records a source (R128). -/
  | guard (p : Port) (x : GuardSource) :
      Act free s ((s.modPort p fun ps => { ps with lastSource := some x }).submit false p
        { Update.none with guard := true })
  /-- The host's or the Reconciler's update of a record (R4, R110, R119). -/
  | store (p : Port) (r : LineRecord) (hb : free = true ∨ s.bind = none) (h : (s.port p).record.StoreUpdate r) :
      Act free s (s.commit p r)
  /-- A PORT-RESET is made (R23). -/
  | portReset (p : Port) (aborted : Bool) (hb : free = true ∨ s.bind = none) (h : ∀ q, s.resetting q → q = p) :
      Act free s (s.completePortReset p aborted)
  /-- A PORT-RESET begins to wait for its run's ending (R85, R150). -/
  | portResetWaits (p : Port) (suspended : Bool) (hf : free = true) (h : ∀ q, ¬ s.resetting q) :
      Act free s { s.modPort p PortState.discardWaiting with busy := some (.portReset p suspended) }
  /-- The bind closes and the waiting updates are applied (R21). -/
  | bindEnds (hf : free = true) :
      Act free s (State.applyAllWaiting { s with bind := none, cursor := s.saved.getD s.cursor, saved := none })
  /-- A setting is written (R143, R157). -/
  | setting (x : Settings) (hf : free = true) (h : s.settings.inRange → x.inRange) : Act free s { s with settings := x }
  /-- A template is written (R143, R158). -/
  | template (i : TemplateId) (x : Template) (hf : free = true) (h : (s.templates[i]).inRange → x.inRange) :
      Act free s { s with templates := s.templates.set i x }
  /-- A device reset puts the ports, the settings and the templates to their reset values (R159). -/
  | deviceReset (t : State) (hf : free = true) (hports : t.ports = State.reset.ports)
      (hsettings : t.settings = State.reset.settings) (htemplates : t.templates = State.reset.templates) : Act free s t

/-- Acts one after another. -/
abbrev Acts (free : Bool) : State → State → Prop := Relation.ReflTransGen (Act free)

/-- What every act keeps, acts one after another keep. -/
theorem Acts.keeps {free : Bool} {I : State → Prop} (hact : ∀ {s t}, Act free s t → I s → I t) {s t : State}
    (h : Acts free s t) (hs : I s) : I t := by
  induction h with
  | refl => exact hs
  | tail _ hlast ih => exact hact hlast ih

/-! ### The training machines (R2, R39, R59, R157, R158) -/

theorem State.port_of_ports {s t : State} (h : t.ports = s.ports) (p : Port) : t.port p = s.port p := by
  simp only [State.port, h]

theorem State.reset_port (p : Port) : State.reset.port p = .reset := by
  simp [State.reset, State.port]

theorem State.commit_tc (s : State) (p : Port) (r : LineRecord) : ((s.commit p r).port p).tc = (s.port p).tc := by
  rw [State.commit_port]

theorem State.submit_tc (s : State) (host : Bool) (p : Port) (u : Update) :
    ((s.submit host p u).port p).tc = (s.port p).tc := by
  rw [State.submit_port]; rfl

/-- What the reset update of a port leaves (R23, R66, R126). -/
theorem State.portResetUpdate_leaves (s : State) (p : Port) (aborted : Bool) :
    PortResetLeaves aborted p s (s.portResetUpdate p aborted) := by
  refine ⟨(OnlyPort.setPort s p _).trans (State.hand_onlyPort _ p _), ?_, ?_⟩
  · simp only [Handed, State.portResetUpdate, State.hand, State.port_modPort_self, State.port_setPort_self]
    rfl
  · simp only [State.portResetUpdate, State.hand, State.port_modPort_self, State.port_setPort_self]
    cases aborted <;> rfl

theorem State.port_completePortReset (s : State) (p q : Port) (aborted : Bool) :
    (s.completePortReset p aborted).port q = (s.portResetUpdate p aborted).port q := rfl

theorem State.settingsOk_congr {s t : State} (h : t.settings = s.settings) (k : t.templates = s.templates) :
    t.settingsOk ↔ s.settingsOk := by
  simp only [State.settingsOk, h, k]

theorem State.machinesOk_of_onlyPort {s t : State} {p : Port} (h : OnlyPort p s t) (hs : s.machinesOk)
    (hp : (t.port p).tc.consistent) : t.machinesOk := by
  refine ⟨(State.settingsOk_congr h.1.settings h.1.templates).2 hs.1, ?_⟩
  exact h.forall_port (P := fun _ a => a.tc.consistent) hp fun q _ => hs.2 q

theorem Act.machinesOk {free : Bool} {s t : State} (h : Act free s t) (hs : s.machinesOk) : t.machinesOk := by
  have hset := hs.1.1
  have hports := hs.2
  cases h with
  | quiet _ h _ =>
    exact ⟨(State.settingsOk_congr h.settings h.templates).2 hs.1, fun p => (h.blocks p).tc ▸ hports p⟩
  | event host p out sched _ hm =>
    refine State.machinesOk_of_onlyPort (State.event_onlyPort s host p out sched) hs ?_
    rw [State.event_tc]
    exact hm hset (hports p)
  | guard p x =>
    refine State.machinesOk_of_onlyPort ((OnlyPort.modPort s p _).trans (State.submit_onlyPort _ _ p _)) hs ?_
    rw [State.submit_tc, State.port_modPort_self]
    exact hports p
  | store p r _ _ =>
    refine State.machinesOk_of_onlyPort (State.commit_onlyPort s p r) hs ?_
    rw [State.commit_tc]
    exact hports p
  | portReset p aborted _ _ =>
    obtain ⟨honly, -, heq⟩ := State.portResetUpdate_leaves s p aborted
    refine ⟨hs.1, fun q => ?_⟩
    by_cases hq : q = p
    · subst hq
      rw [State.port_completePortReset, heq]
      exact PortMachine.portReset_consistent _
    · rw [State.port_completePortReset, honly.2 q hq]
      exact hports q
  | portResetWaits p b _ _ =>
    refine State.machinesOk_of_onlyPort (t := s.modPort p _) (OnlyPort.modPort s p PortState.discardWaiting) hs ?_
    rw [State.port_modPort_self]
    exact hports p
  | bindEnds _ =>
    have hout := State.applyAllWaiting_outside { s with bind := none, cursor := s.saved.getD s.cursor, saved := none }
    refine ⟨(State.settingsOk_congr hout.settings hout.templates).2 hs.1, fun p => ?_⟩
    rw [State.applyAllWaiting_port, PortState.applyWaiting_rest]
    exact hports p
  | setting x _ h => exact ⟨⟨h hset, hs.1.2⟩, hports⟩
  | template i x _ h =>
    refine ⟨⟨hset, fun j => ?_⟩, hports⟩
    show ((s.templates.set i x)[j]).inRange
    rw [Fin.getElem_fin, Vector.getElem_set]
    split
    · exact h (hs.1.2 i)
    · exact hs.1.2 j
  | deviceReset _ _ hp hset' htemp =>
    refine ⟨⟨?_, fun i => ?_⟩, fun p => ?_⟩
    · rw [hset']; simp [Settings.inRange, State.reset, Settings.default]
    · rw [htemp]; simp [Template.inRange, State.reset, Template.reset]
    · rw [State.port_of_ports hp, State.reset_port]
      simp [PortMachine.consistent, PortState.reset, PortMachine.reset, TcFields.reset]

/-! ### The ceiling and the effective offer (R11, R12) -/

theorem State.recordsDerived_of_onlyPort {s t : State} {p : Port} (h : OnlyPort p s t) (hs : s.recordsDerived)
    (hp : (t.port p).record.derived) : t.recordsDerived :=
  h.forall_port (P := fun _ a => a.record.derived) hp fun q _ => hs q

theorem LineRecord.reset_derived (tc : TcFields) (sched : SchedFields) (g : BitVec 16) (h : tc.struck = 0) :
    ({ LineRecord.reset with tc := tc, sched := sched, generation := g } : LineRecord).derived := by
  refine ⟨rfl, ?_⟩
  rw [h]
  show 0xF#4 = offeredRates 0xF#4 0 (some .t2500)
  decide

theorem Act.recordsDerived {free : Bool} {s t : State} (h : Act free s t) (hs : s.recordsDerived) :
    t.recordsDerived := by
  cases h with
  | quiet _ h _ => exact fun p => (h.blocks p).record ▸ hs p
  | event host p out sched _ _ =>
    exact State.recordsDerived_of_onlyPort (State.event_onlyPort s host p out sched) hs
      (State.event_derived (hs p) host out sched)
  | guard p x =>
    refine State.recordsDerived_of_onlyPort ((OnlyPort.modPort s p _).trans (State.submit_onlyPort _ _ p _)) hs ?_
    exact State.submit_derived (by rw [State.port_modPort_self]; exact hs p) _ _
  | store p r _ h =>
    exact State.recordsDerived_of_onlyPort (State.commit_onlyPort s p r) hs (State.commit_derived (hs p) h.ceiling)
  | portReset p aborted _ _ =>
    obtain ⟨honly, -, heq⟩ := State.portResetUpdate_leaves s p aborted
    refine State.recordsDerived_of_onlyPort (t := s.portResetUpdate p aborted) honly hs ?_
    rw [heq]
    exact LineRecord.reset_derived _ _ _ rfl
  | portResetWaits p b _ _ =>
    refine State.recordsDerived_of_onlyPort (t := s.modPort p _) (OnlyPort.modPort s p PortState.discardWaiting) hs ?_
    rw [State.port_modPort_self]
    exact hs p
  | bindEnds _ =>
    intro p
    rw [State.applyAllWaiting_port]
    exact PortState.applyWaiting_derived (hs p) _
  | setting x _ h => exact hs
  | template i x _ h => exact hs
  | deviceReset _ _ hp _ _ =>
    intro p
    rw [State.port_of_ports hp, State.reset_port]
    exact LineRecord.reset_derived .reset .reset 0 rfl

/-! ### The publishing of the records (R13, R18 to R21) -/

/-- The port after the Line Guard's update of its last source has been applied. -/
def PortState.sourceApplied (set : Settings) (x : GuardSource) (ps : PortState) : PortState :=
  ({ ps with lastSource := some x, guardWaiting := false } : PortState).apply set { Update.none with guard := true }

/-- The port with the Line Guard's update of its last source held back. -/
def PortState.sourceWaits (x : GuardSource) (ps : PortState) : PortState :=
  { ps with lastSource := some x, guardWaiting := true }

theorem State.submit_source_applies {s : State} {p : Port} {x : GuardSource} (hb : s.bind = none) :
    ((s.modPort p fun ps => { ps with lastSource := some x }).submit false p { Update.none with guard := true }).port p
      = (s.port p).sourceApplied s.settings x := by
  rw [State.submit_applies _ (.inr (by simpa using hb)), State.apply_eq, State.port_modPort_self,
    State.port_modPort_self, State.port_modPort_self]
  simp [PortState.sourceApplied, PortState.unwait, Update.none]

theorem State.submit_source_waits {s : State} {p : Port} {x : GuardSource} (hb : s.bind ≠ none) :
    ((s.modPort p fun ps => { ps with lastSource := some x }).submit false p { Update.none with guard := true }).port p
      = (s.port p).sourceWaits x := by
  rw [State.submit_waits _ (by simpa using hb), State.port_modPort_self, State.port_modPort_self]
  simp [PortState.sourceWaits, PortState.wait, Update.none]

theorem PortState.sourceApplied_nothingWaits {set : Settings} {x : GuardSource} {ps : PortState}
    (h : ps.nothingWaits) : (ps.sourceApplied set x).nothingWaits := by
  obtain ⟨htc, hsched, -, hjoint⟩ := h
  exact ⟨htc, hsched, rfl, hjoint⟩

theorem PortState.sourceApplied_published {x : GuardSource} {ps : PortState} (set : Settings) (h : ps.published) :
    (ps.sourceApplied set x).published := by
  obtain ⟨htc, hsched, hsource⟩ := PortState.apply_writers set { Update.none with guard := true }
    { ps with lastSource := some x, guardWaiting := false }
  obtain ⟨ptc, pstatus, poutcome, -⟩ := h
  refine ⟨fun f hf => ?_, fun hf => ?_, fun hf => ?_, fun _ => hsource⟩
  · rw [PortState.sourceApplied, htc]; exact ptc f hf
  · rw [PortState.sourceApplied, hsched]; exact pstatus hf
  · rw [PortState.sourceApplied, hsched]; exact poutcome hf

theorem PortState.sourceWaits_published {x : GuardSource} {ps : PortState} (h : ps.published) :
    (ps.sourceWaits x).published := by
  obtain ⟨ptc, pstatus, poutcome, -⟩ := h
  exact ⟨ptc, pstatus, poutcome, fun hf => nomatch hf⟩

theorem State.resetting_of_busy {s t : State} (h : t.busy = s.busy) (p : Port) : t.resetting p ↔ s.resetting p := by
  simp only [State.resetting, h]

/-- As `State.recordsPublished`, but for what the records of some ports show. -/
def State.publishedBut (X : Port → Prop) (s : State) : Prop :=
  ∀ p, (s.bind = none → (s.port p).nothingWaits) ∧ (s.port p).jointHasBothParts
    ∧ (¬ X p → ¬ s.resetting p → (s.port p).published)

theorem State.publishedBut_none (s : State) : s.publishedBut (fun _ => False) ↔ s.recordsPublished := by
  simp only [State.publishedBut, State.recordsPublished, not_false_eq_true, true_imp_iff]

theorem State.publishedBut_of_onlyPort {X : Port → Prop} {s t : State} {p : Port} (h : OnlyPort p s t)
    (hs : s.publishedBut X)
    (hn : s.bind = none → (s.port p).nothingWaits → (t.port p).nothingWaits)
    (hj : (s.port p).jointHasBothParts → (t.port p).jointHasBothParts)
    (hp : (s.port p).published → (t.port p).published) : t.publishedBut X := by
  have hb := h.1.bind
  have hr := fun q => State.resetting_of_busy h.1.busy q
  intro q
  rw [hb, hr]
  obtain ⟨sn, sj, sp⟩ := hs q
  by_cases hq : q = p
  · subst hq
    exact ⟨fun k => hn k (sn k), hj sj, fun x k => hp (sp x k)⟩
  · rw [h.2 q hq]
    exact ⟨sn, sj, sp⟩

theorem PortState.discardWaiting_nothingWaits (ps : PortState) : ps.discardWaiting.nothingWaits := ⟨rfl, rfl, rfl, rfl⟩

theorem PortState.nothingWaits.jointHasBothParts {ps : PortState} (h : ps.nothingWaits) : ps.jointHasBothParts := by
  obtain ⟨-, -, -, hjoint⟩ := h
  exact fun hj => absurd (hjoint ▸ hj) (by simp)

/-- A PORT-RESET that is made publishes its port. -/
theorem State.completePortReset_publishedBut {X : Port → Prop} {s : State} {p : Port} (aborted : Bool)
    (h : ∀ q, s.resetting q → q = p) (hs : s.publishedBut X) :
    (s.completePortReset p aborted).publishedBut fun q => q ≠ p ∧ X q := by
  obtain ⟨honly, -, heq⟩ := State.portResetUpdate_leaves s p aborted
  intro q
  rw [State.port_completePortReset]
  by_cases hq : q = p
  · subst hq
    rw [heq]
    exact ⟨fun _ => ⟨rfl, rfl, rfl, rfl⟩, PortState.nothingWaits.jointHasBothParts ⟨rfl, rfl, rfl, rfl⟩,
      fun _ _ => ⟨fun f _ => TcField.differs_self _ f, fun _ => rfl, fun _ => rfl, fun _ => rfl⟩⟩
  · rw [honly.2 q hq]
    obtain ⟨hn, hj, hp⟩ := hs q
    exact ⟨hn, hj, fun x _ => hp (fun k => x ⟨hq, k⟩) fun k => hq (h q k)⟩

/-- A PORT-RESET that begins to wait takes its port out of those that are published. -/
theorem State.portResetWaits_publishedBut {X : Port → Prop} {s : State} {p : Port} (suspended : Bool)
    (h : ∀ q, ¬ s.resetting q) (hs : s.publishedBut X) :
    ({ s.modPort p PortState.discardWaiting with busy := some (.portReset p suspended) } : State).publishedBut
      fun q => q ≠ p ∧ X q := by
  intro q
  have hport : ({ s.modPort p PortState.discardWaiting with busy := some (.portReset p suspended) } : State).port q
      = if q = p then (s.port p).discardWaiting else s.port q := State.port_modPort s p q _
  rw [hport]
  by_cases hq : q = p
  · subst hq
    have hn := PortState.discardWaiting_nothingWaits (s.port q)
    simp only [if_true]
    exact ⟨fun _ => hn, hn.jointHasBothParts, fun _ k => absurd ⟨suspended, rfl⟩ k⟩
  · simp only [hq, if_false]
    obtain ⟨hn, hj, hp⟩ := hs q
    exact ⟨hn, hj, fun x _ => hp (fun k => x ⟨hq, k⟩) (h q)⟩

theorem State.publishedBut.mono {X Y : Port → Prop} {s : State} (hs : s.publishedBut X) (h : ∀ p, X p → Y p) :
    s.publishedBut Y :=
  fun p => ⟨(hs p).1, (hs p).2.1, fun y => (hs p).2.2 fun x => y (h p x)⟩

theorem Act.publishedBut {X : Port → Prop} {free : Bool} {s t : State} (h : Act free s t) (hs : s.publishedBut X) :
    t.publishedBut X := by
  cases h with
  | quiet _ h _ =>
    intro p
    rw [h.resetting p, (h.blocks p).published, (h.blocks p).nothingWaits, (h.blocks p).jointHasBothParts]
    exact ⟨fun k => (hs p).1 (h.bind k), (hs p).2⟩
  | event host p out sched _ _ =>
    have hpub := State.event_publishes s host p out sched
    refine State.publishedBut_of_onlyPort (State.event_onlyPort s host p out sched) hs
      hpub.nothingWaits hpub.jointHasBothParts (hpub.published ?_)
    rw [State.event_port]
    rfl
  | guard p x =>
    refine State.publishedBut_of_onlyPort ((OnlyPort.modPort s p _).trans (State.submit_onlyPort _ _ p _)) hs ?_ ?_ ?_
    · intro hb
      rw [State.submit_source_applies hb]
      exact PortState.sourceApplied_nothingWaits
    · by_cases hb : s.bind = none
      · rw [State.submit_source_applies hb]
        exact id
      · rw [State.submit_source_waits hb]
        exact id
    · by_cases hb : s.bind = none
      · rw [State.submit_source_applies hb]
        exact PortState.sourceApplied_published _
      · rw [State.submit_source_waits hb]
        exact PortState.sourceWaits_published
  | store p r _ h =>
    have hport := State.commit_port s p r
    obtain ⟨htc, hsched⟩ := State.commit_writers s p r
    obtain ⟨-, -, -, -, -, -, hsource⟩ := State.commit_rest s p r
    refine State.publishedBut_of_onlyPort (State.commit_onlyPort s p r) hs ?_ ?_ ?_
    · intro _; rw [hport]; exact id
    · rw [hport]; exact id
    · rw [hport]
      simp only [PortState.published, htc, hsched, hsource, h.tc, h.sched, h.lastSource, imp_self]
  | portReset p aborted _ h => exact (State.completePortReset_publishedBut aborted h hs).mono fun _ => And.right
  | portResetWaits p b _ h => exact (State.portResetWaits_publishedBut b h hs).mono fun _ => And.right
  | bindEnds _ =>
    have hout := State.applyAllWaiting_outside { s with bind := none, cursor := s.saved.getD s.cursor, saved := none }
    intro p
    rw [State.resetting_of_busy hout.busy, State.applyAllWaiting_port]
    have hn := PortState.applyWaiting_nothingWaits s.settings (s.port p)
    exact ⟨fun _ => hn, hn.jointHasBothParts, fun x k => PortState.applyWaiting_published ((hs p).2.2 x k) _⟩
  | setting x _ h => exact hs
  | template i x _ h => exact hs
  | deviceReset _ _ hp _ _ =>
    intro p
    rw [State.port_of_ports hp, State.reset_port]
    have hn : PortState.reset.nothingWaits := ⟨rfl, rfl, rfl, rfl⟩
    exact ⟨fun _ => hn, hn.jointHasBothParts,
      fun _ _ => ⟨fun f _ => TcField.differs_self _ f, fun _ => rfl, fun _ => rfl, fun _ => rfl⟩⟩

/-! ### A bind keeps the records still (R18) -/

/-- What is recorded of a port and its place in the change set, in a state with a bind open, are those of `s`. -/
def State.StillUnderBind (s t : State) : Prop :=
  t.bind ≠ none ∧ ∀ p, (t.port p).record = (s.port p).record ∧ (t.port p).inChangeSet = (s.port p).inChangeSet

theorem State.StillUnderBind.of_onlyPort {s t u : State} {p : Port} (h : s.StillUnderBind t) (ho : OnlyPort p t u)
    (hr : (u.port p).record = (t.port p).record) (hc : (u.port p).inChangeSet = (t.port p).inChangeSet) :
    s.StillUnderBind u := by
  refine ⟨ho.1.bind ▸ h.1, ?_⟩
  refine ho.forall_port (P := fun q a => a.record = (s.port q).record ∧ a.inChangeSet = (s.port q).inChangeSet) ?_
    fun q _ => h.2 q
  rw [hr, hc]
  exact h.2 p

theorem Act.stillUnderBind {s t u : State} (h : Act false t u) (hs : s.StillUnderBind t) : s.StillUnderBind u := by
  obtain ⟨hb, hports⟩ := id hs
  cases h with
  | quiet _ h hc => exact ⟨fun k => hb (h.bind k), fun p => by rw [(h.blocks p).record, hc rfl p]; exact hports p⟩
  | event host p out sched hh _ =>
    obtain rfl : host = false := by simpa using hh
    refine hs.of_onlyPort (State.event_onlyPort t false p out sched) ?_ ?_ <;>
      rw [State.event_waits t hb, State.port_setPort_self] <;> rfl
  | guard p x =>
    refine hs.of_onlyPort ((OnlyPort.modPort t p _).trans (State.submit_onlyPort _ _ p _)) ?_ ?_ <;>
      rw [State.submit_waits _ (by simpa using hb), State.port_modPort_self, State.port_modPort_self] <;> rfl
  | store _ _ hf _ => simp [hb] at hf
  | portReset _ _ hf _ => simp [hb] at hf
  | portResetWaits _ _ hf _ | bindEnds hf | setting _ hf _ | template _ _ hf _ | deviceReset _ hf _ _ _ => cases hf

end Sys2Proof.Machine

end

section

namespace Sys2Proof.Machine

/-! ## The host's transactions: what every one of them keeps -/

theorem HostQuiet.of_fields {s t : State} (ports : t.ports = s.ports) (settings : t.settings = s.settings)
    (templates : t.templates = s.templates) (bind : t.bind = s.bind) (busy : t.busy = s.busy)
    (queue : t.queue = s.queue) (engines : t.engines = s.engines) (order : t.order = s.order) : HostQuiet s t :=
  { Quiet.of_fields ports settings templates bind busy with queue := queue, engines := engines, order := order }

theorem HostQuiet.modPort (s : State) (p : Port) {f : PortState → PortState}
    (hf : (s.port p).SameBlocks (f (s.port p))) : HostQuiet s (s.modPort p f) :=
  { Quiet.modPort s p hf with queue := rfl, engines := rfl, order := rfl }

/-- An open bind restarts, or one opens (R151). -/
theorem HostQuiet.bindOpens (s : State) (b : Bind) : HostQuiet s { s with bind := some b } where
  blocks _ := PortState.SameBlocks.refl _
  settings := rfl
  templates := rfl
  bind h := nomatch h
  busy _ _ := .rfl
  queue := rfl
  engines := rfl
  order := rfl

/-- An operation other than a PORT-RESET begins or ends. -/
theorem HostQuiet.operation {s : State} {x : Option Operation} (hs : ∀ p b, s.busy ≠ some (.portReset p b))
    (hx : ∀ p b, x ≠ some (.portReset p b)) : HostQuiet s { s with busy := x } where
  blocks _ := PortState.SameBlocks.refl _
  settings := rfl
  templates := rfl
  bind := id
  busy p b := iff_of_false (hx p b) (hs p b)
  queue := rfl
  engines := rfl
  order := rfl

/-- The scan examines a record (R149). -/
theorem scanExamine_hostQuiet (s : State) : HostQuiet s (scanExamine s) := by
  unfold scanExamine
  split
  · next hb =>
    split
    · dsimp only
      split <;> exact .operation (by simp [hb]) (by simp)
    · exact .of_fields rfl rfl rfl rfl rfl rfl rfl rfl
  · exact .of_fields rfl rfl rfl rfl rfl rfl rfl rfl

/-- The scan is over (R149). -/
theorem searchCompleteOf_hostQuiet (s : State) : HostQuiet s (searchCompleteOf s) := by
  have ends {cursor : Cursor} {reply : Vector Byte 8} (hb : ∀ p b, s.busy ≠ some (.portReset p b)) :
      HostQuiet s { s with busy := none, cursor := cursor, reply := reply } :=
    { HostQuiet.operation (s := s) (x := none) hb (by simp) with }
  unfold searchCompleteOf
  split
  · next hb => exact ends (by simp [hb])
  · next hb =>
    split
    · exact ends (by simp [hb])
    · exact .of_fields rfl rfl rfl rfl rfl rfl rfl rfl
  · exact .of_fields rfl rfl rfl rfl rfl rfl rfl rfl

/-- The commands of the host on a port's training machine (R60 to R63). -/
def State.MachineCommand (s : State) (p : Port) (out : TcEffect) : Prop :=
  out = (s.port p).tc.park ∨ out = (s.port p).tc.unpark (s.tcContext p)
    ∨ (s.port p).tc.restart? (s.tcContext p) = some out ∨ out = (s.port p).tc.rearm (s.tcContext p)

/-- What has to be shown of a property for every transaction of the host to keep it. -/
structure HostKeeps (I : State → Prop) : Prop where
  quiet : ∀ {s t}, HostQuiet s t → I s → I t
  setting : ∀ {s : State} {x : Settings}, (s.settings.inRange → x.inRange) → I s → I { s with settings := x }
  template : ∀ {s : State} {i : TemplateId} {x : Template}, ((s.templates[i]).inRange → x.inRange) → I s →
    I { s with templates := s.templates.set i x }
  store : ∀ {s : State} {p : Port} {r : LineRecord}, (s.port p).record.StoreUpdate r → I s → I (s.commit p r)
  deviceReset : ∀ {s}, I s → I s.beginDeviceReset
  endBind : ∀ {s}, I s → I s.endBind
  machine : ∀ {s : State} {p : Port} {out : TcEffect}, s.MachineCommand p out → I s → I (s.tcEvent true p out)
  portReset : ∀ {s : State} (p : Port), s.busy = none → I s → I (portResetPort p s)
  probe : ∀ {s : State} (p : Port) (pairs : PairSet) (cls : ReqClass), s.busy = none → pairs ≠ 0 → I s →
    I (probePort p pairs cls s)
  cancel : ∀ {s : State} (p : Port), s.busy = none → I s → I (cancelPort p s)

namespace HostKeeps

variable {I : State → Prop} (h : HostKeeps I) {s : State}

include h

/-- A change of the Management Port's own fields, the Error Slot and the reply. -/
theorem ownFields {t : State} (hs : I s) (ports : t.ports = s.ports := by rfl)
    (settings : t.settings = s.settings := by rfl) (templates : t.templates = s.templates := by rfl)
    (bind : t.bind = s.bind := by rfl) (busy : t.busy = s.busy := by rfl) (queue : t.queue = s.queue := by rfl)
    (engines : t.engines = s.engines := by rfl) (order : t.order = s.order := by rfl) : I t :=
  h.quiet (.of_fields ports settings templates bind busy queue engines order) hs

theorem withReply (r : Vector Byte 8) (hs : I s) : I (s.withReply r) :=
  h.ownFields hs

theorem refuse (c : Cause) (p : Option Port) (hs : I s) : I (s.refuse c p) :=
  h.ownFields hs

theorem countAccess (hs : I s) : I s.countAccess := by
  unfold State.countAccess
  split
  · exact hs
  · split
    · exact h.endBind hs
    · exact h.quiet (.bindOpens s _) hs

theorem setCursorCommand (port offset : Byte) (hs : I s) : I (setCursorCommand port offset s) := by
  unfold Machine.setCursorCommand
  dsimp only
  split
  · exact h.ownFields hs
  · exact h.refuse _ _ hs

theorem setWalkCommand (mode : Byte) (hs : I s) : I (setWalkCommand mode s) := by
  unfold Machine.setWalkCommand
  split
  · exact h.ownFields hs
  · exact h.refuse _ _ hs

theorem setPageCommand (page : Byte) (hs : I s) : I (setPageCommand page s) := by
  unfold Machine.setPageCommand
  split
  · exact h.ownFields hs
  · exact h.refuse _ _ hs

theorem bindCommand (n : Byte) (hs : I s) : I (bindCommand n s) := by
  unfold Machine.bindCommand
  split
  · exact h.withReply _ (h.quiet (.bindOpens s _) hs)
  · exact h.countAccess (h.refuse _ _ hs)

theorem aimCommand (port n : Byte) (hs : I s) : I (aimCommand port n s) := by
  unfold Machine.aimCommand
  split
  · exact h.withReply _ (h.quiet (.bindOpens _ _) (h.ownFields hs))
  · exact h.countAccess (h.refuse _ _ hs)

theorem takeChangeCommand (hs : I s) : I (takeChangeCommand s) := by
  unfold Machine.takeChangeCommand
  split
  · exact h.withReply _ (h.quiet (.modPort s _ ⟨rfl, rfl, rfl, rfl, rfl, rfl, rfl, rfl⟩) hs)
  · exact h.withReply _ hs

theorem searchCommand (kind value start : Byte) (hb : s.busy = none) (hs : I s) :
    I (searchCommand kind value start s) := by
  unfold Machine.searchCommand
  split
  · exact h.refuse _ _ hs
  · split
    · split
      · exact h.quiet (.operation (by simp [hb]) (by simp)) hs
      · exact h.refuse _ _ hs
    · exact h.refuse _ _ hs

theorem onPort (portByte : Byte) {f : Port → State → State} (hf : ∀ p, I (f p s)) (hs : I s) :
    I (onPort portByte f s) := by
  unfold Machine.onPort
  split
  · exact hf _
  · exact h.refuse _ _ hs

theorem machineCommand {p : Port} {out : TcEffect} (hm : s.MachineCommand p out) (hs : I s) :
    I (s.machineCommand p out) := h.withReply _ (h.machine hm hs)

theorem restartPort (p : Port) (hs : I s) : I (restartPort p s) := by
  unfold Machine.restartPort
  split
  · next out ho => exact h.machineCommand (.inr (.inr (.inl ho))) hs
  · exact h.refuse _ _ hs

theorem probeCommand (portByte pairByte classByte : Byte) (hb : s.busy = none) (hs : I s) :
    I (probeCommand portByte pairByte classByte s) := by
  unfold Machine.probeCommand
  split
  · exact h.refuse _ _ hs
  · split
    · exact h.refuse _ _ hs
    · split
      · exact h.refuse _ _ hs
      · next hp =>
        refine h.probe _ _ _ hb (fun he => hp ?_) hs
        have := congrArg BitVec.toNat he
        simp only [BitVec.toNat_setWidth, BitVec.ofNat_eq_ofNat, BitVec.toNat_ofNat] at this
        omega

theorem changeFindings {p : Port} {r : LineRecord} (htc : r.tc = (s.port p).record.tc)
    (hsched : r.sched = (s.port p).record.sched) (hsource : r.lastSource = (s.port p).record.lastSource) (hs : I s) :
    I (s.changeFindings p r) := by
  have hc : I (s.commit p (r.rederive s.settings)) :=
    h.store ⟨htc, hsched, hsource, LineRecord.rederive_keepsCeiling _ _ _⟩ hs
  unfold State.changeFindings
  dsimp only
  split
  · exact hc
  · exact h.quiet (.modPort _ _ ⟨rfl, rfl, rfl, rfl, rfl, rfl, rfl, rfl⟩) hc

theorem retireCommand (portByte indexByte : Byte) (hs : I s) : I (retireCommand portByte indexByte s) := by
  unfold Machine.retireCommand
  split
  · exact h.refuse _ _ hs
  · dsimp only
    split
    · exact h.withReply _ (h.changeFindings rfl rfl rfl hs)
    · exact h.refuse _ _ hs

theorem clearFindingsCommand (portByte : Byte) (hs : I s) : I (clearFindingsCommand portByte s) := by
  unfold Machine.clearFindingsCommand
  split
  · exact h.refuse _ _ hs
  · exact h.withReply _ (h.changeFindings rfl rfl rfl hs)

/-- Every command of the host, taken with no operation under way. -/
theorem performCommand (c : HostCommand) (hb : s.busy = none) (hs : I s) : I (performCommand c s) := by
  cases c with
  | bind n => exact h.bindCommand n hs
  | aim port n => exact h.aimCommand port n hs
  | deviceReset => exact h.deviceReset hs
  | setCursor port offset => exact h.countAccess (h.setCursorCommand port offset hs)
  | setWalk mode => exact h.countAccess (h.setWalkCommand mode hs)
  | setPage page => exact h.countAccess (h.setPageCommand page hs)
  | readError => exact h.countAccess (h.withReply _ hs)
  | clearError => exact h.countAccess (h.ownFields hs)
  | takeChange => exact h.countAccess (h.takeChangeCommand hs)
  | search kind value start => exact h.countAccess (h.searchCommand kind value start hb hs)
  | park port => exact h.countAccess (h.onPort port (fun _ => h.machineCommand (.inl rfl) hs) hs)
  | unpark port => exact h.countAccess (h.onPort port (fun _ => h.machineCommand (.inr (.inl rfl)) hs) hs)
  | restart port => exact h.countAccess (h.onPort port (fun p => h.restartPort p hs) hs)
  | rearm port => exact h.countAccess (h.onPort port (fun _ => h.machineCommand (.inr (.inr (.inr rfl))) hs) hs)
  | portReset port => exact h.countAccess (h.onPort port (fun p => h.portReset p hb hs) hs)
  | probe port pairs cls => exact h.countAccess (h.probeCommand port pairs cls hb hs)
  | cancel port => exact h.countAccess (h.onPort port (fun p => h.cancel p hb hs) hs)
  | retire port index => exact h.countAccess (h.retireCommand port index hs)
  | clearFindings port => exact h.countAccess (h.clearFindingsCommand port hs)

omit h in
theorem judge_taken {passes : Bool} (hj : s.judge passes = .taken) : s.busy = none := by
  unfold State.judge at hj
  split at hj
  · cases hj
  · split at hj
    · cases hj
    · split at hj
      · cases hj
      · next hb => simpa using hb

theorem carryOut (d : Decoded) (hb : s.busy = none) (hs : I s) : I (carryOut d s) := by
  cases d with
  | taken c => exact h.performCommand c hb hs
  | unknown => exact h.countAccess (h.refuse _ _ hs)
  | short => exact h.countAccess (h.refuse _ _ hs)

/-- Every command transaction of the host. -/
theorem commandWrite (bytes : List Byte) (hs : I s) : I (commandWrite bytes s) := by
  have ht : I { s with transfer := none } := h.ownFields hs
  unfold Machine.commandWrite
  dsimp only
  split
  · exact ht
  · exact h.countAccess ht
  · exact h.countAccess (h.refuse _ _ ht)
  · next hj => exact h.carryOut _ (judge_taken hj) ht

/-! ### Data bytes -/

theorem raiseOnce (t : Transfer) (c : Cause) (p : Option Port) (hs : I s) : I (s.raiseOnce t c p) := by
  unfold State.raiseOnce
  split
  · exact hs
  · exact h.ownFields hs

theorem shiftOut (b : Byte) (hs : I s) : I (s.shiftOut b) := h.ownFields hs

theorem readByteAs (t : Transfer) (hs : I s) : I (readByteAs t s) := by
  unfold Machine.readByteAs
  split
  · exact h.countAccess (h.ownFields hs)
  · exact h.countAccess (h.shiftOut _ (h.raiseOnce _ _ _ hs))
  · exact h.countAccess (h.shiftOut _ hs)
  · exact h.shiftOut _ hs

theorem dataReadByte (hs : I s) : I (dataReadByte s) := by
  unfold Machine.dataReadByte
  split
  · split
    · exact hs
    · exact h.readByteAs _ hs
  · exact hs

theorem dataReadPart (part : ReadPart) (hs : I s) : I (dataReadPart part s) := by
  cases part with
  | control => exact h.ownFields hs
  | fetch =>
    unfold Machine.dataReadPart fetchReadByte
    dsimp only
    split
    · split
      · exact hs
      · exact h.ownFields hs
    · exact hs
  | byte => exact h.dataReadByte hs

end HostKeeps

/-- A written byte that reaches the settings or a template leaves it in its ranges (R143, R157, R158). -/
def WriteEffect.KeepsRanges (s : State) : WriteEffect → Prop
  | .settings x => s.settings.inRange → x.inRange
  | .template i x => (s.templates[i]).inRange → x.inRange
  | _ => True

section

variable {s : State}

theorem WriteEffect.keepsRanges_ifInRange {low high n : Nat} {x : WriteEffect}
    (h : low ≤ n → n ≤ high → x.KeepsRanges s) : (ifInRange low high n x).KeepsRanges s := by
  unfold ifInRange
  split
  · next hr => exact h hr.1 hr.2
  · trivial

theorem writeRecord_keepsRanges (p : Port) (offset : Nat) (b : Byte) : (writeRecord p offset b).KeepsRanges s := by
  unfold writeRecord
  split
  case h_4 => trivial
  all_goals exact WriteEffect.keepsRanges_ifInRange fun _ _ => trivial

theorem writeSetting_keepsRanges (hold : Byte) (offset : Nat) (b : Byte) :
    (writeSetting s.settings hold offset b).KeepsRanges s := by
  unfold writeSetting
  split
  case h_1 | h_10 | h_14 => trivial
  case h_2 | h_3 | h_4 | h_6 | h_7 | h_8 | h_9 | h_11 =>
    refine WriteEffect.keepsRanges_ifInRange fun hlow hhigh hs => ?_
    simp only [Settings.inRange] at *
    omega
  case h_5 =>
    dsimp only
    split
    · intro hs
      simp only [Settings.inRange] at *
      omega
    · trivial
  case h_12 =>
    intro hs
    have := b.isLt
    simp only [Settings.inRange] at *
    omega
  case h_13 =>
    split
    · exact id
    · trivial

theorem writeTemplate_keepsRanges (i : TemplateId) (hold : Byte) (offset : Nat) (b : Byte) :
    (writeTemplate i (s.templates[i]) hold offset b).KeepsRanges s := by
  unfold writeTemplate
  split
  case h_5 | h_7 | h_9 => trivial
  all_goals
    refine WriteEffect.keepsRanges_ifInRange fun hlow hhigh hs => ?_
    simp only [Template.inRange] at *
    omega

theorem State.writeEffect_keepsRanges (s : State) (b : Byte) : (s.writeEffect b).KeepsRanges s := by
  unfold State.writeEffect
  split
  · exact writeRecord_keepsRanges _ _ _
  · split
    · exact writeSetting_keepsRanges _ _ _
    · split
      · exact writeTemplate_keepsRanges _ _ _ _
      · trivial

end

namespace HostKeeps

variable {I : State → Prop} (h : HostKeeps I) {s : State}

include h

theorem writeByteEffect (t : Transfer) (b : Byte) (hs : I s) : I (writeByteEffect t b s) := by
  have hr := s.writeEffect_keepsRanges b
  unfold Machine.writeByteEffect
  split
  case h_1 | h_2 => exact h.raiseOnce _ _ _ hs
  case h_3 => exact h.ownFields hs
  case h_4 x he => exact h.setting (by rw [he] at hr; exact hr) hs
  case h_5 i x he => exact h.template (by rw [he] at hr; exact hr) hs
  case h_6 | h_7 | h_8 => exact h.store ⟨rfl, rfl, rfl, .inr ⟨rfl, rfl⟩⟩ hs

theorem dataWriteByte (b : Byte) (hs : I s) : I (dataWriteByte b s) := by
  unfold Machine.dataWriteByte writeByteAs
  split
  · split
    · split
      · exact h.countAccess (h.ownFields (h.writeByteEffect _ b hs))
      · exact h.countAccess (h.raiseOnce _ _ _ hs)
      · exact h.countAccess hs
      · exact hs
    · exact hs
  · exact hs

theorem dataWritePart (part : WritePart) (hs : I s) : I (dataWritePart part s) := by
  cases part with
  | control => exact h.ownFields hs
  | byte b => exact h.dataWriteByte b hs

theorem statusReadBytes (n : Nat) (hs : I s) : I (statusReadBytes n s) := by
  unfold Machine.statusReadBytes
  split <;> exact h.ownFields hs

/-- Every access of the host. -/
theorem runAccess (a : Access) (hs : I s) : I (runAccess a s) := by
  cases a with
  | command bytes => exact h.commandWrite bytes hs
  | readByte => exact h.dataReadByte hs
  | writeByte b => exact h.dataWriteByte b hs

theorem bindCountEndBy (a : Access) (hs : I s) : I (bindCountEndBy a s) := by
  unfold Machine.bindCountEndBy
  split
  · exact h.runAccess a hs
  · exact hs

end HostKeeps

/-- The host's transactions: command transactions and the others. -/
theorem isHost_cases {c : Instr} (hc : isHost c = true) :
    (∃ bytes, commandBytes c = some bytes) ∨ (∃ a, c = .bindCountEnd a) ∨ (∃ n, c = .statusRead n)
      ∨ (∃ part, c = .dataRead part) ∨ ∃ part, c = .dataWrite part := by
  cases c <;> simp_all [isHost, commandBytes]

/-- Every transaction of the host keeps what the parts of it keep. -/
theorem HostKeeps.exec {I : State → Prop} (h : HostKeeps I) {c : Instr} {s t : State} (hc : isHost c = true)
    (he : exec c s = .next t) (hs : I s) : I t := by
  rcases isHost_cases hc with ⟨bytes, hb⟩ | ⟨a, rfl⟩ | ⟨n, rfl⟩ | ⟨part, rfl⟩ | ⟨part, rfl⟩
  · rw [exec_command hb] at he
    cases he
    exact h.commandWrite bytes hs
  · cases he; exact h.bindCountEndBy a hs
  · cases he; exact h.statusReadBytes n hs
  · cases he; exact h.dataReadPart part hs
  · cases he; exact h.dataWritePart part hs

end Sys2Proof.Machine

end

section

namespace Sys2Proof.Machine

/-! ## Every command is made of acts -/

namespace Acts

variable {free : Bool} {s t : State}

theorem quiet {u : State} (hs : Acts free s t) (h : Quiet t u)
    (hc : free = false → ∀ p, (u.port p).inChangeSet = (t.port p).inChangeSet) : Acts free s u :=
  hs.tail (.quiet u h hc)

/-- A change outside the ports, the settings, the templates, the bind and the operation under way. -/
theorem elsewhere {u : State} (hs : Acts free s t) (ports : u.ports = t.ports := by rfl)
    (settings : u.settings = t.settings := by rfl) (templates : u.templates = t.templates := by rfl)
    (bind : u.bind = t.bind := by rfl) (busy : u.busy = t.busy := by rfl) : Acts free s u :=
  hs.quiet (.of_fields ports settings templates bind busy)
    fun _ p => congrArg PortState.inChangeSet (State.port_of_ports ports p)

theorem setGroup {g : Group} {x : GroupLink} (hs : Acts free s t) : Acts free s (t.setGroup g x) := hs.elsewhere

theorem setEngine {e : EngineId} {x : Engine} (hs : Acts free s t) : Acts free s (t.setEngine e x) := hs.elsewhere

theorem withReply {r : Vector Byte 8} (hs : Acts free s t) : Acts free s (t.withReply r) := hs.elsewhere

theorem report {c : Cause} {o : Origin} {p : Option Port} (hs : Acts free s t) : Acts free s (t.report c o p) :=
  hs.elsewhere

theorem releaseEngine {e : EngineId} (hs : Acts free s t) : Acts free s (t.releaseEngine e) := hs.elsewhere

theorem modPort {p : Port} {f : PortState → PortState} (hs : Acts free s t)
    (hf : (t.port p).SameBlocks (f (t.port p)))
    (hc : (f (t.port p)).inChangeSet = (t.port p).inChangeSet) : Acts free s (t.modPort p f) :=
  hs.quiet (.modPort t p hf) fun _ => (OnlyPort.modPort t p f).forall_port
    (P := fun q a => a.inChangeSet = (t.port q).inChangeSet) (by rw [State.port_modPort_self]; exact hc) fun _ _ => rfl

theorem foldl {α : Type} {f : State → α → State} (hf : ∀ {t} a, Acts free s t → Acts free s (f t a)) (l : List α)
    (hs : Acts free s t) : Acts free s (l.foldl f t) := by
  induction l generalizing t with
  | nil => exact hs
  | cons a l ih => exact ih (hf a hs)

theorem event {host : Bool} {p : Port} {out : TcEffect} {sched : SchedFields} (hs : Acts free s t)
    (hh : host = true → free = true) (hm : t.settings.inRange → (t.port p).tc.consistent → out.m.consistent) :
    Acts free s (t.event host p out sched) :=
  hs.tail (.event host p out sched hh hm)

theorem tcEvent {p : Port} {out : TcEffect} (hs : Acts free s t)
    (hm : t.settings.inRange → (t.port p).tc.consistent → out.m.consistent) : Acts free s (t.tcEvent false p out) :=
  hs.event (fun h => nomatch h) hm

theorem schedEvent {host : Bool} {p : Port} {sched : SchedFields} (hs : Acts free s t)
    (hh : host = true → free = true) : Acts free s (t.schedEvent host p sched) :=
  hs.event hh fun _ => id

theorem offerPlaceTo {host : Bool} (hh : host = true → free = true) (l : List Port) (hs : Acts free s t) :
    Acts free s (t.offerPlaceTo host l) := by
  induction l generalizing t with
  | nil => exact hs
  | cons p rest ih =>
    unfold State.offerPlaceTo
    dsimp only
    split
    · split
      · exact hs.elsewhere.schedEvent hh
      · exact ih (hs.schedEvent hh)
    · exact ih hs

theorem offerPlace {host : Bool} (hh : host = true → free = true) (hs : Acts free s t) :
    Acts free s (t.offerPlace host) := hs.offerPlaceTo hh allPorts

theorem endAborted {host : Bool} {p : Port} {cause : Ending} {skipped : PairSet} (hs : Acts free s t)
    (hh : host = true → free = true) : Acts free s (t.endAborted host p cause skipped) :=
  hs.event hh fun _ h => h.returnPort cause

theorem endSuspended {host : Bool} {p : Port} {cause : Ending} {ctx : Suspended} (hs : Acts free s t)
    (hh : host = true → free = true) : Acts free s (t.endSuspended host p cause ctx) :=
  Acts.offerPlace hh (Acts.endAborted hs.elsewhere hh)

theorem stopOnPower {p : Port} {e : EngineId} (hs : Acts free s t) : Acts free s (t.stopOnPower p e) := by
  unfold State.stopOnPower
  split
  · exact hs.elsewhere
  · exact hs

theorem setInbox {p : Port} {box : Inbox} (hs : Acts free s t) : Acts free s (t.setInbox p box) :=
  hs.modPort ⟨rfl, rfl, rfl, rfl, rfl, rfl, rfl, rfl⟩ rfl

theorem recordSource {p : Port} {f : Firing} (hs : Acts free s t) : Acts free s (t.recordSource p f) := by
  unfold State.recordSource
  split
  · exact hs
  · split
    · exact hs
    · exact hs.tail (.guard p _)

theorem lendTo {e : EngineId} {r : Run} (hs : Acts free s t) : Acts free s (t.lendTo e r) := by
  unfold State.lendTo
  refine Acts.event ?_ (fun h => nomatch h) ?_
  · exact Acts.modPort hs.elsewhere ⟨rfl, rfl, rfl, rfl, rfl, rfl, rfl, rfl⟩ rfl
  · rw [State.port_modPort_self]
    exact fun _ h => h.lend

theorem abortPowered {r : Run} (hs : Acts free s t) : Acts free s (t.abortPowered r) :=
  Acts.offerPlace (fun h => nomatch h) (hs.schedEvent fun h => nomatch h)

theorem takeWithdraw {p : Port} {src : GuardSource} (hs : Acts free s t) : Acts free s (t.takeWithdraw p src) :=
  hs.tcEvent fun _ h => h.withdraw _

/-! ### The Line Signal Link -/

theorem receiveFrame (g : Group) (bytes : List Byte) : Acts free s (receiveFrame g bytes s) := by
  have hear : Acts free s (s.hear g) := by
    unfold State.hear
    split
    · exact Acts.elsewhere .refl
    · exact Acts.foldl (fun i h => h.modPort ⟨rfl, rfl, rfl, rfl, rfl, rfl, rfl, rfl⟩ rfl) _ (Acts.elsewhere .refl)
  unfold Machine.receiveFrame
  split
  · exact .refl
  · split
    · exact hear
    · exact hear.modPort ⟨rfl, rfl, rfl, rfl, rfl, rfl, rfl, rfl⟩ rfl

theorem silenceExpiryOf (g : Group) : Acts free s (silenceExpiryOf g s) := by
  unfold Machine.silenceExpiryOf
  split
  · exact Acts.foldl (fun i h => h.modPort ⟨rfl, rfl, rfl, rfl, rfl, rfl, rfl, rfl⟩ rfl) _ (Acts.elsewhere .refl)
  · exact .refl

theorem idleFrameSendOf (g : Group) : Acts free s (idleFrameSendOf g s) := by
  unfold Machine.idleFrameSendOf
  split
  · exact Acts.elsewhere .refl
  · exact .refl

theorem transmitMessageOf (g : Group) : Acts free s (transmitMessageOf g s) := by
  unfold Machine.transmitMessageOf
  split
  · exact .refl
  · split
    · exact .refl
    · split
      · exact .refl
      · exact Acts.setGroup (Acts.modPort .refl ⟨rfl, rfl, rfl, rfl, rfl, rfl, rfl, rfl⟩ rfl)

/-! ### The Training Controller and the Line Guard -/

omit free in
@[simp] theorem tc_setInbox (p : Port) (box : Inbox) : ((s.setInbox p box).port p).tc = (s.port p).tc := by
  simp [State.setInbox]

omit free in
@[simp] theorem port_stopOnPower (p q : Port) (e : EngineId) : (s.stopOnPower p e).port q = s.port q := by
  unfold State.stopOnPower
  split <;> rfl

theorem takePowerAt (p : Port) : Acts free s (takePowerAt p s) := by
  unfold Machine.takePowerAt
  split
  · split
    · dsimp only
      split
      · exact Acts.tcEvent (Acts.stopOnPower (Acts.setInbox .refl)) fun _ h => by
          rw [port_stopOnPower, tc_setInbox] at h
          exact h.takePower _ _
      · exact Acts.tcEvent (Acts.setInbox .refl) fun _ h => by
          rw [tc_setInbox] at h
          exact h.takePower _ _
    · exact .refl
  · exact .refl

theorem takeDetachedAt (p : Port) : Acts free s (takeDetachedAt p s) := by
  unfold Machine.takeDetachedAt
  split
  · dsimp only
    split
    · split
      · exact Acts.setEngine (Acts.setInbox .refl)
      · exact Acts.setInbox .refl
    · exact Acts.setInbox .refl
  · exact .refl

theorem takeEnergyAt (p : Port) : Acts free s (takeEnergyAt p s) := by
  unfold Machine.takeEnergyAt
  split
  · split
    · exact Acts.tcEvent (Acts.setInbox .refl) fun _ h => (tc_setInbox p _ ▸ h).takeEnergy _
    · exact .refl
  · exact .refl

theorem takeLostAt (p : Port) : Acts free s (takeLostAt p s) := by
  unfold Machine.takeLostAt
  split
  · exact Acts.tcEvent (Acts.setInbox .refl) fun _ h => (tc_setInbox p _ ▸ h).takeLost
  · exact .refl

theorem takeResultPassAt (p : Port) : Acts free s (takeResultPassAt p s) := by
  unfold Machine.takeResultPassAt
  split
  · split
    · exact Acts.tcEvent (Acts.setInbox .refl) fun _ h => (tc_setInbox p _ ▸ h).takeResultPass _ _ _
    · exact .refl
  · exact .refl

omit free in
theorem tries_le (hs : s.settings.inRange) (p : Port) : (s.tcContext p).tries ≤ 7 := by
  obtain ⟨-, -, -, -, -, -, -, -, ⟨-, htries⟩, -⟩ := hs
  exact htries

theorem takeResultFailAt (p : Port) : Acts free s (takeResultFailAt p s) := by
  unfold Machine.takeResultFailAt
  split
  · split
    · exact Acts.tcEvent (Acts.setInbox .refl) fun hset h => (tc_setInbox p _ ▸ h).failAttempt (tries_le hset p)
    · exact .refl
  · exact .refl

theorem takePageAt (p : Port) : Acts free s (takePageAt p s) := by
  unfold Machine.takePageAt
  split
  · split
    · exact Acts.tcEvent (Acts.setInbox .refl) fun _ h => (tc_setInbox p _ ▸ h).takePage _
    · exact .refl
  · exact .refl

theorem listenExpiryAt (p : Port) : Acts free s (listenExpiryAt p s) := by
  unfold Machine.listenExpiryAt
  split
  · next hm =>
    simp only [Bool.and_eq_true, decide_eq_true_eq] at hm
    exact Acts.tcEvent .refl fun _ h => h.listenExpiry hm.2
  · exact .refl

theorem trainExpiryAt (p : Port) : Acts free s (trainExpiryAt p s) := by
  unfold Machine.trainExpiryAt
  split
  · exact Acts.tcEvent .refl fun hset h => h.failAttempt (tries_le hset p)
  · exact .refl

theorem takeWithdrawAt (p : Port) : Acts free s (takeWithdrawAt p s) := by
  unfold Machine.takeWithdrawAt
  split
  · exact Acts.takeWithdraw (Acts.modPort .refl ⟨rfl, rfl, rfl, rfl, rfl, rfl, rfl, rfl⟩ rfl)
  · exact .refl

theorem takeFiring {p : Port} {f : Firing} (hs : Acts free s t) : Acts free s (t.takeFiring p f) := by
  unfold State.takeFiring
  split
  · exact hs.recordSource
  · exact Acts.modPort hs.recordSource ⟨rfl, rfl, rfl, rfl, rfl, rfl, rfl, rfl⟩ rfl

theorem guardFiringAt (p : Port) : Acts free s (guardFiringAt p s) := by
  unfold Machine.guardFiringAt
  split
  · exact Acts.takeFiring (Acts.modPort .refl ⟨rfl, rfl, rfl, rfl, rfl, rfl, rfl, rfl⟩ rfl)
  · exact .refl

/-! ### The Probe Scheduler and the engines -/

theorem takeAutoProbe {p : Port} (hs : Acts free s t) : Acts free s (t.takeAutoProbe p) := by
  unfold State.takeAutoProbe
  dsimp only
  split
  · exact hs
  · split
    · exact hs.elsewhere
    · split
      · exact hs
      · split
        · exact Acts.schedEvent hs.elsewhere fun h => nomatch h
        · exact hs.schedEvent fun h => nomatch h

theorem autoProbeRequestAt (p : Port) : Acts free s (autoProbeRequestAt p s) := by
  unfold Machine.autoProbeRequestAt
  split
  · exact .refl
  · exact Acts.takeAutoProbe (Acts.modPort .refl ⟨rfl, rfl, rfl, rfl, rfl, rfl, rfl, rfl⟩ rfl)

theorem takePowerNotice {p : Port} (hs : Acts free s t) : Acts free s (t.takePowerNotice p) := by
  unfold State.takePowerNotice
  split
  · exact hs.stopOnPower
  · split
    · split
      · exact Acts.endSuspended hs.report fun h => nomatch h
      · exact hs
    · exact hs

theorem powerNoticeAt (p : Port) : Acts free s (powerNoticeAt p s) := by
  have hs : Acts free s (s.modPort p fun ps => { ps with powerNotice := false }) :=
    Acts.modPort .refl ⟨rfl, rfl, rfl, rfl, rfl, rfl, rfl, rfl⟩ rfl
  unfold Machine.powerNoticeAt
  split
  · dsimp only
    split
    · exact hs.takePowerNotice
    · exact hs
  · exact .refl

theorem dispatchHead : Acts free s (dispatchHead s) := by
  unfold Machine.dispatchHead
  split
  · exact .refl
  · split
    · split
      · exact .refl
      · dsimp only
        split
        · exact Acts.abortPowered (Acts.elsewhere .refl)
        · exact Acts.offerPlace (fun h => nomatch h) (Acts.lendTo (Acts.elsewhere .refl))
    · exact .refl

theorem resumeHead : Acts free s (resumeHead s) := by
  unfold Machine.resumeHead
  split
  · exact .refl
  · split
    · split
      · exact .refl
      · split
        · exact .refl
        · exact Acts.schedEvent (Acts.elsewhere .refl) fun h => nomatch h
    · exact .refl

theorem preemptForHead : Acts free s (preemptForHead s) := by
  unfold Machine.preemptForHead
  split
  · exact .refl
  · split
    · split
      · exact .refl
      · split
        · exact .refl
        · dsimp only
          split
          · exact Acts.abortPowered (Acts.elsewhere .refl)
          · exact Acts.schedEvent (Acts.lendTo (Acts.elsewhere .refl)) fun h => nomatch h
    · exact .refl

theorem waitExpiryOf (e : EngineId) : Acts free s (waitExpiryOf e s) := by
  unfold Machine.waitExpiryOf
  split
  · exact Acts.elsewhere .refl
  · exact .refl

theorem sweepCompletionOf (e : EngineId) (echoes : List Echo) : Acts free s (sweepCompletionOf e echoes s) := by
  unfold Machine.sweepCompletionOf
  split
  · exact Acts.setEngine .refl
  · exact .refl

/-! ### Endings -/

theorem reconcile {p : Port} {completed : List PairResult} (hs : Acts free s t) (hb : t.bind = none) :
    Acts free s (t.reconcile p completed) := by
  have hc : Acts free s (t.commit p (LineRecord.rederive t.settings { (t.port p).record with
      findings := sortFindings (t.reconciled p completed).findings, pairs := (t.reconciled p completed).pairs })) :=
    hs.tail (.store p _ (.inr hb) ⟨rfl, rfl, rfl, LineRecord.rederive_keepsCeiling _ _ _⟩)
  unfold State.reconcile
  dsimp only
  split
  · exact hc.report
  · exact hc

theorem takeRunEdges {p : Port} {edges : List GuardSource} (hs : Acts free s t) :
    Acts free s (t.takeRunEdges p edges) := by
  unfold State.takeRunEdges
  split
  · exact Acts.takeWithdraw hs.recordSource
  · exact hs.recordSource

theorem takeEndingCompleteOf (e : EngineId) : Acts free s (takeEndingCompleteOf e s) := by
  unfold Machine.takeEndingCompleteOf
  split
  · split
    · exact .refl
    · next hb =>
      have hb : s.bind = none := by simp [State.bound] at hb; exact hb.1
      refine Acts.event ?_ (fun h => nomatch h) fun _ h => ?_
      · exact Acts.releaseEngine (Acts.takeRunEdges (Acts.reconcile .refl hb))
      · exact PortMachine.consistent.returnPort h _
  · exact .refl

theorem takeEndingAbortedOf (e : EngineId) : Acts free s (takeEndingAbortedOf e s) := by
  unfold Machine.takeEndingAbortedOf
  split
  · split
    · exact .refl
    · exact .refl
    · split
      · exact .refl
      · exact Acts.endAborted (Acts.releaseEngine .refl) fun h => nomatch h
  · exact .refl

/-- An ending RESET whose port alone has a PORT-RESET under way (R85). -/
theorem takeEndingResetOf {e : EngineId}
    (hr : ∀ r, s.engine e = .closing r .reset → ∀ q, s.resetting q → q = r.port) :
    Acts free s (takeEndingResetOf e s) := by
  unfold Machine.takeEndingResetOf
  split
  · next r he =>
    split
    · exact .refl
    · next hb =>
      have hs : Acts free s (s.releaseEngine e) := Acts.releaseEngine .refl
      exact hs.tail (.portReset r.port true (.inr (show s.bind = none by simpa [State.bound] using hb)) (hr r he))
  · exact .refl

/-! ### The SEARCH scan -/

theorem scanExamine : Acts free s (scanExamine s) :=
  Acts.quiet .refl (scanExamine_hostQuiet s).toQuiet fun _ p => by
    unfold Machine.scanExamine
    split
    · split
      · dsimp only
        split <;> rfl
      · rfl
    · rfl

theorem searchCompleteOf : Acts free s (searchCompleteOf s) :=
  Acts.quiet .refl (searchCompleteOf_hostQuiet s).toQuiet fun _ p => by
    unfold Machine.searchCompleteOf
    split
    · rfl
    · split <;> rfl
    · rfl

/-! ### The end of a bind, and the host -/

theorem endBind (hs : Acts true s t) : Acts true s t.endBind := by
  have ha := hs.tail (.bindEnds rfl)
  unfold State.endBind State.finishSuspendedReset
  split
  · next p hb =>
    refine ha.tail (.portReset p true (.inl rfl) ?_)
    rintro q ⟨b, hq⟩
    rw [hb] at hq
    cases hq
    rfl
  · exact ha

theorem bindExpiryOf : Acts true s (bindExpiryOf s) := by
  unfold Machine.bindExpiryOf
  split
  · split
    · exact Acts.endBind (Acts.report .refl)
    · exact .refl
  · exact .refl

theorem beginDeviceReset (hs : Acts true s t) : Acts true s t.beginDeviceReset :=
  hs.tail (.deviceReset _ rfl rfl rfl rfl)

theorem deviceResetCompletes : Acts true s (deviceResetCompletes s) := by
  unfold Machine.deviceResetCompletes
  split
  · exact Relation.ReflTransGen.single (.deviceReset _ rfl rfl rfl rfl)
  · exact .refl

theorem resetnFalls : Acts true s (resetnFalls s) := by
  unfold Machine.resetnFalls
  split
  · exact Relation.ReflTransGen.single (.deviceReset _ rfl rfl rfl rfl)
  · exact .refl

/-- The Scheduler's part of a PORT-RESET, behind the clearing of a WANTED standing. -/
theorem resetScheduling (p : Port) : Acts true (s.modPort p PortState.clearWanted) (s.resetScheduling p) := by
  unfold State.resetScheduling
  dsimp only
  split
  · exact Acts.setEngine .refl
  · split
    · exact Acts.offerPlace (fun _ => rfl) (Acts.elsewhere .refl)
    · exact .refl

theorem probePort {p : Port} {pairs : PairSet} {cls : ReqClass} (hs : Acts true s t) :
    Acts true s (probePort p pairs cls t) := by
  have refuse (c : Cause) (q : Option Port) : Acts true s (t.refuse c q) := hs.elsewhere
  unfold Machine.probePort
  dsimp only
  split
  · exact refuse _ _
  · split
    · exact refuse _ _
    · split
      · exact refuse _ _
      · split
        · exact Acts.withReply hs.elsewhere
        · split
          · exact refuse _ _
          · split <;> exact Acts.withReply (Acts.schedEvent hs.elsewhere fun _ => rfl)

theorem cancelPort {p : Port} (hs : Acts true s t) : Acts true s (cancelPort p t) := by
  unfold Machine.cancelPort
  refine Acts.withReply ?_
  split
  · exact hs.setEngine
  · split
    · split
      · exact hs.endSuspended fun _ => rfl
      · exact Acts.offerPlace (fun _ => rfl) (Acts.schedEvent hs.elsewhere fun _ => rfl)
    · split
      · exact hs.schedEvent fun _ => rfl
      · exact hs

omit free in
theorem machineCommand_consistent {p : Port} {out : TcEffect} (h : s.MachineCommand p out)
    (hm : (s.port p).tc.consistent) : out.m.consistent := by
  rcases h with rfl | rfl | ho | rfl
  · exact hm.park
  · exact hm.unpark
  · exact hm.restart? ho
  · exact hm.rearm

end Acts

/-- What acts keep, and the acceptance of a PORT-RESET, every transaction of the host keeps. -/
theorem hostKeeps_of_acts {I : State → Prop} (hact : ∀ {s t}, Act true s t → I s → I t)
    (hreset : ∀ {s : State} (p : Port), s.busy = none → I s → I (portResetPort p s)) : HostKeeps I where
  quiet h hs := hact (.quiet _ h.toQuiet (fun h => nomatch h)) hs
  setting h hs := hact (.setting _ rfl h) hs
  template h hs := hact (.template _ _ rfl h) hs
  store h hs := hact (.store _ _ (.inl rfl) h) hs
  deviceReset hs := Acts.keeps hact (Acts.beginDeviceReset .refl) hs
  endBind hs := Acts.keeps hact (Acts.endBind .refl) hs
  machine h hs := hact (.event _ _ _ _ (fun _ => rfl) fun _ hm => Acts.machineCommand_consistent h hm) hs
  portReset p hb hs := hreset p hb hs
  probe _ _ _ _ _ hs := Acts.keeps hact (Acts.probePort .refl) hs
  cancel _ _ hs := Acts.keeps hact (Acts.cancelPort .refl) hs

/-- Every command but a host's, a device reset's, the end of a bind and the taking of an ending RESET is made of acts that
keep the records still under a bind. -/
theorem exec_acts {c : Instr} {s t : State} (hhost : isHost c = false) (hreset : isReset c = false)
    (hexpiry : c ≠ .bindExpiry) (hending : ∀ e, c ≠ .takeEndingReset e) (he : exec c s = .next t) :
    Acts false s t := by
  cases c <;> simp only [isHost, isReset, Bool.true_eq_false, reduceCtorEq, ne_eq,
    not_true_eq_false, Instr.takeEndingReset.injEq, forall_eq'] at hhost hreset hexpiry hending <;> cases he
  case frameReceive => exact Acts.receiveFrame _ _
  case silenceExpiry => exact Acts.silenceExpiryOf _
  case idleFrameSend => exact Acts.idleFrameSendOf _
  case transmitMessage => exact Acts.transmitMessageOf _
  case takePower => exact Acts.takePowerAt _
  case takeDetached => exact Acts.takeDetachedAt _
  case takeEnergy => exact Acts.takeEnergyAt _
  case takeLost => exact Acts.takeLostAt _
  case takeResultPass => exact Acts.takeResultPassAt _
  case takeResultFail => exact Acts.takeResultFailAt _
  case takePage => exact Acts.takePageAt _
  case listenExpiry => exact Acts.listenExpiryAt _
  case trainExpiry => exact Acts.trainExpiryAt _
  case takeWithdraw => exact Acts.takeWithdrawAt _
  case guardFiring => exact Acts.guardFiringAt _
  case autoProbeRequest => exact Acts.autoProbeRequestAt _
  case powerNotice => exact Acts.powerNoticeAt _
  case dispatch => exact Acts.dispatchHead
  case resumption => exact Acts.resumeHead
  case preemption => exact Acts.preemptForHead
  case waitExpiry => exact Acts.waitExpiryOf _
  case sweepCompletion => exact Acts.sweepCompletionOf _ _
  case takeEndingComplete => exact Acts.takeEndingCompleteOf _
  case takeEndingAborted => exact Acts.takeEndingAbortedOf _
  case searchComplete => exact Acts.searchCompleteOf
  case resetnRelease => exact Acts.elsewhere .refl
  case scanExamineRecord => exact Acts.scanExamine

end Sys2Proof.Machine

end

section

namespace Sys2Proof.Machine

/-! ## The offering of a place (R73) -/

/-- Only the ports and the queue may differ. -/
def SameButQueue (s t : State) : Prop := { t with ports := s.ports, queue := s.queue } = s

theorem SameButQueue.refl (s : State) : SameButQueue s s := rfl

theorem SameButQueue.trans {s t u : State} (h : SameButQueue s t) (k : SameButQueue t u) : SameButQueue s u := by
  unfold SameButQueue at *
  rw [← h, ← k]

theorem SameOutsidePorts.sameButQueue {s t : State} (h : SameOutsidePorts s t) : SameButQueue s t := by
  show { t with ports := s.ports, queue := s.queue } = s
  rw [← h.queue]
  exact h

theorem SameButQueue.setQueue (s : State) (q : List Entry) : SameButQueue s { s with queue := q } := rfl

section

variable {s t : State} (h : SameButQueue s t)

include h

theorem SameButQueue.engines : t.engines = s.engines := by
  rw [← show { t with ports := s.ports, queue := s.queue } = s from h]
theorem SameButQueue.order : t.order = s.order := by
  rw [← show { t with ports := s.ports, queue := s.queue } = s from h]
theorem SameButQueue.bind : t.bind = s.bind := by
  rw [← show { t with ports := s.ports, queue := s.queue } = s from h]
theorem SameButQueue.busy : t.busy = s.busy := by
  rw [← show { t with ports := s.ports, queue := s.queue } = s from h]

end

/-- A port that was not promoted when a place was offered: it stands as it stood, or is WANTED no longer. -/
def ProbeStatus.PassedOver (before after : ProbeStatus) : Prop :=
  after = before ∨ (before = .wanted ∧ after = .none)

theorem State.schedEvent_onlyPort (s : State) (host : Bool) (p : Port) (sched : SchedFields) :
    OnlyPort p s (s.schedEvent host p sched) := State.event_onlyPort s host p _ sched

theorem State.schedEvent_tc (s : State) (host : Bool) (p q : Port) (sched : SchedFields) :
    ((s.schedEvent host p sched).port q).tc = (s.port q).tc := by
  by_cases hq : q = p
  · subst hq; exact State.event_tc s host q _ sched
  · rw [(State.schedEvent_onlyPort s host p sched).2 q hq]

theorem State.schedEvent_sched (s : State) (host : Bool) (p q : Port) (sched : SchedFields) :
    ((s.schedEvent host p sched).port q).sched = if q = p then sched else (s.port q).sched := by
  by_cases hq : q = p
  · subst hq; rw [if_pos rfl]; exact State.event_sched s host q _ sched
  · rw [(State.schedEvent_onlyPort s host p sched).2 q hq, if_neg hq]

/-- What the offering of a place does: at most one WANTED port is promoted to the tail of the queue. -/
theorem State.offerPlaceTo_cases (host : Bool) (l : List Port) (s : State) :
    SameButQueue s (s.offerPlaceTo host l) ∧ (∀ q, ((s.offerPlaceTo host l).port q).tc = (s.port q).tc)
      ∧ (((s.offerPlaceTo host l).queue = s.queue
          ∧ ∀ q, (s.port q).sched.status.PassedOver ((s.offerPlaceTo host l).port q).sched.status)
        ∨ ∃ p, (s.port p).sched.status = .wanted ∧ (s.offerPlaceTo host l).queue = joinTail s.queue (routineEntry p)
          ∧ ((s.offerPlaceTo host l).port p).sched.status = .queued
          ∧ ∀ q, q ≠ p → (s.port q).sched.status.PassedOver ((s.offerPlaceTo host l).port q).sched.status) := by
  induction l generalizing s with
  | nil => exact ⟨.refl s, fun _ => rfl, .inl ⟨rfl, fun _ => .inl rfl⟩⟩
  | cons p rest ih =>
    unfold State.offerPlaceTo
    dsimp only
    split
    · next hw =>
      split
      · have honly := State.schedEvent_onlyPort { s with queue := joinTail s.queue (routineEntry p) } host p
          { (s.port p).sched with status := .queued }
        refine ⟨(SameButQueue.setQueue s _).trans honly.1.sameButQueue,
          fun q => State.schedEvent_tc _ host p q _, .inr ⟨p, hw, honly.1.queue, ?_, fun q hq => ?_⟩⟩
        · rw [State.schedEvent_sched, if_pos rfl]
        · rw [State.schedEvent_sched, if_neg hq]
          exact .inl rfl
      · have hsched (q : Port) := State.schedEvent_sched s host p q { (s.port p).sched with status := .none }
        have htc (q : Port) := State.schedEvent_tc s host p q { (s.port p).sched with status := .none }
        have honly := State.schedEvent_onlyPort s host p { (s.port p).sched with status := .none }
        generalize s.schedEvent host p { (s.port p).sched with status := .none } = u at *
        obtain ⟨hsame, htc', hcases⟩ := ih u
        have passed {q : Port} {x : ProbeStatus} (h : (u.port q).sched.status.PassedOver x) :
            (s.port q).sched.status.PassedOver x := by
          rw [hsched] at h
          split at h
          · next hq =>
            subst hq
            rcases h with rfl | ⟨h, -⟩
            · exact .inr ⟨hw, rfl⟩
            · cases h
          · exact h
        refine ⟨honly.1.sameButQueue.trans hsame, fun q => (htc' q).trans (htc q), ?_⟩
        rw [honly.1.queue] at hcases
        rcases hcases with ⟨hqueue, hall⟩ | ⟨p', hw', hqueue, hp', hall⟩
        · exact .inl ⟨hqueue, fun q => passed (hall q)⟩
        · refine .inr ⟨p', ?_, hqueue, hp', fun q hq => passed (hall q hq)⟩
          rw [hsched] at hw'
          split at hw'
          · cases hw'
          · exact hw'
    · exact ih s

end Sys2Proof.Machine

end

section

namespace Sys2Proof.Machine

/-! ## What every step keeps -/

/-- What is allowed without `free` is allowed with it. -/
theorem Act.toFree {s t : State} (h : Act false s t) : Act true s t := by
  cases h with
  | quiet t h hc => exact .quiet t h fun h => nomatch h
  | event host p out sched _ hm => exact .event host p out sched (fun _ => rfl) hm
  | guard p x => exact .guard p x
  | store p r _ h => exact .store p r (.inl rfl) h
  | portReset p b _ h => exact .portReset p b (.inl rfl) h
  | portResetWaits _ _ hf _ | bindEnds hf | setting _ hf _ | template _ _ hf _ | deviceReset _ hf _ _ _ => cases hf

theorem isReset_cases {c : Instr} (hc : isReset c = true) :
    c = .resetnAssert ∨ c = .powerUp ∨ c = .deviceResetComplete := by
  cases c <;> simp_all [isReset]

/-- What acts and the two ends of a PORT-RESET keep, every command keeps. -/
theorem exec_keeps {I : State → Prop} (hact : ∀ {s t}, Act true s t → I s → I t)
    (hreset : ∀ {s : State} (p : Port), s.busy = none → I s → I (portResetPort p s)) {c : Instr} {s t : State}
    (hending : ∀ e, I (takeEndingResetOf e s)) (he : exec c s = .next t) (hs : I s) : I t := by
  by_cases hhost : isHost c = true
  · exact (hostKeeps_of_acts hact hreset).exec hhost he hs
  by_cases hr : isReset c = true
  · rcases isReset_cases hr with rfl | rfl | rfl <;> cases he
    · exact Acts.keeps hact Acts.resetnFalls hs
    · exact Acts.keeps hact (Acts.beginDeviceReset .refl) hs
    · exact Acts.keeps hact Acts.deviceResetCompletes hs
  by_cases hx : c = .bindExpiry
  · subst hx
    cases he
    exact Acts.keeps hact Acts.bindExpiryOf hs
  by_cases hend : ∃ e, c = .takeEndingReset e
  · obtain ⟨e, rfl⟩ := hend
    cases he
    exact hending e
  · have ha : Acts false s t := exec_acts (by simpa using hhost) (by simpa using hr) hx (by simpa using hend) he
    exact Acts.keeps (fun h => hact h.toFree) ha hs

/-- A step keeps what every command and a tick keep, where the queue of commands is no matter. -/
theorem step_keeps {I : State → Prop} (hexec : ∀ {c : Instr} {s t : State}, exec c s = .next t → I s → I t)
    (htick : ∀ {s}, I s → I (tick s)) (hpending : ∀ {s : State} (l : List Instr), I s → I { s with pending := l })
    {s t : State} (h : step s = .next t) (hs : I s) : I t := by
  unfold step at h
  split at h
  · exact hexec h (hpending _ hs)
  · cases h
    exact htick hs

theorem mapVector_getElem {α β : Type} {n : Nat} (f : α → β) (v : Vector α n) (i : Fin n) :
    (mapVector f v)[i] = f v[i] := by
  simp [mapVector]

@[simp] theorem port_tick (s : State) (p : Port) : (tick s).port p = (s.port p).tick := mapVector_getElem _ _ p

@[simp] theorem engine_tick (s : State) (e : EngineId) : (tick s).engine e = (s.engine e).tick := mapVector_getElem _ _ e

/-! ### The ends of a PORT-RESET -/

/-- A PORT-RESET whose port's waiting updates have been discarded: the reset update clears them in any case. -/
theorem State.completePortReset_discard (s : State) (p : Port) (aborted : Bool) :
    (s.modPort p PortState.discardWaiting).completePortReset p aborted = s.completePortReset p aborted := by
  simp only [State.completePortReset, State.portResetUpdate, State.modPort, State.port_setPort_self,
    State.setPort_setPort]
  rfl

/-- An accepted PORT-RESET is made at once or waits, once the Scheduler has done its part. -/
theorem portResetPort_cases (p : Port) (s : State) :
    (∃ b, portResetPort p s = (s.resetScheduling p).completePortReset p b)
      ∨ ∃ b, portResetPort p s =
        { (s.resetScheduling p).modPort p PortState.discardWaiting with busy := some (.portReset p b) } := by
  unfold portResetPort
  dsimp only
  split
  · exact .inl ⟨_, State.completePortReset_discard _ _ _⟩
  · split
    · exact .inr ⟨_, rfl⟩
    · exact .inl ⟨_, State.completePortReset_discard _ _ _⟩
  · exact .inr ⟨_, rfl⟩

/-- The operation under way is that of the state before. -/
theorem State.busy_resetScheduling (s : State) (p : Port) : (s.resetScheduling p).busy = s.busy := by
  unfold State.resetScheduling
  dsimp only
  split
  · rfl
  · split
    · exact (State.offerPlaceTo_cases _ allPorts _).1.busy
    · rfl

/-- What acts and the clearing of a WANTED standing keep, an accepted PORT-RESET keeps. -/
theorem portResetPort_keeps {I : State → Prop} (hact : ∀ {s t}, Act true s t → I s → I t) {s : State} {p : Port}
    (hb : s.busy = none) (hs : I (s.modPort p PortState.clearWanted)) : I (portResetPort p s) := by
  have hi : I (s.resetScheduling p) := Acts.keeps hact (Acts.resetScheduling p) hs
  have hr : ∀ q, ¬ (s.resetScheduling p).resetting q := by
    rintro q ⟨b, h⟩
    rw [State.busy_resetScheduling, hb] at h
    cases h
  rcases portResetPort_cases p s with ⟨b, h⟩ | ⟨b, h⟩ <;> rw [h]
  · exact hact (.portReset p b (.inl rfl) fun q k => absurd k (hr q)) hi
  · exact hact (.portResetWaits p b rfl hr) hi

/-- The taking of an ending RESET makes the PORT-RESET, without a bind (R85). -/
theorem takeEndingResetOf_cases (e : EngineId) (s : State) :
    takeEndingResetOf e s = s
      ∨ ∃ r, s.engine e = .closing r .reset ∧ s.bind = none
        ∧ takeEndingResetOf e s = (s.releaseEngine e).completePortReset r.port true := by
  unfold takeEndingResetOf
  split
  · next r he =>
    split
    · exact .inl rfl
    · next hb => exact .inr ⟨r, he, by simpa [State.bound] using hb, rfl⟩
  · exact .inl rfl

/-! ### The training machines -/

theorem Timer.tick_ne_none {t : Timer} : t.tick ≠ none ↔ t ≠ none := by
  cases t <;> simp [Timer.tick]

theorem PortState.tick_consistent {ps : PortState} (h : ps.tc.consistent) : ps.tick.tc.consistent := by
  obtain ⟨hresolved, hattempts, hmax, hlisten, htrain, hcause, hreturn⟩ := h
  exact ⟨hresolved, hattempts, hmax, fun k => hlisten (Timer.tick_ne_none.1 k),
    fun k => htrain (Timer.tick_ne_none.1 k), hcause, hreturn⟩

theorem State.completePortReset_machinesOk {s : State} (p : Port) (aborted : Bool) (hs : s.machinesOk) :
    (s.completePortReset p aborted).machinesOk := by
  obtain ⟨honly, -, heq⟩ := State.portResetUpdate_leaves s p aborted
  refine State.machinesOk_of_onlyPort (t := s.portResetUpdate p aborted) honly hs ?_
  rw [heq]
  exact PortMachine.portReset_consistent (s.port p).tc

theorem State.clearWanted_machinesOk {s : State} (p : Port) (hs : s.machinesOk) :
    (s.modPort p PortState.clearWanted).machinesOk := by
  refine State.machinesOk_of_onlyPort (OnlyPort.modPort s p _) hs ?_
  rw [State.port_modPort_self, PortState.clearWanted]
  split <;> exact hs.2 p

theorem exec_machinesOk {c : Instr} {s t : State} (h : exec c s = .next t) (hs : s.machinesOk) : t.machinesOk := by
  refine exec_keeps Act.machinesOk (fun p hb hs => ?_) (fun e => ?_) h hs
  · exact portResetPort_keeps Act.machinesOk hb (State.clearWanted_machinesOk p hs)
  · rcases takeEndingResetOf_cases e s with h | ⟨r, -, -, h⟩ <;> rw [h]
    · exact hs
    · exact State.completePortReset_machinesOk (s := s.releaseEngine e) r.port true hs

/-- Settles O54: every command is made of acts, and no act leaves a machine inconsistent. -/
theorem everyStepKeepsTheMachinesConsistent : Obligations.EveryStepKeepsTheMachinesConsistent := by
  intro s t hs h
  refine step_keeps exec_machinesOk (fun {s} hs => ⟨hs.1, fun p => ?_⟩) (fun _ hs => hs) h hs
  rw [port_tick]
  exact PortState.tick_consistent (hs.2 p)

/-! ### The records -/

theorem State.completePortReset_recordsDerived {s : State} (p : Port) (aborted : Bool) (hs : s.recordsDerived) :
    (s.completePortReset p aborted).recordsDerived := by
  obtain ⟨honly, -, heq⟩ := State.portResetUpdate_leaves s p aborted
  refine State.recordsDerived_of_onlyPort (t := s.portResetUpdate p aborted) honly hs ?_
  rw [heq]
  exact LineRecord.reset_derived _ _ _ rfl

theorem State.clearWanted_recordsDerived {s : State} (p : Port) (hs : s.recordsDerived) :
    (s.modPort p PortState.clearWanted).recordsDerived := by
  refine State.recordsDerived_of_onlyPort (OnlyPort.modPort s p _) hs ?_
  rw [State.port_modPort_self, PortState.clearWanted]
  split <;> exact hs p

theorem exec_recordsDerived {c : Instr} {s t : State} (h : exec c s = .next t) (hs : s.recordsDerived) :
    t.recordsDerived := by
  refine exec_keeps Act.recordsDerived (fun p hb hs => ?_) (fun e => ?_) h hs
  · exact portResetPort_keeps Act.recordsDerived hb (State.clearWanted_recordsDerived p hs)
  · rcases takeEndingResetOf_cases e s with h | ⟨r, -, -, h⟩ <;> rw [h]
    · exact hs
    · exact State.completePortReset_recordsDerived (s := s.releaseEngine e) r.port true hs

theorem Act.recordsPublished {s t : State} (h : Act true s t) (hs : s.recordsPublished) : t.recordsPublished :=
  (State.publishedBut_none t).1 (h.publishedBut ((State.publishedBut_none s).2 hs))

/-- Between the clearing of a WANTED standing and the reset update, the port itself need not be published. -/
theorem portResetPort_recordsPublished {s : State} (p : Port) (hb : s.busy = none) (hs : s.recordsPublished) :
    (portResetPort p s).recordsPublished := by
  have hclear : (s.modPort p PortState.clearWanted).publishedBut (· = p) := by
    intro q
    rw [State.port_modPort]
    obtain ⟨hn, hj, hp⟩ := hs q
    by_cases hq : q = p
    · subst hq
      rw [if_pos rfl, PortState.clearWanted]
      split <;> exact ⟨hn, hj, fun k => absurd rfl k⟩
    · rw [if_neg hq]
      exact ⟨hn, hj, fun _ => hp⟩
  have hsched : (s.resetScheduling p).publishedBut (· = p) :=
    Acts.keeps Act.publishedBut (Acts.resetScheduling p) hclear
  have hr : ∀ q, ¬ (s.resetScheduling p).resetting q := by
    rintro q ⟨b, h⟩
    rw [State.busy_resetScheduling, hb] at h
    cases h
  rw [← State.publishedBut_none]
  rcases portResetPort_cases p s with ⟨b, h⟩ | ⟨b, h⟩ <;> rw [h]
  · exact (State.completePortReset_publishedBut b (fun q k => absurd k (hr q)) hsched).mono fun q k => k.1 k.2
  · exact (State.portResetWaits_publishedBut b hr hsched).mono fun q k => k.1 k.2

theorem exec_recordsPublished {c : Instr} {s t : State} (hok : s.schedulerOk) (h : exec c s = .next t)
    (hs : s.recordsPublished) : t.recordsPublished := by
  refine exec_keeps Act.recordsPublished (fun p hb hs => portResetPort_recordsPublished p hb hs) (fun e => ?_) h hs
  refine Acts.keeps (Act.recordsPublished ∘ Act.toFree) (Acts.takeEndingResetOf fun r he q ⟨b, hq⟩ => ?_) hs
  obtain ⟨-, -, -, hending, -⟩ := hok
  rw [hending e r he] at hq
  cases hq
  rfl

theorem tick_recordsPublished {s : State} (hs : s.recordsPublished) : (tick s).recordsPublished := by
  intro p
  have hb : (tick s).bind = none ↔ s.bind = none := by simp [tick]
  rw [port_tick, hb]
  exact hs p

/-- Settles O55, by the acts every command is made of. -/
theorem everyStepKeepsTheDerivedFields : Obligations.EveryStepKeepsTheDerivedFields := by
  refine ⟨fun s t hs h => ?_, fun s t hok hs h => ?_⟩
  · refine step_keeps exec_recordsDerived (fun {s} hs p => ?_) (fun _ hs => hs) h hs
    rw [port_tick]
    exact hs p
  · unfold step at h
    split at h
    · next c rest _ => exact exec_recordsPublished (s := { s with pending := rest }) hok h hs
    · cases h
      exact tick_recordsPublished hs

/-- Settles O60: the acts of a command that is neither the host's nor a reset keep the records still under a bind. -/
theorem boundRecordsKeepStill : Obligations.BoundRecordsKeepStill := by
  intro c s t hb hhost hreset hexpiry h
  have hs : s.StillUnderBind s := ⟨hb, fun _ => ⟨rfl, rfl⟩⟩
  by_cases hend : ∃ e, c = .takeEndingReset e
  · obtain ⟨e, rfl⟩ := hend
    cases h
    rcases takeEndingResetOf_cases e s with h | ⟨-, -, hn, -⟩
    · rw [h]
      exact hs.2
    · exact absurd hn hb
  · exact (Acts.keeps Act.stillUnderBind (exec_acts hhost hreset hexpiry (by simpa using hend) h) hs).2

end Sys2Proof.Machine

end

section

namespace Sys2Proof.Machine

/-! ## Where a port stands with the Probe Scheduler (R9, R67, R74, R85) -/

/-! ### What an engine and the queue hold of a port -/

/-- The engine is CLOSING with ending RESET. -/
def Engine.endsInReset : Engine → Bool
  | .closing _ .reset => true
  | _ => false

/-- What an engine holds of port `p`: the pairs requested, and whether its ending is RESET. -/
def Engine.view (p : Port) (x : Engine) : Option (PairSet × Bool) :=
  match x.run? with
  | some r => if r.port = p then some (r.requested, x.endsInReset) else none
  | none => none

theorem Engine.view_of_run {x : Engine} {r : Run} (h : x.run? = some r) (p : Port) :
    x.view p = if r.port = p then some (r.requested, x.endsInReset) else none := by
  simp only [Engine.view, h]

@[simp] theorem Engine.view_idle (p : Port) : Engine.idle.view p = none := rfl

theorem Engine.view_ne_none {x : Engine} {p : Port} : x.view p ≠ none ↔ ∃ r, x.run? = some r ∧ r.port = p := by
  unfold Engine.view
  cases x.run? <;> simp

theorem Engine.endsInReset_iff {x : Engine} : x.endsInReset = true ↔ ∃ r, x = .closing r .reset := by
  cases x with
  | closing r e => cases e <;> simp [Engine.endsInReset]
  | _ => simp [Engine.endsInReset]

/-- The engine holds a run. -/
def Engine.busy (x : Engine) : Prop := x.run? ≠ none

theorem Engine.view_some {x : Engine} {p : Port} {v : PairSet × Bool} (h : x.view p = some v) :
    ∃ r, x.run? = some r ∧ r.port = p ∧ v = (r.requested, x.endsInReset) := by
  unfold Engine.view at h
  split at h
  · next r hr =>
    split at h
    · next hp => exact ⟨r, hr, hp, (Option.some.inj h).symm⟩
    · cases h
  · cases h

/-- The queue holds an entry of port `p`, suspended or not. -/
def queueHolds (q : List Entry) (p : Port) (suspended : Bool) : Prop :=
  ∃ x ∈ q, x.port = p ∧ x.suspended.isSome = suspended

theorem queueHolds_cons {q : List Entry} {x : Entry} {p : Port} {b : Bool} :
    queueHolds (x :: q) p b ↔ (x.port = p ∧ x.suspended.isSome = b) ∨ queueHolds q p b := by
  simp [queueHolds]

theorem urgentPart_append_routinePart (q : List Entry) : urgentPart q ++ routinePart q = q :=
  List.takeWhile_append_dropWhile

theorem mem_joinFrontOfRoutine {q : List Entry} {x y : Entry} : y ∈ joinFrontOfRoutine q x ↔ y = x ∨ y ∈ q := by
  conv_rhs => rw [← urgentPart_append_routinePart q]
  simp only [joinFrontOfRoutine, List.mem_append, List.mem_cons]
  tauto

theorem mem_joinTail {q : List Entry} {x y : Entry} : y ∈ joinTail q x ↔ y = x ∨ y ∈ q := by
  unfold joinTail
  split
  · exact mem_joinFrontOfRoutine
  · simp [or_comm]

theorem queueHolds_joinTail {q : List Entry} {x : Entry} {p : Port} {b : Bool} :
    queueHolds (joinTail q x) p b ↔ (x.port = p ∧ x.suspended.isSome = b) ∨ queueHolds q p b := by
  simp [queueHolds, mem_joinTail]

theorem queueHolds_joinFrontOfRoutine {q : List Entry} {x : Entry} {p : Port} {b : Bool} :
    queueHolds (joinFrontOfRoutine q x) p b ↔ (x.port = p ∧ x.suspended.isSome = b) ∨ queueHolds q p b := by
  simp [queueHolds, mem_joinFrontOfRoutine]

theorem queueHolds_filter {q : List Entry} {p p' : Port} {b : Bool} :
    queueHolds (q.filter fun x => decide (x.port ≠ p')) p b ↔ p ≠ p' ∧ queueHolds q p b := by
  simp only [queueHolds, List.mem_filter, decide_eq_true_eq]
  constructor
  · rintro ⟨x, ⟨hx, hne⟩, rfl, hb⟩
    exact ⟨hne, x, hx, rfl, hb⟩
  · rintro ⟨hne, x, hx, rfl, hb⟩
    exact ⟨x, ⟨hx, hne⟩, rfl, hb⟩

theorem queueHolds_map {q : List Entry} {g : Entry → Entry} (hp : ∀ x ∈ q, (g x).port = x.port)
    (hs : ∀ x ∈ q, (g x).suspended = x.suspended) {p : Port} {b : Bool} : queueHolds (q.map g) p b ↔ queueHolds q p b := by
  simp only [queueHolds, List.mem_map]
  constructor
  · rintro ⟨-, ⟨x, hx, rfl⟩, h, k⟩
    exact ⟨x, hx, hp x hx ▸ h, hs x hx ▸ k⟩
  · rintro ⟨x, hx, h, k⟩
    exact ⟨g x, ⟨x, hx, rfl⟩, (hp x hx).trans h, by rw [hs x hx]; exact k⟩

/-! ### The five standings -/

/-- The statuses of a port that is in the queue, on an engine, or suspended. -/
def ProbeStatus.placed : ProbeStatus → Bool
  | .queued | .running | .suspended => true
  | _ => false

/-- Where a port stands: on no list, queued, on an engine, suspended in the queue, or suspended with its PORT-RESET
waiting behind a bind; and what its probe status, its mode and the operation under way say of it. -/
inductive State.Stands (s : State) (p : Port) : Prop where
  | apart (status : (s.port p).sched.status.placed = false) (mode : (s.port p).tc.f.mode ≠ .lent)
      (queue : ∀ b, ¬ queueHolds s.queue p b) (engines : ∀ e, (s.engine e).view p = none)
      (busy : ∀ b, s.busy ≠ some (.portReset p b))
  | queued (status : (s.port p).sched.status = .queued) (mode : (s.port p).tc.f.mode ≠ .lent)
      (queue : queueHolds s.queue p false) (unsuspended : ¬ queueHolds s.queue p true)
      (engines : ∀ e, (s.engine e).view p = none) (busy : ∀ b, s.busy ≠ some (.portReset p b))
  | running (e : EngineId) (v : PairSet × Bool) (status : (s.port p).sched.status = .running)
      (mode : (s.port p).tc.f.mode = .lent) (queue : ∀ b, ¬ queueHolds s.queue p b)
      (engine : (s.engine e).view p = some v) (others : ∀ f, f ≠ e → (s.engine f).view p = none) (pairs : v.1 ≠ 0)
      (reset : v.2 = true ↔ s.busy = some (.portReset p false)) (busy : s.busy ≠ some (.portReset p true))
  | suspended (status : (s.port p).sched.status = .suspended) (mode : (s.port p).tc.f.mode = .lent)
      (queue : queueHolds s.queue p true) (unqueued : ¬ queueHolds s.queue p false)
      (engines : ∀ e, (s.engine e).view p = none) (busy : ∀ b, s.busy ≠ some (.portReset p b))
  | resetWaits (status : (s.port p).sched.status = .suspended) (mode : (s.port p).tc.f.mode = .lent)
      (queue : ∀ b, ¬ queueHolds s.queue p b) (engines : ∀ e, (s.engine e).view p = none)
      (busy : s.busy = some (.portReset p true)) (bind : s.bind ≠ none)

/-- The order of dispatch lists exactly the engines that hold a run (R74). -/
def State.orderOk (s : State) : Prop := s.order.Nodup ∧ ∀ e, e ∈ s.order ↔ (s.engine e).run? ≠ none

section

variable {s : State}

theorem State.onEngine_iff {p : Port} : s.onEngine p ↔ ∃ e, (s.engine e).view p ≠ none := by
  simp only [State.onEngine, Engine.view_ne_none]

theorem State.hasQueued_iff {p : Port} : s.hasQueued p ↔ queueHolds s.queue p false := by
  simp [State.hasQueued, queueHolds]

theorem State.hasSuspended_iff {p : Port} :
    s.hasSuspended p ↔ queueHolds s.queue p true ∨ s.busy = some (.portReset p true) := by
  simp [State.hasSuspended, queueHolds, Option.isSome_iff_ne_none]

theorem queueHolds_none_iff {q : List Entry} {p : Port} : (∀ b, ¬ queueHolds q p b) ↔ ∀ x ∈ q, x.port ≠ p := by
  simp only [queueHolds, not_exists, not_and]
  exact ⟨fun h x hx hp => h _ x hx hp rfl, fun h b x hx hp => absurd hp (h x hx)⟩

/-- A port is in the queue once, so its entry is suspended or not. -/
theorem queueHolds_unique {q : List Entry} (h : (q.map fun x => x.port).Nodup) {p : Port} {b c : Bool}
    (hb : queueHolds q p b) (hc : queueHolds q p c) : b = c := by
  obtain ⟨x, hx, hxp, rfl⟩ := hb
  obtain ⟨y, hy, hyp, rfl⟩ := hc
  rw [List.inj_on_of_nodup_map h hx hy (hxp.trans hyp.symm)]

theorem State.schedulerOk.stands (h : s.schedulerOk) (p : Port) : s.Stands p := by
  obtain ⟨⟨-, hnodup, -⟩, ⟨hone, hruns, -⟩, hstatus, hclosing, hreset, hwaits⟩ := h
  obtain ⟨hrun, hque, hsus, hlent⟩ := hstatus p
  rw [State.onEngine_iff] at hrun
  rw [State.hasQueued_iff] at hque
  rw [State.hasSuspended_iff] at hsus
  have noEngine (hs : (s.port p).sched.status ≠ .running) (e : EngineId) : (s.engine e).view p = none := by
    by_contra hv
    exact hs (hrun.2 ⟨e, hv⟩)
  have noReset (hs : (s.port p).sched.status ≠ .running) : s.busy ≠ some (.portReset p false) := by
    intro hb
    obtain ⟨e, r, he, hp⟩ := hreset p hb
    exact Engine.view_ne_none.2 ⟨r, by rw [he]; rfl, hp⟩ (noEngine hs e)
  have noEntry (hq : (s.port p).sched.status ≠ .queued) (hs : (s.port p).sched.status ≠ .suspended) (b : Bool) :
      ¬ queueHolds s.queue p b := by
    cases b with
    | false => exact fun h => hq (hque.2 h)
    | true => exact fun h => hs (hsus.2 (.inl h))
  have noWait (hs : (s.port p).sched.status ≠ .suspended) : s.busy ≠ some (.portReset p true) :=
    fun h => hs (hsus.2 (.inr h))
  cases hst : (s.port p).sched.status
  case queued =>
    have hheld : queueHolds s.queue p false := hque.1 hst
    refine .queued hst (by simp [hlent, hst]) hheld (fun h => ?_) (noEngine (by simp [hst])) (Bool.forall_bool.2 ⟨?_, ?_⟩)
    · cases queueHolds_unique hnodup h hheld
    · exact noReset (by simp [hst])
    · exact noWait (by simp [hst])
  case running =>
    obtain ⟨e, hv⟩ := hrun.1 hst
    obtain ⟨r, hr, hp⟩ := Engine.view_ne_none.1 hv
    have hview : (s.engine e).view p = some (r.requested, (s.engine e).endsInReset) := by
      rw [Engine.view_of_run hr, if_pos hp]
    refine .running e _ hst (by simp [hlent, hst]) (noEntry (by simp [hst]) (by simp [hst])) hview (fun f hf => ?_)
      (hruns e r hr).1 ⟨fun h => ?_, fun h => ?_⟩ (noWait (by simp [hst]))
    · by_contra hv'
      obtain ⟨q, hq, hqp⟩ := Engine.view_ne_none.1 hv'
      exact hf (hone f e q r hq hr (hqp.trans hp.symm))
    · obtain ⟨r', hr'⟩ := Engine.endsInReset_iff.1 h
      obtain rfl : r' = r := by simpa [hr', Engine.run?] using hr
      rw [hclosing e r' hr', hp]
    · obtain ⟨f, r', hf, hp'⟩ := hreset p h
      obtain rfl : f = e := hone f e r' r (by rw [hf]; rfl) hr (hp'.trans hp.symm)
      exact Engine.endsInReset_iff.2 ⟨r', hf⟩
  case suspended =>
    rcases hsus.1 hst with hq | hb
    · have hnw : s.busy ≠ some (.portReset p true) := by
        obtain ⟨x, hx, hxp, -⟩ := hq
        exact fun hb => (hwaits p hb).2.1 x hx hxp
      refine .suspended hst (by simp [hlent, hst]) hq (fun h => ?_) (noEngine (by simp [hst])) (Bool.forall_bool.2 ⟨?_, hnw⟩)
      · cases queueHolds_unique hnodup h hq
      · exact noReset (by simp [hst])
    · obtain ⟨hbind, hentries, -⟩ := hwaits p hb
      exact .resetWaits hst (by simp [hlent, hst]) (queueHolds_none_iff.2 hentries) (noEngine (by simp [hst])) hb hbind
  all_goals
    exact .apart (by simp [hst, ProbeStatus.placed]) (by simp [hlent, hst]) (noEntry (by simp [hst]) (by simp [hst]))
      (noEngine (by simp [hst])) (Bool.forall_bool.2 ⟨noReset (by simp [hst]), noWait (by simp [hst])⟩)

/-- A port that an engine holds is RUNNING there and nowhere else. -/
theorem State.Stands.of_view {p : Port} (h : s.Stands p) {e : EngineId} {v : PairSet × Bool}
    (hv : (s.engine e).view p = some v) :
    (s.port p).sched.status = .running ∧ (s.port p).tc.f.mode = .lent ∧ (∀ b, ¬ queueHolds s.queue p b)
      ∧ (∀ f, f ≠ e → (s.engine f).view p = none) ∧ v.1 ≠ 0
      ∧ (v.2 = true ↔ s.busy = some (.portReset p false)) ∧ s.busy ≠ some (.portReset p true) := by
  cases h with
  | running f w status mode queue engine others pairs reset busy =>
    obtain rfl : e = f := by
      by_contra hne
      rw [others e hne] at hv
      cases hv
    obtain rfl : w = v := Option.some.inj (engine.symm.trans hv)
    exact ⟨status, mode, queue, others, pairs, reset, busy⟩
  | apart _ _ _ engines _ | queued _ _ _ _ engines _ | suspended _ _ _ _ engines _ | resetWaits _ _ _ engines _ _ =>
    rw [engines e] at hv
    cases hv

theorem State.schedulerOk_of_stands (hq : queueOk s.queue) (ho : s.orderOk) (h : ∀ p, s.Stands p) : s.schedulerOk := by
  have view {e : EngineId} {r : Run} (hr : (s.engine e).run? = some r) :
      (s.engine e).view r.port = some (r.requested, (s.engine e).endsInReset) := by
    rw [Engine.view_of_run hr, if_pos rfl]
  refine ⟨hq, ⟨fun e f r q he hf hp => ?_, fun e r he => ?_, ho.1, ho.2⟩, fun p => ?_, fun e r he => ?_, fun p hb => ?_,
    fun p hb => ?_⟩
  · obtain ⟨-, -, -, others, -⟩ := (h r.port).of_view (view he)
    by_contra hne
    have := others f (Ne.symm hne)
    rw [Engine.view_of_run hf, if_pos hp.symm] at this
    cases this
  · obtain ⟨-, -, queue, -, pairs, -⟩ := (h r.port).of_view (view he)
    exact ⟨pairs, queueHolds_none_iff.1 queue⟩
  · rw [State.onEngine_iff, State.hasQueued_iff, State.hasSuspended_iff]
    cases h p with
    | apart status mode queue engines busy =>
      cases hst : (s.port p).sched.status <;> simp_all [ProbeStatus.placed]
    | queued status mode queue unsuspended engines busy => simp_all
    | running e v status mode queue engine others pairs reset busy =>
      have : ∃ e, (s.engine e).view p ≠ none := ⟨e, by simp [engine]⟩
      simp_all
    | suspended status mode queue unqueued engines busy => simp_all
    | resetWaits status mode queue engines busy bind => simp_all
  · have hv : (s.engine e).view r.port = some (r.requested, true) := by
      rw [he]
      simp [Engine.view, Engine.run?, Engine.endsInReset]
    obtain ⟨-, -, -, -, -, reset, -⟩ := (h r.port).of_view hv
    exact reset.1 rfl
  · cases h p with
    | running e v status mode queue engine others pairs reset busy =>
      obtain ⟨r, hr, hp, rfl⟩ := Engine.view_some engine
      obtain ⟨r', hr'⟩ := Engine.endsInReset_iff.1 (reset.2 hb)
      obtain rfl : r' = r := by simpa [hr', Engine.run?] using hr
      exact ⟨e, r', hr', hp⟩
    | apart _ _ _ _ busy | queued _ _ _ _ _ busy | suspended _ _ _ _ _ busy => exact absurd hb (busy false)
    | resetWaits _ _ _ _ busy _ => rw [hb] at busy; cases busy
  · rw [State.onEngine_iff]
    cases h p with
    | resetWaits status mode queue engines busy bind =>
      exact ⟨bind, queueHolds_none_iff.1 queue, by simp [engines]⟩
    | running _ _ _ _ _ _ _ _ _ busy => exact absurd hb busy
    | apart _ _ _ _ busy | queued _ _ _ _ _ busy | suspended _ _ _ _ _ busy => exact absurd hb (busy true)

theorem State.schedulerOk.orderOk (h : s.schedulerOk) : s.orderOk := by
  obtain ⟨-, ⟨-, -, hnodup, hmem⟩, -⟩ := h
  exact ⟨hnodup, hmem⟩

end
end Sys2Proof.Machine

end

section

namespace Sys2Proof.Machine

/-! ### The queue: URGENT entries first, each port once (R67, R68) -/

theorem urgentFirst_iff {q : List Entry} :
    (∀ x ∈ routinePart q, x.cls = .routine) ↔ q.Pairwise fun x y => x.cls = .routine → y.cls = .routine := by
  induction q with
  | nil => simp [routinePart]
  | cons x q ih =>
    unfold routinePart at *
    rw [List.pairwise_cons]
    cases hx : x.cls with
    | urgent => simpa [List.dropWhile_cons, hx] using ih
    | routine =>
      simp only [List.dropWhile_cons, hx, reduceCtorEq, decide_false, Bool.false_eq_true, if_false, List.mem_cons,
        forall_eq_or_imp, true_and, true_imp_iff]
      exact ⟨fun h => ⟨h, List.pairwise_of_forall_mem_list fun _ _ y hy _ => h y hy⟩, And.left⟩

theorem urgentPart_cls {q : List Entry} {x : Entry} (h : x ∈ urgentPart q) : x.cls = .urgent := by
  simpa using List.mem_takeWhile_imp h

/-- A part of a queue is a queue. -/
theorem queueOk.urgentFirst {q : List Entry} (h : queueOk q) : ∀ x ∈ routinePart q, x.cls = .routine := by
  obtain ⟨-, -, hurgent, -⟩ := h
  exact hurgent

theorem queueOk.pairs_ne_zero {q : List Entry} (h : queueOk q) {x : Entry} (hx : x ∈ q) : x.pairs ≠ 0 := by
  obtain ⟨-, -, -, hpairs, -⟩ := h
  exact hpairs x hx

theorem queueOk.sublist {q r : List Entry} (h : queueOk q) (hr : r.Sublist q) : queueOk r := by
  obtain ⟨hlen, hnodup, hurgent, hpairs, hsusp⟩ := h
  exact ⟨hr.length_le.trans hlen, hnodup.sublist (hr.map _), urgentFirst_iff.2 ((urgentFirst_iff.1 hurgent).sublist hr),
    fun x hx => hpairs x (hr.subset hx), fun x hx => hsusp x (hr.subset hx)⟩

theorem queueOk.filter {q : List Entry} (h : queueOk q) (f : Entry → Bool) : queueOk (q.filter f) :=
  h.sublist List.filter_sublist

theorem queueOk.tail {x : Entry} {q : List Entry} (h : queueOk (x :: q)) : queueOk q := h.sublist (List.sublist_cons_self x q)

/-- The rest of a queue is the queue without the port of its head. -/
theorem queueOk.rest_eq_filter {x : Entry} {q : List Entry} (h : queueOk (x :: q)) :
    q = (x :: q).filter fun y => decide (y.port ≠ x.port) := by
  have hnodup := h.2.1
  rw [List.map_cons, List.nodup_cons, List.mem_map] at hnodup
  rw [List.filter_cons_of_neg (by simp), List.filter_eq_self.2]
  intro y hy
  simpa using fun hp => hnodup.1 ⟨y, hy, hp⟩

/-- What a new entry has to be for the queue to take it. -/
structure Entry.JoinsTo (x : Entry) (q : List Entry) : Prop where
  room : q.length < Config.queueSize
  port : ∀ y ∈ q, y.port ≠ x.port
  pairs : x.pairs ≠ 0
  suspended : x.suspended ≠ none → x.cls = .routine

theorem joinFrontOfRoutine_perm (q : List Entry) (x : Entry) : (joinFrontOfRoutine q x).Perm (x :: q) := by
  refine List.perm_middle.trans ?_
  rw [urgentPart_append_routinePart]

theorem joinTail_perm (q : List Entry) (x : Entry) : (joinTail q x).Perm (x :: q) := by
  unfold joinTail
  split
  · exact joinFrontOfRoutine_perm q x
  · exact List.perm_append_singleton x q

/-- A queue with one entry more, the order of the classes kept. -/
theorem queueOk.joined {q r : List Entry} {x : Entry} (h : queueOk q) (hx : x.JoinsTo q) (hperm : r.Perm (x :: q))
    (hurgent : ∀ y ∈ routinePart r, y.cls = .routine) : queueOk r := by
  obtain ⟨-, hnodup, -, hpairs, hsusp⟩ := h
  refine ⟨?_, ?_, hurgent, fun y hy => ?_, fun y hy => ?_⟩
  · rw [hperm.length_eq, List.length_cons]
    exact hx.room
  · rw [(hperm.map _).nodup_iff, List.map_cons, List.nodup_cons, List.mem_map]
    exact ⟨fun ⟨y, hy, hp⟩ => hx.port y hy hp, hnodup⟩
  · rcases List.mem_cons.1 (hperm.mem_iff.1 hy) with rfl | hy
    · exact hx.pairs
    · exact hpairs y hy
  · rcases List.mem_cons.1 (hperm.mem_iff.1 hy) with rfl | hy
    · exact hx.suspended
    · exact hsusp y hy

theorem routinePart_joinFrontOfRoutine (q : List Entry) {x : Entry} (h : ∀ y ∈ routinePart q, y.cls = .routine)
    {y : Entry} (hy : y ∈ routinePart (joinFrontOfRoutine q x)) : y.cls = .routine := by
  refine urgentFirst_iff.2 ?_ y hy
  refine List.pairwise_append.2 ⟨?_, List.pairwise_cons.2 ⟨fun z hz _ => h z hz, ?_⟩, fun a ha b _ hc => ?_⟩
  · exact List.pairwise_of_forall_mem_list fun a ha _ _ hc => by simp [urgentPart_cls ha] at hc
  · exact List.pairwise_of_forall_mem_list fun _ _ b hb _ => h b hb
  · simp [urgentPart_cls ha] at hc

theorem queueOk.joinFrontOfRoutine {q : List Entry} {x : Entry} (h : queueOk q) (hx : x.JoinsTo q) :
    queueOk (joinFrontOfRoutine q x) :=
  h.joined hx (joinFrontOfRoutine_perm q x) fun _ => routinePart_joinFrontOfRoutine q h.urgentFirst

theorem queueOk.joinTail {q : List Entry} {x : Entry} (h : queueOk q) (hx : x.JoinsTo q) : queueOk (joinTail q x) := by
  refine h.joined hx (joinTail_perm q x) ?_
  unfold Machine.joinTail
  split
  · exact fun _ => routinePart_joinFrontOfRoutine q h.urgentFirst
  · next hc =>
    refine urgentFirst_iff.2 (List.pairwise_append.2 ⟨urgentFirst_iff.1 h.urgentFirst, List.pairwise_singleton _ _, ?_⟩)
    intro _ _ y hy _
    rw [List.mem_singleton.1 hy, hc]

/-- Entries replaced in their places. -/
theorem queueOk.map {q : List Entry} {g : Entry → Entry} (h : queueOk q) (hport : ∀ x ∈ q, (g x).port = x.port)
    (hcls : ∀ x ∈ q, (g x).cls = x.cls) (hsusp : ∀ x ∈ q, (g x).suspended = x.suspended)
    (hpairs : ∀ x ∈ q, (g x).pairs ≠ 0) : queueOk (q.map g) := by
  obtain ⟨hlen, hnodup, hurgent, -, hs⟩ := h
  refine ⟨by simpa using hlen, ?_, ?_, ?_, ?_⟩
  · rw [List.map_map, List.map_congr_left (g := fun x => x.port) hport]
    exact hnodup
  · rw [urgentFirst_iff, List.pairwise_map]
    refine (urgentFirst_iff.1 hurgent).imp_of_mem ?_
    intro a b ha hb hab
    rw [hcls a ha, hcls b hb]
    exact hab
  · intro y hy
    obtain ⟨x, hx, rfl⟩ := List.mem_map.1 hy
    exact hpairs x hx
  · intro y hy
    obtain ⟨x, hx, rfl⟩ := List.mem_map.1 hy
    rw [hsusp x hx, hcls x hx]
    exact hs x hx

/-! ### Nothing of a port's standing changes -/

/-- Both are the status of a port with no place, or they are the same. -/
def ProbeStatus.SamePlace (a b : ProbeStatus) : Prop := b = a ∨ (a.placed = false ∧ b.placed = false)

theorem ProbeStatus.PassedOver.samePlace {a b : ProbeStatus} (h : a.PassedOver b) : a.SamePlace b := by
  rcases h with h | ⟨rfl, rfl⟩
  · exact .inl h
  · exact .inr ⟨rfl, rfl⟩

/-- What a port's standing is read from is as it was. -/
structure SameStanding (p : Port) (s t : State) : Prop where
  status : (s.port p).sched.status.SamePlace (t.port p).sched.status
  mode : (t.port p).tc.f.mode = .lent ↔ (s.port p).tc.f.mode = .lent
  queue : ∀ b, queueHolds t.queue p b ↔ queueHolds s.queue p b
  engines : ∀ e, (t.engine e).view p = (s.engine e).view p
  busy : ∀ b, t.busy = some (.portReset p b) ↔ s.busy = some (.portReset p b)
  bind : s.busy = some (.portReset p true) → t.bind = none → s.bind = none

theorem SameStanding.refl (p : Port) (s : State) : SameStanding p s s :=
  ⟨.inl rfl, .rfl, fun _ => .rfl, fun _ => rfl, fun _ => .rfl, fun _ => id⟩

theorem SameStanding.trans {p : Port} {s t u : State} (h : SameStanding p s t) (k : SameStanding p t u) :
    SameStanding p s u where
  status := by
    rcases h.status with h | ⟨h, h'⟩ <;> rcases k.status with k | ⟨k, k'⟩
    · exact .inl (k.trans h)
    · exact .inr ⟨h ▸ k, k'⟩
    · exact .inr ⟨h, k ▸ h'⟩
    · exact .inr ⟨h, k'⟩
  mode := k.mode.trans h.mode
  queue b := (k.queue b).trans (h.queue b)
  engines e := (k.engines e).trans (h.engines e)
  busy b := (k.busy b).trans (h.busy b)
  bind hb hn := h.bind hb (k.bind ((h.busy true).2 hb) hn)

theorem SameStanding.stands {p : Port} {s t : State} (h : SameStanding p s t) (hs : s.Stands p) : t.Stands p := by
  obtain ⟨hstatus, hmode, hqueue, hengines, hbusy, hbind⟩ := h
  have placed {x : ProbeStatus} (hx : x.placed = true) (k : (s.port p).sched.status = x) :
      (t.port p).sched.status = x := by
    rcases hstatus with h | ⟨h, -⟩
    · exact h.trans k
    · rw [k, hx] at h
      cases h
  cases hs with
  | apart status mode queue engines busy =>
    refine .apart ?_ (hmode.not.2 mode) (fun b => (hqueue b).not.2 (queue b)) (fun e => (hengines e).trans (engines e))
      fun b => (hbusy b).not.2 (busy b)
    rcases hstatus with h | ⟨-, h⟩
    · rw [h]; exact status
    · exact h
  | queued status mode queue unsuspended engines busy =>
    exact .queued (placed rfl status) (hmode.not.2 mode) ((hqueue _).2 queue) ((hqueue _).not.2 unsuspended)
      (fun e => (hengines e).trans (engines e)) fun b => (hbusy b).not.2 (busy b)
  | running e v status mode queue engine others pairs reset busy =>
    exact .running e v (placed rfl status) (hmode.2 mode) (fun b => (hqueue b).not.2 (queue b))
      ((hengines e).trans engine) (fun f hf => (hengines f).trans (others f hf)) pairs (reset.trans (hbusy _).symm)
      ((hbusy _).not.2 busy)
  | suspended status mode queue unqueued engines busy =>
    exact .suspended (placed rfl status) (hmode.2 mode) ((hqueue _).2 queue) ((hqueue _).not.2 unqueued)
      (fun e => (hengines e).trans (engines e)) fun b => (hbusy b).not.2 (busy b)
  | resetWaits status mode queue engines busy bind =>
    exact .resetWaits (placed rfl status) (hmode.2 mode) (fun b => (hqueue b).not.2 (queue b))
      (fun e => (hengines e).trans (engines e)) ((hbusy _).2 busy) fun hn => bind (hbind busy hn)

/-- Nothing of the Scheduler's account changes. -/
structure SameAccount (s t : State) : Prop where
  queue : t.queue = s.queue
  order : t.order = s.order
  runs : ∀ e, (t.engine e).run? ≠ none ↔ (s.engine e).run? ≠ none
  standing : ∀ p, SameStanding p s t

theorem SameAccount.schedulerOk {s t : State} (h : SameAccount s t) (hs : s.schedulerOk) : t.schedulerOk := by
  refine State.schedulerOk_of_stands (h.queue ▸ hs.1) ⟨h.order ▸ hs.orderOk.1, fun e => ?_⟩
    fun p => (h.standing p).stands (hs.stands p)
  rw [h.order, h.runs e]
  exact hs.orderOk.2 e

namespace SameAccount

variable {s t : State}

theorem refl (s : State) : SameAccount s s := ⟨rfl, rfl, fun _ => .rfl, fun p => .refl p s⟩

theorem trans {u : State} (h : SameAccount s t) (k : SameAccount t u) : SameAccount s u :=
  ⟨k.queue.trans h.queue, k.order.trans h.order, fun e => (k.runs e).trans (h.runs e),
    fun p => (h.standing p).trans (k.standing p)⟩

theorem of_hostQuiet (h : HostQuiet s t) : SameAccount s t where
  queue := h.queue
  order := h.order
  runs e := by simp only [State.engine, h.engines]
  standing p := by
    refine ⟨.inl ?_, ?_, fun b => ?_, fun e => ?_, h.busy p, fun _ => h.bind⟩
    · rw [(h.blocks p).sched]
    · rw [(h.blocks p).tc]
    · rw [h.queue]
    · simp only [State.engine, h.engines]

/-- A change of one port that keeps its place and whether it is LENT. -/
theorem of_onlyPort {p : Port} (h : OnlyPort p s t) (hs : (s.port p).sched.status.SamePlace (t.port p).sched.status)
    (hm : (t.port p).tc.f.mode = .lent ↔ (s.port p).tc.f.mode = .lent) : SameAccount s t where
  queue := h.1.queue
  order := h.1.order
  runs e := by simp only [State.engine, h.1.engines]
  standing q := by
    refine ⟨?_, ?_, fun b => by rw [h.1.queue], fun e => by simp only [State.engine, h.1.engines],
      fun b => by rw [h.1.busy], fun _ => by rw [h.1.bind]; exact id⟩
    all_goals by_cases hq : q = p
    · subst hq; exact hs
    · rw [h.2 q hq]; exact .inl rfl
    · subst hq; exact hm
    · rw [h.2 q hq]

/-- A change outside the ports, the queue, the engines, the order of dispatch, the bind and the operation under way. -/
theorem elsewhere {u : State} (h : SameAccount s t) (ports : u.ports = t.ports := by rfl)
    (queue : u.queue = t.queue := by rfl) (engines : u.engines = t.engines := by rfl)
    (order : u.order = t.order := by rfl) (busy : u.busy = t.busy := by rfl) (bind : u.bind = t.bind := by rfl) :
    SameAccount s u :=
  h.trans
    { queue := queue, order := order
      runs := fun e => by simp only [State.engine, engines]
      standing := fun p => ⟨.inl (by rw [State.port_of_ports ports]), by rw [State.port_of_ports ports],
        fun b => by rw [queue], fun e => by simp only [State.engine, engines], fun b => by rw [busy],
        fun _ => by rw [bind]; exact id⟩ }

theorem modPort {p : Port} {f : PortState → PortState} (h : SameAccount s t)
    (hs : (f (t.port p)).sched = (t.port p).sched) (hm : (f (t.port p)).tc = (t.port p).tc) :
    SameAccount s (t.modPort p f) :=
  h.trans (of_onlyPort (OnlyPort.modPort t p f) (.inl (by rw [State.port_modPort_self, hs]))
    (by rw [State.port_modPort_self, hm]))

theorem foldl {α : Type} {f : State → α → State} (hf : ∀ {t} a, SameAccount s t → SameAccount s (f t a)) (l : List α)
    (h : SameAccount s t) : SameAccount s (l.foldl f t) := by
  induction l generalizing t with
  | nil => exact h
  | cons a l ih => exact ih (hf a h)

theorem event {host : Bool} {p : Port} {out : TcEffect} {sched : SchedFields} (h : SameAccount s t)
    (hs : (t.port p).sched.status.SamePlace sched.status)
    (hm : out.m.f.mode = .lent ↔ (t.port p).tc.f.mode = .lent) : SameAccount s (t.event host p out sched) :=
  h.trans (of_onlyPort (State.event_onlyPort t host p out sched) (by rw [State.event_sched]; exact hs)
    (by rw [State.event_tc]; exact hm))

theorem tcEvent {host : Bool} {p : Port} {out : TcEffect} (h : SameAccount s t)
    (hm : out.m.f.mode = .lent ↔ (t.port p).tc.f.mode = .lent) : SameAccount s (t.tcEvent host p out) :=
  h.event (.inl rfl) hm

theorem schedEvent {host : Bool} {p : Port} {sched : SchedFields} (h : SameAccount s t)
    (hs : (t.port p).sched.status.SamePlace sched.status) : SameAccount s (t.schedEvent host p sched) :=
  h.event hs .rfl

theorem commit {p : Port} {r : LineRecord} (h : SameAccount s t) : SameAccount s (t.commit p r) := by
  refine h.trans (of_onlyPort (State.commit_onlyPort t p r) (.inl ?_) ?_) <;> rw [State.commit_port]

theorem submit {host : Bool} {p : Port} {u : Update} (h : SameAccount s t) : SameAccount s (t.submit host p u) := by
  refine h.trans (of_onlyPort (State.submit_onlyPort t host p u) (.inl ?_) ?_) <;> rw [State.submit_port] <;> rfl

/-- An engine that goes on holding the same run, its ending still RESET or still another. -/
theorem setEngine {e : EngineId} {x : Engine} (h : SameAccount s t) (hv : ∀ p, x.view p = (t.engine e).view p)
    (hr : x.run? ≠ none ↔ (t.engine e).run? ≠ none) : SameAccount s (t.setEngine e x) :=
  h.trans
    { queue := rfl, order := rfl
      runs := fun f => by
        rw [State.engine_setEngine]
        split
        · next hf => rw [hf]; exact hr
        · rfl
      standing := fun p => ⟨.inl rfl, .rfl, fun _ => .rfl, fun f => by
        rw [State.engine_setEngine]
        split
        · next hf => rw [hf]; exact hv p
        · rfl, fun _ => .rfl, fun _ => id⟩ }

end SameAccount
end Sys2Proof.Machine

end

section

namespace Sys2Proof.Machine

/-! ### Which machine functions keep a port LENT, or not LENT (R55 to R58) -/

namespace PortMachine

variable {m : PortMachine} {c : TcContext}

theorem advertise_mode (halted : Bool) : (m.advertise c halted).1.f.mode ≠ .lent := by
  unfold advertise
  split <;> simp [hold, toMode]

theorem darkRule_mode (halted : Bool) : (m.darkRule c halted).1.f.mode ≠ .lent := by
  unfold darkRule
  split
  · exact advertise_mode halted
  · simp [toMode]

theorem takeEnergy_lent (present : Bool) : (m.takeEnergy c present).m.f.mode = .lent ↔ m.f.mode = .lent := by
  unfold takeEnergy
  cases present with
  | true =>
    simp only [if_true]
    split
    · next hm => exact iff_of_false (darkRule_mode false) (by simp [hm])
    · rfl
  | false =>
    simp only [Bool.false_eq_true, if_false]
    split
    case h_1 hm | h_2 hm | h_3 hm => simp [hm, TcEffect.of, toMode]
    case h_4 => rfl

theorem takeLost_lent : (m.takeLost c).m.f.mode = .lent ↔ m.f.mode = .lent := by
  unfold takeLost
  split
  · next hm =>
    split
    · exact iff_of_false (advertise_mode true) (by simp [hm])
    · simp [hm, TcEffect.of, toMode]
  · rfl

theorem takeResultPass_lent (inverted : PairSet) (skew : PerPair Nat) (swap : Swap) :
    (m.takeResultPass inverted skew swap).m.f.mode = .lent ↔ m.f.mode = .lent := by
  unfold takeResultPass
  split
  · next hm _ => simp [hm, TcEffect.of]
  · rfl

theorem strike_mode (rate : Rate) : (m.strike c rate).m.f.mode ≠ .lent := by
  unfold strike
  dsimp only [TcEffect.of]
  split
  · simp [hold]
  · exact advertise_mode false

theorem failAttempt_lent : (m.failAttempt c).m.f.mode = .lent ↔ m.f.mode = .lent := by
  unfold failAttempt
  split
  · next hm _ =>
    split
    · simp [hm, TcEffect.of, startAttempt]
    · split
      · exact iff_of_false (strike_mode _) (by simp [hm])
      · simp [hm, TcEffect.of, startAttempt]
  · rfl

theorem takePage_lent (rates : RateSet) : (m.takePage c rates).m.f.mode = .lent ↔ m.f.mode = .lent := by
  unfold takePage
  dsimp only
  split
  case h_1 hm =>
    split
    · simp [hm, TcEffect.of, startAttempt]
    · rfl
  case h_2 hm | h_3 hm =>
    split
    · simp [hm, TcEffect.of, startAttempt]
    · exact iff_of_false (advertise_mode _) (by simp [hm])
  case h_4 => rfl

theorem listenExpiry_lent (hm : m.f.mode = .listen) : (m.listenExpiry c).m.f.mode = .lent ↔ m.f.mode = .lent := by
  exact iff_of_false (advertise_mode false) (by simp [hm])

theorem withdraw_lent (cause : HeldCause) : (m.withdraw cause).m.f.mode = .lent ↔ m.f.mode = .lent := by
  unfold withdraw
  dsimp only
  split
  case h_1 hm | h_2 hm | h_3 hm | h_4 hm => simp [hm, TcEffect.of, hold]
  case h_5 hm => split <;> rfl
  case h_6 | h_7 => rfl

theorem park_lent : m.park.m.f.mode = .lent ↔ m.f.mode = .lent := by
  unfold park
  dsimp only
  split
  · rfl
  · next hm => simp [hm, TcEffect.of]
  · next hm _ => simpa [TcEffect.of, TcEffect.carrying] using hm

theorem unpark_lent : (m.unpark c).m.f.mode = .lent ↔ m.f.mode = .lent := by
  unfold unpark
  split
  · next hm => exact iff_of_false (darkRule_mode false) (by simp [hm])
  · split <;> rfl
  · rfl

theorem restart?_lent {out : TcEffect} (ho : m.restart? c = some out) : out.m.f.mode = .lent ↔ m.f.mode = .lent := by
  unfold restart? at ho
  dsimp only at ho
  split at ho
  case h_1 hm | h_2 hm | h_3 hm =>
    cases ho
    exact iff_of_false (darkRule_mode true) (by simp [hm])
  case h_4 => cases ho; rfl
  case h_5 => cases ho

theorem rearm_lent : (m.rearm c).m.f.mode = .lent ↔ m.f.mode = .lent := by
  unfold rearm
  dsimp only
  split
  · next hm => exact iff_of_false (darkRule_mode false) (by simp [hm])
  · split <;> rfl
  · rfl

theorem lend_mode : m.lend.m.f.mode = .lent := by
  unfold lend
  dsimp only
  split
  · next hm => exact hm
  · rfl

theorem returnPort_mode (outcome : Ending) : (m.returnPort c outcome).m.f.mode ≠ .lent := by
  unfold returnPort
  split
  · dsimp only
    split
    · exact darkRule_mode false
    · cases m.f.returnMode <;> simp [TcEffect.of, ReturnMode.mode]
  · next hm => exact hm

end PortMachine

theorem State.MachineCommand.lent {s : State} {p : Port} {out : TcEffect} (h : s.MachineCommand p out) :
    out.m.f.mode = .lent ↔ (s.port p).tc.f.mode = .lent := by
  rcases h with rfl | rfl | ho | rfl
  · exact PortMachine.park_lent
  · exact PortMachine.unpark_lent
  · exact PortMachine.restart?_lent ho
  · exact PortMachine.rearm_lent

/-! ### What an engine does on its own keeps its view -/

theorem Run.nextPair_run (r : Run) : r.nextPair.run? = some r := by
  unfold Run.nextPair
  split <;> rfl

theorem Run.nextPair_endsInReset (r : Run) : r.nextPair.endsInReset = false := by
  unfold Run.nextPair
  split <;> rfl

theorem Run.nextPair_view (r : Run) (p : Port) :
    r.nextPair.view p = if r.port = p then some (r.requested, false) else none := by
  rw [Engine.view_of_run r.nextPair_run, Run.nextPair_endsInReset]

/-- Two engines with the same run, but for what has been gathered, are the same to the account. -/
structure Engine.SameRun (x y : Engine) : Prop where
  view : ∀ p, y.view p = x.view p
  run : y.run? ≠ none ↔ x.run? ≠ none

theorem Engine.SameRun.refl (x : Engine) : x.SameRun x := ⟨fun _ => rfl, .rfl⟩

theorem Engine.endsInReset_closing {r : Run} {ending : Ending} (h : ending ≠ .reset) :
    (Engine.closing r ending).endsInReset = false := by
  rw [← Bool.not_eq_true, Engine.endsInReset_iff]
  rintro ⟨r', hr⟩
  exact h (Engine.closing.inj hr).2

theorem Engine.stop_sameRun {ending : Ending} (h : ending ≠ .reset) (x : Engine) : x.SameRun (x.stop ending) := by
  have stopped {y : Engine} {r : Run} (hr : y.run? = some r) (hend : y.endsInReset = false) :
      y.SameRun (.closing { r with completed := [] } ending) :=
    ⟨fun p => by rw [Engine.view_of_run hr, hend, Engine.view_of_run rfl, Engine.endsInReset_closing h],
      iff_of_true (by simp [Engine.run?]) (by simp [hr])⟩
  cases x with
  | attaching r _ | sweeping r _ _ _ _ => exact stopped rfl rfl
  | idle | closing _ _ => exact .refl _

theorem Engine.detached_sameRun (x : Engine) : x.SameRun x.detached := by
  cases x with
  | attaching r w =>
    refine ⟨fun p => ?_, ?_⟩
    · exact r.nextPair_view p
    · exact iff_of_true (by rw [Engine.detached, r.nextPair_run]; simp) (by simp [Engine.run?])
  | _ => exact .refl _

theorem Engine.completeSweep_sameRun (echoes : List Echo) (x : Engine) : x.SameRun (x.completeSweep echoes) := by
  cases x with
  | sweeping r q n left table =>
    unfold Engine.completeSweep
    dsimp only
    split
    · exact ⟨fun _ => rfl, by simp [Engine.run?]⟩
    · refine ⟨fun p => ?_, ?_⟩
      · rw [Run.nextPair_view]; rfl
      · exact iff_of_true (by rw [Run.nextPair_run]; simp) (by simp [Engine.run?])
  | _ => exact .refl _

theorem Engine.tick_sameRun (x : Engine) : x.SameRun x.tick := by
  cases x <;> exact ⟨fun _ => rfl, by simp [Engine.tick, Engine.run?]⟩

namespace SameAccount

variable {s t : State}

theorem setSameRun {e : EngineId} {x : Engine} (h : SameAccount s t) (hx : (t.engine e).SameRun x) :
    SameAccount s (t.setEngine e x) := h.setEngine hx.view hx.run

theorem stopOnPower {p : Port} {e : EngineId} (h : SameAccount s t) : SameAccount s (t.stopOnPower p e) := by
  unfold State.stopOnPower
  split
  · exact SameAccount.elsewhere (h.setSameRun (Engine.stop_sameRun (ending := .power) (by simp) _))
  · exact h

theorem setInbox {p : Port} {box : Inbox} (h : SameAccount s t) : SameAccount s (t.setInbox p box) := h.modPort rfl rfl

theorem recordSource {p : Port} {f : Firing} (h : SameAccount s t) : SameAccount s (t.recordSource p f) := by
  unfold State.recordSource
  split
  · exact h
  · split
    · exact h
    · exact SameAccount.submit (h.modPort rfl rfl)

theorem takeWithdraw {p : Port} {src : GuardSource} (h : SameAccount s t) : SameAccount s (t.takeWithdraw p src) :=
  h.tcEvent (PortMachine.withdraw_lent _)

/-! ### Commands that leave the account as it is -/

theorem receiveFrame (g : Group) (bytes : List Byte) : SameAccount s (receiveFrame g bytes s) := by
  have hear : SameAccount s (s.hear g) := by
    unfold State.hear
    split
    · exact (SameAccount.refl s).elsewhere
    · exact SameAccount.foldl (fun i h => h.modPort rfl rfl) _ (SameAccount.refl s).elsewhere
  unfold Machine.receiveFrame
  split
  · exact .refl s
  · split
    · exact hear
    · exact hear.modPort rfl rfl

theorem silenceExpiryOf (g : Group) : SameAccount s (silenceExpiryOf g s) := by
  unfold Machine.silenceExpiryOf
  split
  · exact SameAccount.foldl (fun i h => h.modPort rfl rfl) _ (SameAccount.refl s).elsewhere
  · exact .refl s

theorem idleFrameSendOf (g : Group) : SameAccount s (idleFrameSendOf g s) := by
  unfold Machine.idleFrameSendOf
  split
  · exact (SameAccount.refl s).elsewhere
  · exact .refl s

theorem setGroup {g : Group} {x : GroupLink} (h : SameAccount s t) : SameAccount s (t.setGroup g x) := h.elsewhere

theorem transmitMessageOf (g : Group) : SameAccount s (transmitMessageOf g s) := by
  unfold Machine.transmitMessageOf
  split
  · exact .refl s
  · split
    · exact .refl s
    · split
      · exact .refl s
      · exact SameAccount.setGroup ((SameAccount.refl s).modPort rfl rfl)

theorem takePowerAt (p : Port) : SameAccount s (takePowerAt p s) := by
  have hbox (box : Inbox) : SameAccount s (s.setInbox p box) := (SameAccount.refl s).setInbox
  unfold Machine.takePowerAt
  split
  · split
    · dsimp only
      split
      · exact SameAccount.tcEvent (hbox _).stopOnPower (by rw [Acts.port_stopOnPower, Acts.tc_setInbox]; rfl)
      · exact SameAccount.tcEvent (hbox _) (by rw [Acts.tc_setInbox]; rfl)
    · exact .refl s
  · exact .refl s

theorem takeDetachedAt (p : Port) : SameAccount s (takeDetachedAt p s) := by
  have hbox (box : Inbox) : SameAccount s (s.setInbox p box) := (SameAccount.refl s).setInbox
  unfold Machine.takeDetachedAt
  split
  · dsimp only
    split
    · split
      · exact SameAccount.setSameRun (hbox _) (Engine.detached_sameRun _)
      · exact hbox _
    · exact hbox _
  · exact .refl s

/-- A message of the inbox taken by the Training Controller alone. -/
theorem message {p : Port} {box : Inbox} {out : TcEffect}
    (hm : out.m.f.mode = .lent ↔ (s.port p).tc.f.mode = .lent) :
    SameAccount s ((s.setInbox p box).tcEvent false p out) :=
  SameAccount.tcEvent ((SameAccount.refl s).setInbox) (by rw [Acts.tc_setInbox]; exact hm)

theorem takeEnergyAt (p : Port) : SameAccount s (takeEnergyAt p s) := by
  unfold Machine.takeEnergyAt
  split
  · split
    · exact message (PortMachine.takeEnergy_lent _)
    · exact .refl s
  · exact .refl s

theorem takeLostAt (p : Port) : SameAccount s (takeLostAt p s) := by
  unfold Machine.takeLostAt
  split
  · exact message PortMachine.takeLost_lent
  · exact .refl s

theorem takeResultPassAt (p : Port) : SameAccount s (takeResultPassAt p s) := by
  unfold Machine.takeResultPassAt
  split
  · split
    · exact message (PortMachine.takeResultPass_lent _ _ _)
    · exact .refl s
  · exact .refl s

theorem takeResultFailAt (p : Port) : SameAccount s (takeResultFailAt p s) := by
  unfold Machine.takeResultFailAt
  split
  · split
    · exact message PortMachine.failAttempt_lent
    · exact .refl s
  · exact .refl s

theorem takePageAt (p : Port) : SameAccount s (takePageAt p s) := by
  unfold Machine.takePageAt
  split
  · split
    · exact message (PortMachine.takePage_lent _)
    · exact .refl s
  · exact .refl s

theorem listenExpiryAt (p : Port) : SameAccount s (listenExpiryAt p s) := by
  unfold Machine.listenExpiryAt
  split
  · next hm =>
    simp only [Bool.and_eq_true, decide_eq_true_eq] at hm
    exact (SameAccount.refl s).tcEvent (PortMachine.listenExpiry_lent hm.2)
  · exact .refl s

theorem trainExpiryAt (p : Port) : SameAccount s (trainExpiryAt p s) := by
  unfold Machine.trainExpiryAt
  split
  · exact (SameAccount.refl s).tcEvent PortMachine.failAttempt_lent
  · exact .refl s

theorem takeWithdrawAt (p : Port) : SameAccount s (takeWithdrawAt p s) := by
  unfold Machine.takeWithdrawAt
  split
  · exact SameAccount.takeWithdraw ((SameAccount.refl s).modPort rfl rfl)
  · exact .refl s

theorem guardFiringAt (p : Port) : SameAccount s (guardFiringAt p s) := by
  unfold Machine.guardFiringAt
  split
  · have hs (rest : List Firing) : SameAccount s (s.modPort p fun ps => { ps with firings := rest }) :=
      (SameAccount.refl s).modPort rfl rfl
    unfold State.takeFiring
    split
    · exact (hs _).recordSource
    · exact SameAccount.modPort (hs _).recordSource rfl rfl
  · exact .refl s

theorem waitExpiryOf (e : EngineId) : SameAccount s (waitExpiryOf e s) := by
  unfold Machine.waitExpiryOf
  split
  · exact SameAccount.elsewhere ((SameAccount.refl s).setSameRun (Engine.stop_sameRun (ending := .noDetach) (by simp) _))
  · exact .refl s

theorem sweepCompletionOf (e : EngineId) (echoes : List Echo) : SameAccount s (sweepCompletionOf e echoes s) := by
  unfold Machine.sweepCompletionOf
  split
  · exact (SameAccount.refl s).setSameRun (Engine.completeSweep_sameRun _ _)
  · exact .refl s

theorem tick : SameAccount s (tick s) where
  queue := rfl
  order := rfl
  runs e := by rw [engine_tick]; exact (Engine.tick_sameRun _).run
  standing p := ⟨.inl (by rw [port_tick]; rfl), by rw [port_tick]; rfl, fun _ => .rfl,
    fun e => by rw [engine_tick]; exact (Engine.tick_sameRun _).view p, fun _ => .rfl,
    fun _ h => by simpa [Machine.tick] using h⟩

theorem reconcile {p : Port} {completed : List PairResult} (h : SameAccount s t) :
    SameAccount s (t.reconcile p completed) := by
  unfold State.reconcile
  dsimp only
  split
  · exact SameAccount.elsewhere (h.commit (r := _))
  · exact h.commit

theorem takeRunEdges {p : Port} {edges : List GuardSource} (h : SameAccount s t) :
    SameAccount s (t.takeRunEdges p edges) := by
  unfold State.takeRunEdges
  split
  · exact h.recordSource.takeWithdraw
  · exact h.recordSource

end SameAccount
end Sys2Proof.Machine

end

section

namespace Sys2Proof.Machine

/-! ### What the Scheduler's operations leave of the queue, the engines and the operation under way -/

section

variable (s : State)

@[simp] theorem State.queue_event (host : Bool) (p : Port) (out : TcEffect) (sched : SchedFields) :
    (s.event host p out sched).queue = s.queue := (State.event_onlyPort s host p out sched).1.queue
@[simp] theorem State.order_event (host : Bool) (p : Port) (out : TcEffect) (sched : SchedFields) :
    (s.event host p out sched).order = s.order := (State.event_onlyPort s host p out sched).1.order
@[simp] theorem State.busy_event (host : Bool) (p : Port) (out : TcEffect) (sched : SchedFields) :
    (s.event host p out sched).busy = s.busy := (State.event_onlyPort s host p out sched).1.busy
@[simp] theorem State.bind_event (host : Bool) (p : Port) (out : TcEffect) (sched : SchedFields) :
    (s.event host p out sched).bind = s.bind := (State.event_onlyPort s host p out sched).1.bind
@[simp] theorem State.engine_event (host : Bool) (p : Port) (out : TcEffect) (sched : SchedFields) (e : EngineId) :
    (s.event host p out sched).engine e = s.engine e := by
  simp only [State.engine, (State.event_onlyPort s host p out sched).1.engines]

@[simp] theorem State.queue_assignEngine (e : EngineId) (x : Engine) : (s.assignEngine e x).queue = s.queue := rfl
@[simp] theorem State.busy_assignEngine (e : EngineId) (x : Engine) : (s.assignEngine e x).busy = s.busy := rfl
@[simp] theorem State.bind_assignEngine (e : EngineId) (x : Engine) : (s.assignEngine e x).bind = s.bind := rfl
@[simp] theorem State.order_assignEngine (e : EngineId) (x : Engine) :
    (s.assignEngine e x).order = e :: s.order.filter fun y => decide (y ≠ e) := rfl
theorem State.engine_assignEngine (e f : EngineId) (x : Engine) :
    (s.assignEngine e x).engine f = if f = e then x else s.engine f := State.engine_setEngine s e f x

@[simp] theorem State.queue_releaseEngine (e : EngineId) : (s.releaseEngine e).queue = s.queue := rfl
@[simp] theorem State.busy_releaseEngine (e : EngineId) : (s.releaseEngine e).busy = s.busy := rfl
@[simp] theorem State.bind_releaseEngine (e : EngineId) : (s.releaseEngine e).bind = s.bind := rfl
@[simp] theorem State.order_releaseEngine (e : EngineId) :
    (s.releaseEngine e).order = s.order.filter fun y => decide (y ≠ e) := rfl
theorem State.engine_releaseEngine (e f : EngineId) :
    (s.releaseEngine e).engine f = if f = e then .idle else s.engine f := State.engine_setEngine s e f .idle

@[simp] theorem State.queue_dropEntry (p : Port) :
    (s.dropEntry p).queue = s.queue.filter fun x => decide (x.port ≠ p) := rfl
@[simp] theorem State.busy_dropEntry (p : Port) : (s.dropEntry p).busy = s.busy := rfl
@[simp] theorem State.bind_dropEntry (p : Port) : (s.dropEntry p).bind = s.bind := rfl
@[simp] theorem State.order_dropEntry (p : Port) : (s.dropEntry p).order = s.order := rfl
@[simp] theorem State.engine_dropEntry (p : Port) (e : EngineId) : (s.dropEntry p).engine e = s.engine e := rfl

end

/-! ### The order of dispatch (R74) -/

theorem State.orderOk_of_eq {s t : State} (h : s.orderOk) (ho : t.order = s.order)
    (he : ∀ e, (t.engine e).run? ≠ none ↔ (s.engine e).run? ≠ none) : t.orderOk := by
  refine ⟨ho ▸ h.1, fun e => ?_⟩
  rw [ho, h.2, he]

theorem State.orderOk_of_assigned {s t : State} {e : EngineId} {x : Engine} (h : s.orderOk) (hx : x.run? ≠ none)
    (ho : t.order = e :: s.order.filter fun y => decide (y ≠ e))
    (he : ∀ f, t.engine f = if f = e then x else s.engine f) : t.orderOk := by
  refine ⟨?_, fun f => ?_⟩
  · rw [ho, List.nodup_cons]
    exact ⟨by simp, h.1.filter _⟩
  · rw [ho, he, List.mem_cons, List.mem_filter, h.2]
    by_cases hf : f = e <;> simp [hf, hx]

theorem State.orderOk_of_released {s t : State} {e : EngineId} (h : s.orderOk)
    (ho : t.order = s.order.filter fun y => decide (y ≠ e))
    (he : ∀ f, t.engine f = if f = e then .idle else s.engine f) : t.orderOk := by
  refine ⟨ho ▸ h.1.filter _, fun f => ?_⟩
  rw [ho, he, List.mem_filter, h.2]
  by_cases hf : f = e <;> simp [hf, Engine.run?]

/-! ### The other ports -/

namespace SameStanding

variable {s t : State} {q : Port}

theorem of_onlyPort {p : Port} (h : OnlyPort p s t) (hq : q ≠ p) : SameStanding q s t where
  status := by rw [h.2 q hq]; exact .inl rfl
  mode := by rw [h.2 q hq]
  queue b := by rw [h.1.queue]
  engines e := by simp only [State.engine, h.1.engines]
  busy b := by rw [h.1.busy]
  bind _ := by rw [h.1.bind]; exact id

theorem event {host : Bool} {p : Port} {out : TcEffect} {sched : SchedFields} (h : SameStanding q s t) (hq : q ≠ p) :
    SameStanding q s (t.event host p out sched) := h.trans (of_onlyPort (State.event_onlyPort t host p out sched) hq)

theorem modPort {p : Port} {f : PortState → PortState} (h : SameStanding q s t) (hq : q ≠ p) :
    SameStanding q s (t.modPort p f) := h.trans (of_onlyPort (OnlyPort.modPort t p f) hq)

theorem setQueue {l : List Entry} (h : SameStanding q s t) (hl : ∀ b, queueHolds l q b ↔ queueHolds t.queue q b) :
    SameStanding q s { t with queue := l } :=
  h.trans ⟨.inl rfl, .rfl, hl, fun _ => rfl, fun _ => .rfl, fun _ => id⟩

theorem dropEntry {p : Port} (h : SameStanding q s t) (hq : q ≠ p) : SameStanding q s (t.dropEntry p) :=
  h.setQueue fun b => by rw [queueHolds_filter]; simp [hq]

theorem setEngine {e : EngineId} {x : Engine} (h : SameStanding q s t) (hx : x.view q = (t.engine e).view q) :
    SameStanding q s (t.setEngine e x) :=
  h.trans ⟨.inl rfl, .rfl, fun _ => .rfl, fun f => by
    rw [State.engine_setEngine]
    split
    · next hf => rw [hf]; exact hx
    · rfl, fun _ => .rfl, fun _ => id⟩

theorem setOrder {l : List EngineId} (h : SameStanding q s t) : SameStanding q s { t with order := l } :=
  h.trans ⟨.inl rfl, .rfl, fun _ => .rfl, fun _ => rfl, fun _ => .rfl, fun _ => id⟩

theorem assignEngine {e : EngineId} {x : Engine} (h : SameStanding q s t) (hx : x.view q = (t.engine e).view q) :
    SameStanding q s (t.assignEngine e x) := (h.setEngine hx).setOrder

theorem releaseEngine {e : EngineId} (h : SameStanding q s t) (hx : (t.engine e).view q = none) :
    SameStanding q s (t.releaseEngine e) := (h.setEngine (x := .idle) hx.symm).setOrder

end SameStanding

/-- A change that concerns one port alone. -/
theorem State.schedulerOk_of_port {s t : State} {p : Port} (hs : ∀ q, q ≠ p → s.Stands q) (hq : queueOk t.queue)
    (ho : t.orderOk) (hsame : ∀ q, q ≠ p → SameStanding q s t) (hp : t.Stands p) : t.schedulerOk := by
  refine State.schedulerOk_of_stands hq ho fun q => ?_
  by_cases h : q = p
  · exact h ▸ hp
  · exact (hsame q h).stands (hs q h)

/-! ### Finding the entry and the engine of a port -/

section

variable {s : State} {p : Port}

theorem State.entryOf_some {x : Entry} (h : s.entryOf p = some x) : x ∈ s.queue ∧ x.port = p :=
  ⟨List.mem_of_find?_eq_some h, by simpa using List.find?_some h⟩

theorem State.queueHolds_of_entryOf {x : Entry} (h : s.entryOf p = some x) :
    queueHolds s.queue p x.suspended.isSome := ⟨x, (State.entryOf_some h).1, (State.entryOf_some h).2, rfl⟩

theorem State.not_queueHolds_of_entryOf (h : s.entryOf p = none) (b : Bool) : ¬ queueHolds s.queue p b := by
  refine queueHolds_none_iff.2 (fun x hx => ?_) b
  simpa using List.find?_eq_none.1 h x hx

theorem State.view_of_engineHolding {e : EngineId} (h : s.engineHolding p = some e) :
    ∃ v, (s.engine e).view p = some v := by
  have hh : (s.engine e).holds p = true := List.find?_some (p := fun e => (s.engine e).holds p) h
  unfold Engine.holds at hh
  split at hh
  · next r hr =>
    rw [Engine.view_of_run hr, if_pos (by simpa using hh)]
    exact ⟨_, rfl⟩
  · cases hh

theorem State.view_of_no_engineHolding (h : s.engineHolding p = none) (e : EngineId) : (s.engine e).view p = none := by
  have hh := List.find?_eq_none.1 h e (mem_allEngines e)
  unfold Engine.holds at hh
  by_contra hv
  obtain ⟨r, hr, hp⟩ := Engine.view_ne_none.1 hv
  simp [hr, hp] at hh

theorem State.idle_of_idleEngine {e : EngineId} (h : s.idleEngine = some e) : s.engine e = .idle := by
  have hh : (s.engine e).isIdle = true := List.find?_some (p := fun e => (s.engine e).isIdle) h
  cases hx : s.engine e <;> simp_all [Engine.isIdle]

/-- Dropping the head's port leaves the rest of the queue. -/
theorem State.setQueue_rest_eq {x : Entry} {rest : List Entry} (hq : queueOk s.queue) (h : s.queue = x :: rest) :
    { s with queue := rest } = s.dropEntry x.port := by
  rw [h] at hq
  simp only [State.dropEntry, h, ← hq.rest_eq_filter]

end

/-! ### A port leaves the queue (R75, R80, R82) -/

theorem queueHolds_filter_self {q : List Entry} {p : Port} (b : Bool) :
    ¬ queueHolds (q.filter fun x => decide (x.port ≠ p)) p b := by
  rw [queueHolds_filter]
  simp

theorem length_filter_lt {q : List Entry} {p : Port} {b : Bool} (h : queueHolds q p b) :
    (q.filter fun x => decide (x.port ≠ p)).length < q.length := by
  obtain ⟨x, hx, hp, -⟩ := h
  exact List.length_filter_lt_length_iff_exists.2 ⟨x, hx, by simpa using hp⟩

/-- A port with an entry is on no engine, and has no PORT-RESET under way. -/
theorem State.Stands.of_queueHolds {s : State} {p : Port} {b : Bool} (h : s.Stands p) (hb : queueHolds s.queue p b) :
    (∀ e, (s.engine e).view p = none) ∧ (∀ c, s.busy ≠ some (.portReset p c))
      ∧ ((s.port p).sched.status = if b then .suspended else .queued)
      ∧ ((s.port p).tc.f.mode = .lent ↔ b = true) := by
  cases h with
  | queued status mode queue unsuspended engines busy =>
    cases b with
    | false => exact ⟨engines, busy, status, by simp [mode]⟩
    | true => exact absurd hb unsuspended
  | suspended status mode queue unqueued engines busy =>
    cases b with
    | false => exact absurd hb unqueued
    | true => exact ⟨engines, busy, status, by simp [mode]⟩
  | apart _ _ queue _ _ | running _ _ _ _ queue _ _ _ _ _ | resetWaits _ _ queue _ _ _ => exact absurd hb (queue b)

/-- The entry of a port is dropped, and the port takes a status with no place, not LENT. -/
theorem State.leaveQueue_schedulerOk {s : State} {p : Port} {b : Bool} (hs : s.schedulerOk)
    (hb : queueHolds s.queue p b) (host : Bool) {out : TcEffect} {sched : SchedFields}
    (hsched : sched.status.placed = false) (hm : out.m.f.mode ≠ .lent) :
    ((s.dropEntry p).event host p out sched).schedulerOk := by
  obtain ⟨engines, busy, -⟩ := (hs.stands p).of_queueHolds hb
  refine State.schedulerOk_of_port (fun q _ => hs.stands q) ?_ (State.orderOk_of_eq hs.orderOk (by simp) fun e => by simp)
    (fun q hq => ((SameStanding.refl q s).dropEntry hq).event hq) ?_
  · rw [State.queue_event]
    exact hs.1.filter _
  · refine .apart ?_ ?_ ?_ ?_ ?_
    · rwa [State.event_sched]
    · rwa [State.event_tc]
    · rw [State.queue_event]
      exact queueHolds_filter_self
    · simpa using engines
    · simpa using busy

/-! ### A port takes a place in the queue (R69, R70, R72, R73) -/

/-- A port with a status that has no place stands on no list. -/
theorem State.Stands.of_unplaced {s : State} {p : Port} (h : s.Stands p)
    (hst : (s.port p).sched.status.placed = false) :
    (s.port p).tc.f.mode ≠ .lent ∧ (∀ b, ¬ queueHolds s.queue p b) ∧ (∀ e, (s.engine e).view p = none)
      ∧ ∀ b, s.busy ≠ some (.portReset p b) := by
  cases h with
  | apart status mode queue engines busy => exact ⟨mode, queue, engines, busy⟩
  | queued status | running _ _ status | suspended status | resetWaits status => rw [status] at hst; cases hst

/-- A port newly queued. -/
theorem State.stands_queued {s t : State} {x : Entry} (hx : x.suspended = none)
    (hs : (s.port x.port).sched.status.placed = false) (hstands : s.Stands x.port)
    (hqueue : t.queue = joinTail s.queue x) (hstatus : (t.port x.port).sched.status = .queued)
    (htc : (t.port x.port).tc = (s.port x.port).tc) (hengines : ∀ e, t.engine e = s.engine e)
    (hbusy : t.busy = s.busy) : t.Stands x.port := by
  obtain ⟨mode, queue, engines, busy⟩ := hstands.of_unplaced hs
  refine .queued hstatus (htc ▸ mode) ?_ ?_ (fun e => (hengines e).symm ▸ engines e) (fun b => hbusy.symm ▸ busy b)
  · rw [hqueue, queueHolds_joinTail]
    exact .inl ⟨rfl, by simp [hx]⟩
  · rw [hqueue, queueHolds_joinTail]
    rintro (⟨-, h⟩ | h)
    · simp [hx] at h
    · exact queue true h

theorem Entry.joinsTo_of_apart {s : State} {x : Entry} (hroom : s.queue.length < Config.queueSize)
    (hs : (s.port x.port).sched.status.placed = false) (hstands : s.Stands x.port) (hpairs : x.pairs ≠ 0)
    (hsusp : x.suspended = none) : x.JoinsTo s.queue :=
  ⟨hroom, queueHolds_none_iff.1 (hstands.of_unplaced hs).2.1, hpairs, fun h => absurd hsusp h⟩

/-- An entry joins the tail of its class, its port's status QUEUED. -/
theorem State.joinQueue_schedulerOk {s : State} {x : Entry} (hs : s.schedulerOk)
    (hroom : s.queue.length < Config.queueSize) (hst : (s.port x.port).sched.status.placed = false)
    (hpairs : x.pairs ≠ 0) (hsusp : x.suspended = none) (host : Bool) {sched : SchedFields}
    (hsched : sched.status = .queued) :
    (({ s with queue := joinTail s.queue x } : State).schedEvent host x.port sched).schedulerOk := by
  refine State.schedulerOk_of_port (p := x.port) (fun q _ => hs.stands q) ?_
    (State.orderOk_of_eq hs.orderOk (State.order_event _ _ _ _ _) fun e => by rw [State.schedEvent, State.engine_event]; rfl)
    (fun q hq => ?_) ?_
  · rw [State.schedEvent, State.queue_event]
    exact hs.1.joinTail (Entry.joinsTo_of_apart hroom hst (hs.stands _) hpairs hsusp)
  · refine SameStanding.event (SameStanding.setQueue (.refl q s) fun b => ?_) hq
    rw [queueHolds_joinTail]
    exact or_iff_right fun h => hq h.1.symm
  · refine State.stands_queued (s := s) hsusp hst (hs.stands _) (State.queue_event _ _ _ _ _) ?_ ?_ (fun e => ?_)
      (State.busy_event _ _ _ _ _)
    · rw [State.schedEvent_sched, if_pos rfl, hsched]
    · rw [State.schedEvent_tc]; rfl
    · rw [State.schedEvent, State.engine_event]; rfl

/-- The offering of a place keeps where every port stands, a promoted port now QUEUED. -/
theorem State.offerPlace_stands {s : State} (host : Bool) (hq : queueOk s.queue)
    (hroom : s.queue.length < Config.queueSize) (hw : ∀ p, (s.port p).sched.status = .wanted → s.Stands p) :
    queueOk (s.offerPlace host).queue ∧ ∀ q, s.Stands q → (s.offerPlace host).Stands q := by
  obtain ⟨hsame, htc, hcases⟩ := State.offerPlaceTo_cases host allPorts s
  have hbusy := hsame.busy
  have hengine (e : EngineId) : (s.offerPlaceTo host allPorts).engine e = s.engine e := by
    simp only [State.engine, hsame.engines]
  unfold State.offerPlace
  have standing {q : Port} (hst : (s.port q).sched.status.PassedOver ((s.offerPlaceTo host allPorts).port q).sched.status)
      (hh : ∀ b, queueHolds (s.offerPlaceTo host allPorts).queue q b ↔ queueHolds s.queue q b) :
      SameStanding q s (s.offerPlaceTo host allPorts) :=
    ⟨hst.samePlace, by rw [htc], hh, fun e => by rw [hengine], fun b => by rw [hbusy], fun _ => by rw [hsame.bind]; exact id⟩
  rcases hcases with ⟨hqueue, hall⟩ | ⟨p, hp, hqueue, hp', hall⟩
  · exact ⟨hqueue ▸ hq, fun q => (standing (hall q) fun b => by rw [hqueue]).stands⟩
  · have hun : (s.port (routineEntry p).port).sched.status.placed = false := by
      show (s.port p).sched.status.placed = false
      rw [hp]; rfl
    have hpairs : (routineEntry p).pairs ≠ 0 := by simp [routineEntry]
    refine ⟨?_, fun q hs => ?_⟩
    · rw [hqueue]
      exact hq.joinTail (Entry.joinsTo_of_apart hroom hun (hw p hp) hpairs rfl)
    · by_cases hqp : q = p
      · subst hqp
        exact State.stands_queued (x := routineEntry q) rfl hun hs hqueue hp' (htc q) hengine hbusy
      · refine (standing (hall q hqp) fun b => ?_).stands hs
        rw [hqueue, queueHolds_joinTail]
        exact or_iff_right fun h => hqp h.1.symm

theorem State.offerPlace_schedulerOk {s : State} (host : Bool) (hs : s.schedulerOk)
    (hroom : s.queue.length < Config.queueSize) : (s.offerPlace host).schedulerOk := by
  obtain ⟨hq, hstands⟩ := State.offerPlace_stands host hs.1 hroom fun p _ => hs.stands p
  obtain ⟨hsame, -⟩ := State.offerPlaceTo_cases host allPorts s
  refine State.schedulerOk_of_stands hq (State.orderOk_of_eq hs.orderOk hsame.order fun e => ?_)
    fun q => hstands q (hs.stands q)
  simp only [State.engine, State.offerPlace, hsame.engines]

end Sys2Proof.Machine

end

section

namespace Sys2Proof.Machine

/-! ### A port is taken by an engine, and given up (R75, R76, R81, R82) -/

theorem Engine.view_other {x : Engine} {p q : Port} {v : PairSet × Bool} (h : x.view p = some v) (hq : q ≠ p) :
    x.view q = none := by
  obtain ⟨r, hr, hp, -⟩ := Engine.view_some h
  rw [Engine.view_of_run hr, if_neg fun h => hq (h.symm.trans hp)]

/-- A run that an engine can be given: of port `p`, with pairs requested, and not ending in RESET. -/
structure Engine.Runs (x : Engine) (p : Port) : Prop where
  run : ∃ r, x.run? = some r ∧ r.port = p ∧ r.requested ≠ 0
  reset : x.endsInReset = false

theorem Engine.Runs.view {x : Engine} {p : Port} (h : x.Runs p) : ∃ v, x.view p = some v ∧ v.1 ≠ 0 ∧ v.2 = false := by
  obtain ⟨⟨r, hr, hp, hreq⟩, hreset⟩ := h
  exact ⟨_, by rw [Engine.view_of_run hr, if_pos hp], hreq, hreset⟩

/-- A port newly on an engine. -/
theorem State.stands_running {s t : State} {p : Port} {b : Bool} {e : EngineId} {x : Engine} (hs : s.Stands p)
    (hb : queueHolds s.queue p b) (hx : x.Runs p) (hqueue : ∀ c, ¬ queueHolds t.queue p c)
    (hengines : ∀ f, t.engine f = if f = e then x else s.engine f) (hbusy : t.busy = s.busy)
    (hstatus : (t.port p).sched.status = .running) (hmode : (t.port p).tc.f.mode = .lent) : t.Stands p := by
  obtain ⟨engines, busy, -⟩ := hs.of_queueHolds hb
  obtain ⟨v, hv, hpairs, hreset⟩ := hx.view
  refine .running e v hstatus hmode hqueue (by rw [hengines, if_pos rfl, hv]) (fun f hf => ?_) hpairs ?_ ?_
  · rw [hengines, if_neg hf]
    exact engines f
  · rw [hbusy]
    exact iff_of_false (by simp [hreset]) (busy false)
  · rw [hbusy]
    exact busy true

section

variable (s : State) (e : EngineId) (r : Run)

theorem State.queue_lendTo : (s.lendTo e r).queue = s.queue := by simp [State.lendTo]
theorem State.busy_lendTo : (s.lendTo e r).busy = s.busy := by simp [State.lendTo]
theorem State.order_lendTo : (s.lendTo e r).order = e :: s.order.filter fun y => decide (y ≠ e) := by
  simp [State.lendTo]
theorem State.engine_lendTo (f : EngineId) :
    (s.lendTo e r).engine f = if f = e then .attaching r detachWait else s.engine f := by
  simp [State.lendTo, State.engine_assignEngine]
theorem State.sched_lendTo :
    ((s.lendTo e r).port r.port).sched = { (s.port r.port).sched with status := .running } := by
  simp [State.lendTo]
theorem State.port_lendTo_ne {r : Run} {q : Port} (hq : q ≠ r.port) : (s.lendTo e r).port q = s.port q := by
  unfold State.lendTo
  rw [(State.event_onlyPort _ _ _ _ _).2 _ hq, State.port_modPort_ne _ _ hq]
  rfl
theorem State.mode_lendTo : ((s.lendTo e r).port r.port).tc.f.mode = .lent := by
  simp only [State.lendTo, State.event_tc]
  exact PortMachine.lend_mode

end

theorem SameStanding.lendTo {s t : State} {q : Port} {e : EngineId} {r : Run} (h : SameStanding q s t)
    (hq : q ≠ r.port) (he : (t.engine e).view q = none) : SameStanding q s (t.lendTo e r) := by
  refine SameStanding.event (SameStanding.modPort (h.assignEngine ?_) hq) hq
  rw [he, Engine.view_of_run (r := r) rfl, if_neg (Ne.symm hq)]

theorem Engine.attaching_runs {r : Run} (wait : Nat) (h : r.requested ≠ 0) : (Engine.attaching r wait).Runs r.port :=
  ⟨⟨r, rfl, rfl, h⟩, rfl⟩

/-- The head of the queue is lent to an idle engine (R75, R90). -/
theorem State.lendTo_schedulerOk {s : State} {e : EngineId} {r : Run} {b : Bool} (hs : s.schedulerOk)
    (hb : queueHolds s.queue r.port b) (he : s.engine e = .idle) (hr : r.requested ≠ 0) :
    ((s.dropEntry r.port).lendTo e r).schedulerOk := by
  refine State.schedulerOk_of_port (p := r.port) (fun q _ => hs.stands q) ?_
    (State.orderOk_of_assigned hs.orderOk (x := .attaching r detachWait) (by simp [Engine.run?])
      (State.order_lendTo _ e r) (State.engine_lendTo _ e r))
    (fun q hq => ((SameStanding.refl q s).dropEntry hq).lendTo hq (by simp [he])) ?_
  · rw [State.queue_lendTo]
    exact hs.1.filter _
  · refine State.stands_running (hs.stands _) hb (Engine.attaching_runs detachWait hr) ?_
      (State.engine_lendTo (s.dropEntry r.port) e r) (State.busy_lendTo _ e r) ?_ (State.mode_lendTo _ e r)
    · rw [State.queue_lendTo]
      exact queueHolds_filter_self
    · rw [State.sched_lendTo]

/-- A suspended head goes back to an idle engine (R76, R93). -/
theorem State.resume_schedulerOk {s : State} {e : EngineId} {x : Engine} {p : Port} (hs : s.schedulerOk)
    (hb : queueHolds s.queue p true) (he : s.engine e = .idle) (hx : x.Runs p) {sched : SchedFields}
    (hsched : sched.status = .running) :
    (((s.dropEntry p).assignEngine e x).schedEvent false p sched).schedulerOk := by
  obtain ⟨-, -, -, hlent⟩ := (hs.stands p).of_queueHolds hb
  have hengines (f : EngineId) : (((s.dropEntry p).assignEngine e x).schedEvent false p sched).engine f
      = if f = e then x else s.engine f := by
    rw [State.schedEvent, State.engine_event, State.engine_assignEngine, State.engine_dropEntry]
  obtain ⟨r, hr, hrp, -⟩ := hx.run
  refine State.schedulerOk_of_port (p := p) (fun q _ => hs.stands q) ?_
    (State.orderOk_of_assigned hs.orderOk (x := x) (by simp [hr]) (State.order_event _ _ _ _ _) hengines)
    (fun q hq => ?_) ?_
  · rw [State.schedEvent, State.queue_event]
    exact hs.1.filter _
  · refine SameStanding.event (SameStanding.assignEngine ((SameStanding.refl q s).dropEntry hq) ?_) hq
    rw [State.engine_dropEntry, he, Engine.view_of_run hr, if_neg fun h => hq (h.symm.trans hrp)]
    rfl
  · refine State.stands_running (hs.stands _) hb hx ?_ hengines (State.busy_event _ _ _ _ _) ?_ ?_
    · rw [State.schedEvent, State.queue_event]
      exact queueHolds_filter_self
    · rw [State.schedEvent_sched, if_pos rfl, hsched]
    · rw [State.schedEvent_tc]
      exact hlent.2 rfl

/-- An engine gives up a run that does not end in RESET, and its port is returned (R81, R82). -/
theorem State.leaveEngine_schedulerOk {s : State} {e : EngineId} {p : Port} {v : PairSet × Bool} (hs : s.schedulerOk)
    (hv : (s.engine e).view p = some v) (hreset : v.2 = false) (host : Bool) {out : TcEffect} {sched : SchedFields}
    (hsched : sched.status.placed = false) (hm : out.m.f.mode ≠ .lent) :
    ((s.releaseEngine e).event host p out sched).schedulerOk := by
  obtain ⟨-, -, queue, others, -, reset, busy⟩ := (hs.stands p).of_view hv
  have hengines (f : EngineId) : ((s.releaseEngine e).event host p out sched).engine f
      = if f = e then .idle else s.engine f := by
    rw [State.engine_event, State.engine_releaseEngine]
  refine State.schedulerOk_of_port (p := p) (fun q _ => hs.stands q) ?_
    (State.orderOk_of_released hs.orderOk (State.order_event _ _ _ _ _) hengines)
    (fun q hq => ((SameStanding.refl q s).releaseEngine (Engine.view_other hv hq)).event hq) ?_
  · rw [State.queue_event]
    exact hs.1
  · refine .apart ?_ ?_ ?_ (fun f => ?_) ?_
    · rwa [State.event_sched]
    · rwa [State.event_tc]
    · rw [State.queue_event]
      exact queue
    · rw [hengines]
      split
      · rfl
      · next hf => exact others f hf
    · rw [State.busy_event]
      refine Bool.forall_bool.2 ⟨fun h => ?_, busy⟩
      rw [reset.2 h] at hreset
      cases hreset

/-! ### The Scheduler's commands -/

theorem State.abortPowered_schedulerOk {s : State} {r : Run} (hs : s.schedulerOk)
    (hb : queueHolds s.queue r.port false) : ((s.dropEntry r.port).abortPowered r).schedulerOk := by
  obtain ⟨-, -, -, hlent⟩ := (hs.stands _).of_queueHolds hb
  refine State.offerPlace_schedulerOk false (State.leaveQueue_schedulerOk hs hb false rfl ?_) ?_
  · exact hlent.not.2 (by simp)
  · rw [State.schedEvent, State.queue_event]
    exact (length_filter_lt hb).trans_le hs.1.1

theorem dispatchHead_schedulerOk {s : State} (hs : s.schedulerOk) : (dispatchHead s).schedulerOk := by
  unfold dispatchHead
  split
  · exact hs
  · split
    · next e x rest he hqueue =>
      split
      · exact hs
      · next hguard =>
        simp only [Bool.or_eq_true, decide_eq_true_eq, not_or, Bool.not_eq_true] at hguard
        have hb : queueHolds s.queue x.port false := ⟨x, by simp [hqueue], rfl, hguard.1⟩
        dsimp only
        rw [State.setQueue_rest_eq hs.1 hqueue]
        split
        · exact State.abortPowered_schedulerOk (r := s.freshRun x) hs hb
        · refine State.offerPlace_schedulerOk false (State.lendTo_schedulerOk (r := s.freshRun x) hs hb
            (State.idle_of_idleEngine he) ?_) ?_
          · exact hs.1.pairs_ne_zero (by simp [hqueue])
          · rw [State.queue_lendTo]
            exact (length_filter_lt hb).trans_le hs.1.1
    · exact hs

theorem resumeHead_schedulerOk {s : State} (hs : s.schedulerOk) : (resumeHead s).schedulerOk := by
  unfold resumeHead
  split
  · exact hs
  · split
    · next e x rest he hqueue =>
      split
      · exact hs
      · next ctx hctx =>
        split
        · exact hs
        · rw [State.setQueue_rest_eq hs.1 hqueue]
          refine State.resume_schedulerOk hs ⟨x, by simp [hqueue], rfl, by simp [hctx]⟩ (State.idle_of_idleEngine he)
            ⟨⟨s.resumedRun x ctx, Run.nextPair_run _, rfl, ?_⟩, Run.nextPair_endsInReset _⟩ rfl
          exact hs.1.pairs_ne_zero (by simp [hqueue])
    · exact hs

/-- A ROUTINE run is suspended and its engine lent to the URGENT head (R78, R102). -/
theorem State.preempt_schedulerOk {s : State} {e : EngineId} {old r : Run} {rest : List Entry} {x : Entry}
    (hs : s.schedulerOk) (hqueue : s.queue = x :: rest) (hx : x.suspended = none) (hport : r.port = x.port)
    (hr : r.requested ≠ 0) (hold : (s.engine e).run? = some old) (hreset : (s.engine e).endsInReset = false) :
    ((({ s with queue := joinFrontOfRoutine rest old.suspend } : State).lendTo e r).schedEvent false old.port
      { (s.port old.port).sched with status := .suspended }).schedulerOk := by
  have hb : queueHolds s.queue r.port false := ⟨x, by simp [hqueue], hport.symm, by simp [hx]⟩
  have hv : (s.engine e).view old.port = some (old.requested, false) := by
    rw [Engine.view_of_run hold, if_pos rfl, hreset]
  obtain ⟨-, lent, noentry, others, pairs, reset, busy⟩ := (hs.stands old.port).of_view hv
  have hne : old.port ≠ r.port := fun h => noentry false (h ▸ hb)
  have hq : queueOk (x :: rest) := hqueue ▸ hs.1
  have hentries (q : Port) (hqr : q ≠ r.port) (b : Bool) : queueHolds rest q b ↔ queueHolds s.queue q b := by
    rw [hqueue, queueHolds_cons]
    exact (or_iff_right fun h => hqr (h.1.symm.trans hport.symm)).symm
  have hrest (b : Bool) : ¬ queueHolds rest r.port b := by
    rw [hq.rest_eq_filter, hport]
    exact queueHolds_filter_self b
  generalize hu : ({ s with queue := joinFrontOfRoutine rest old.suspend } : State) = u
  have uqueue : u.queue = joinFrontOfRoutine rest old.suspend := by rw [← hu]
  have uengine (f : EngineId) : u.engine f = s.engine f := by rw [← hu]; rfl
  have uport (q : Port) : u.port q = s.port q := by rw [← hu]; rfl
  have ubusy : u.busy = s.busy := by rw [← hu]
  have uorder : u.order = s.order := by rw [← hu]
  have uq (q : Port) (h1 : q ≠ r.port) (h2 : q ≠ old.port) : SameStanding q s u := by
    rw [← hu]
    refine (SameStanding.refl q s).setQueue fun b => ?_
    rw [queueHolds_joinFrontOfRoutine, ← hentries q h1]
    exact or_iff_right fun h => h2 h.1.symm
  have tengine (f : EngineId) :
      ((u.lendTo e r).schedEvent false old.port { (s.port old.port).sched with status := .suspended }).engine f
        = if f = e then .attaching r detachWait else s.engine f := by
    rw [State.schedEvent, State.engine_event, State.engine_lendTo, uengine]
  have tqueue : ((u.lendTo e r).schedEvent false old.port
      { (s.port old.port).sched with status := .suspended }).queue = joinFrontOfRoutine rest old.suspend := by
    rw [State.schedEvent, State.queue_event, State.queue_lendTo, uqueue]
  have tbusy : ((u.lendTo e r).schedEvent false old.port
      { (s.port old.port).sched with status := .suspended }).busy = s.busy := by
    rw [State.schedEvent, State.busy_event, State.busy_lendTo, ubusy]
  refine State.schedulerOk_of_stands ?_ ?_ fun q => ?_
  · rw [tqueue]
    refine hq.tail.joinFrontOfRoutine ⟨?_, queueHolds_none_iff.1 fun b => ?_, pairs, fun _ => rfl⟩
    · have := hq.1
      rw [List.length_cons] at this
      exact this
    · rw [show old.suspend.port = old.port from rfl, hentries _ hne]
      exact noentry b
  · refine State.orderOk_of_assigned hs.orderOk (x := .attaching r detachWait) (by simp [Engine.run?]) ?_ tengine
    rw [State.schedEvent, State.order_event, State.order_lendTo, uorder]
  · by_cases hqr : q = r.port
    · subst hqr
      refine State.stands_running (hs.stands _) hb (Engine.attaching_runs detachWait hr) (fun b => ?_) tengine tbusy ?_ ?_
      · rw [tqueue, queueHolds_joinFrontOfRoutine]
        exact not_or.2 ⟨fun h => hne h.1, hrest b⟩
      · rw [State.schedEvent_sched, if_neg (Ne.symm hne), State.sched_lendTo]
      · rw [State.schedEvent_tc, State.mode_lendTo]
    · by_cases hqo : q = old.port
      · subst hqo
        have hmode : ((u.lendTo e r).port old.port).tc = (s.port old.port).tc := by
          rw [State.port_lendTo_ne u e hne, uport]
        refine .suspended ?_ ?_ ?_ ?_ (fun f => ?_) ?_
        · rw [State.schedEvent_sched, if_pos rfl]
        · rw [State.schedEvent_tc, hmode]
          exact lent
        · rw [tqueue, queueHolds_joinFrontOfRoutine]
          exact .inl ⟨rfl, rfl⟩
        · rw [tqueue, queueHolds_joinFrontOfRoutine, hentries _ hne]
          exact not_or.2 ⟨fun h => Bool.noConfusion h.2, noentry false⟩
        · rw [tengine]
          split
          · rw [Engine.view_of_run (r := r) rfl, if_neg (Ne.symm hne)]
          · next hf => exact others f hf
        · rw [tbusy]
          exact Bool.forall_bool.2 ⟨fun h => Bool.noConfusion (reset.2 h), busy⟩
      · refine SameStanding.stands ?_ (hs.stands q)
        refine SameStanding.event (SameStanding.lendTo (uq q hqr hqo) hqr ?_) hqo
        rw [uengine]
        exact Engine.view_other hv hqo

theorem preemptForHead_schedulerOk {s : State} (hs : s.schedulerOk) : (preemptForHead s).schedulerOk := by
  unfold preemptForHead
  split
  · exact hs
  · split
    · next x rest e hqueue hvictim =>
      split
      · exact hs
      · next old hold =>
        split
        · exact hs
        · next hguard =>
          simp only [Bool.or_eq_true, decide_eq_true_eq, not_or, Bool.not_eq_true] at hguard
          have hx : x.suspended = none := by simpa using hguard.1.2
          dsimp only
          split
          · rw [State.setQueue_rest_eq hs.1 hqueue]
            exact State.abortPowered_schedulerOk (r := s.freshRun x) hs ⟨x, by simp [hqueue], rfl, by simp [hx]⟩
          · have hpre : (s.engine e).preemptible = true := List.find?_some (p := fun e => (s.engine e).preemptible) hvictim
            have hreset : (s.engine e).endsInReset = false := by
              cases h : s.engine e <;> simp_all [Engine.preemptible, Engine.endsInReset]
            exact State.preempt_schedulerOk hs hqueue hx rfl (hs.1.pairs_ne_zero (by simp [hqueue])) hold hreset
    · exact hs

end Sys2Proof.Machine

end

section

namespace Sys2Proof.Machine

/-! ### Endings, notices and requests -/

theorem takeEndingCompleteOf_schedulerOk (e : EngineId) {s : State} (hs : s.schedulerOk) :
    (takeEndingCompleteOf e s).schedulerOk := by
  unfold takeEndingCompleteOf
  split
  · next r he =>
    split
    · exact hs
    · dsimp only
      have hsame (edges : List GuardSource) :
          SameAccount s ((s.reconcile r.port r.covered).takeRunEdges r.port edges) :=
        SameAccount.takeRunEdges (SameAccount.refl s).reconcile
      have hv : (s.engine e).view r.port = some (r.requested, false) := by
        rw [he]
        simp [Engine.view, Engine.run?, Engine.endsInReset]
      exact State.leaveEngine_schedulerOk ((hsame _).schedulerOk hs)
        ((((hsame _).standing r.port).engines e).trans hv) rfl false rfl (PortMachine.returnPort_mode _)
  · exact hs

theorem takeEndingAbortedOf_schedulerOk (e : EngineId) {s : State} (hs : s.schedulerOk) :
    (takeEndingAbortedOf e s).schedulerOk := by
  unfold takeEndingAbortedOf
  split
  · next r ending he =>
    split
    · exact hs
    · exact hs
    · next hreset =>
      split
      · exact hs
      · have hv : (s.engine e).view r.port = some (r.requested, false) := by
          rw [he]
          cases ending <;> simp_all [Engine.view, Engine.run?, Engine.endsInReset]
        exact State.leaveEngine_schedulerOk hs hv rfl false rfl (PortMachine.returnPort_mode _)
  · exact hs

theorem State.endSuspended_schedulerOk {s : State} (host : Bool) {p : Port} (cause : Ending) (ctx : Suspended) {b : Bool}
    (hs : s.schedulerOk) (hb : queueHolds s.queue p b) : (s.endSuspended host p cause ctx).schedulerOk := by
  refine State.offerPlace_schedulerOk host
    (State.leaveQueue_schedulerOk hs hb host rfl (PortMachine.returnPort_mode cause)) ?_
  rw [State.endAborted, State.queue_event]
  exact (length_filter_lt hb).trans_le hs.1.1

theorem State.takePowerNotice_schedulerOk {s : State} (p : Port) (hs : s.schedulerOk) :
    (s.takePowerNotice p).schedulerOk := by
  unfold State.takePowerNotice
  split
  · exact (SameAccount.refl s).stopOnPower.schedulerOk hs
  · split
    · next x hx =>
      split
      · exact State.endSuspended_schedulerOk false .power _ ((SameAccount.refl s).elsewhere.schedulerOk hs)
          (State.queueHolds_of_entryOf hx)
      · exact hs
    · exact hs

theorem powerNoticeAt_schedulerOk (p : Port) {s : State} (hs : s.schedulerOk) : (powerNoticeAt p s).schedulerOk := by
  have hn : (s.modPort p fun ps => { ps with powerNotice := false }).schedulerOk :=
    SameAccount.schedulerOk ((SameAccount.refl s).modPort rfl rfl) hs
  unfold powerNoticeAt
  split
  · dsimp only
    split
    · exact State.takePowerNotice_schedulerOk p hn
    · exact hn
  · exact hs

/-- A queue with other entries of the same ports, suspended as before. -/
theorem State.setQueue_schedulerOk {s : State} {l : List Entry} (hs : s.schedulerOk) (hl : queueOk l)
    (h : ∀ p b, queueHolds l p b ↔ queueHolds s.queue p b) : ({ s with queue := l } : State).schedulerOk :=
  State.schedulerOk_of_stands hl hs.orderOk fun p =>
    SameStanding.stands ((SameStanding.refl p s).setQueue (h p)) (hs.stands p)

/-- A port without a run and without an entry has a status with no place. -/
theorem State.Stands.unplaced {s : State} {p : Port} (h : s.Stands p) (hrun : (s.port p).sched.hasRun = false)
    (hq : ∀ b, ¬ queueHolds s.queue p b) : (s.port p).sched.status.placed = false := by
  cases h with
  | apart status => exact status
  | queued _ _ queue => exact absurd queue (hq false)
  | running _ _ status | suspended status | resetWaits status => simp [SchedFields.hasRun, status] at hrun

/-- The entry of a port without a run is not suspended. -/
theorem State.schedulerOk.unsuspended {s : State} {p : Port} {x : Entry} (hs : s.schedulerOk)
    (hrun : (s.port p).sched.hasRun = false) (hx : s.entryOf p = some x) : x.suspended = none := by
  obtain ⟨-, -, hstatus, -⟩ := (hs.stands p).of_queueHolds (State.queueHolds_of_entryOf hx)
  cases h : x.suspended with
  | none => rfl
  | some ctx => simp [SchedFields.hasRun, hstatus, h] at hrun

theorem State.takeAutoProbe_schedulerOk {s : State} (p : Port) (hs : s.schedulerOk) :
    (s.takeAutoProbe p).schedulerOk := by
  unfold State.takeAutoProbe
  dsimp only
  split
  · exact hs
  · next hrun =>
    split
    · have keep {α : Type} (f : Entry → α) (hf : ∀ z : Entry, f { z with pairs := 0xF#4 } = f z) (z : Entry) :
          f (if z.port = p then { z with pairs := 0xF#4 } else z) = f z := by
        split
        · exact hf z
        · rfl
      refine State.setQueue_schedulerOk hs (hs.1.map ?_ ?_ ?_ fun z hz => ?_) fun q b => queueHolds_map ?_ ?_
      · exact fun z _ => keep Entry.port (fun _ => rfl) z
      · exact fun z _ => keep Entry.cls (fun _ => rfl) z
      · exact fun z _ => keep Entry.suspended (fun _ => rfl) z
      · split
        · simp
        · exact hs.1.pairs_ne_zero hz
      · exact fun z _ => keep Entry.port (fun _ => rfl) z
      · exact fun z _ => keep Entry.suspended (fun _ => rfl) z
    · next hx =>
      have hst := (hs.stands p).unplaced (by simpa using hrun) (State.not_queueHolds_of_entryOf hx)
      split
      · exact hs
      · split
        · next hroom =>
          exact State.joinQueue_schedulerOk (x := routineEntry p) hs hroom hst (by simp [routineEntry]) rfl false rfl
        · exact ((SameAccount.refl s).schedEvent (.inr ⟨hst, rfl⟩)).schedulerOk hs

theorem autoProbeRequestAt_schedulerOk (p : Port) {s : State} (hs : s.schedulerOk) :
    (autoProbeRequestAt p s).schedulerOk := by
  unfold autoProbeRequestAt
  split
  · exact hs
  · exact State.takeAutoProbe_schedulerOk p (SameAccount.schedulerOk ((SameAccount.refl s).modPort rfl rfl) hs)

/-! ### The host's commands on the Scheduler -/

theorem pairs_or_ne_zero : ∀ a b : PairSet, a ≠ 0 → a ||| b ≠ 0 := by decide

/-- A request merged into the entry of its port leaves a queue, and the ports where they stood (R71). -/
theorem mergeEntry_spec {q : List Entry} {p : Port} {x : Entry} (pairs : PairSet) (cls : ReqClass) (hq : queueOk q)
    (hfind : q.find? (fun y => decide (y.port = p)) = some x) (hx : x.suspended = none) :
    queueOk (mergeEntry q p pairs cls)
      ∧ ∀ p' b, queueHolds (mergeEntry q p pairs cls) p' b ↔ queueHolds q p' b := by
  have hmem : x ∈ q := List.mem_of_find?_eq_some hfind
  have hport : x.port = p := by simpa using List.find?_some hfind
  have hpairs : x.pairs ||| pairs ≠ 0 := pairs_or_ne_zero _ _ (hq.pairs_ne_zero hmem)
  have hheld : queueHolds q p false := ⟨x, hmem, hport, by simp [hx]⟩
  have only {z : Entry} (hz : z ∈ q) (hzp : z.port = p) : z = x :=
    List.inj_on_of_nodup_map hq.2.1 hz hmem (hzp.trans hport.symm)
  unfold mergeEntry
  simp only [hfind]
  split
  · refine ⟨(hq.filter _).joinTail ⟨?_, ?_, hpairs, fun h => absurd hx h⟩, fun p' b => ?_⟩
    · exact (length_filter_lt hheld).trans_le hq.1
    · intro y hy
      rw [List.mem_filter] at hy
      simpa [hport] using hy.2
    · rw [queueHolds_joinTail, queueHolds_filter]
      by_cases hp : p' = p
      · subst hp
        simp only [hport, hx, Option.isSome_none, true_and, ne_eq, not_true_eq_false, false_and, or_false]
        exact ⟨fun h => h ▸ hheld, fun h => queueHolds_unique hq.2.1 hheld h⟩
      · simp [hport, hp, Ne.symm hp]
  · have keep {α : Type} (f : Entry → α) (hf : f { x with pairs := x.pairs ||| pairs } = f x) (z : Entry) (hz : z ∈ q) :
        f (if z.port = p then { x with pairs := x.pairs ||| pairs } else z) = f z := by
      split
      · next hzp => rw [hf, only hz hzp]
      · rfl
    refine ⟨hq.map (keep Entry.port rfl) (keep Entry.cls rfl) (keep Entry.suspended rfl) fun z hz => ?_,
      fun p' b => queueHolds_map (keep Entry.port rfl) (keep Entry.suspended rfl)⟩
    split
    · exact hpairs
    · exact hq.pairs_ne_zero hz

theorem State.withReply_schedulerOk {s : State} (r : Vector Byte 8) (hs : s.schedulerOk) : (s.withReply r).schedulerOk :=
  hs

theorem probePort_schedulerOk {s : State} (p : Port) (pairs : PairSet) (cls : ReqClass) (hpairs : pairs ≠ 0)
    (hs : s.schedulerOk) : (probePort p pairs cls s).schedulerOk := by
  have refuse (c : Cause) (q : Option Port) : (s.refuse c q).schedulerOk := hs
  unfold probePort
  dsimp only
  split
  · exact refuse _ _
  · split
    · exact refuse _ _
    · split
      · exact refuse _ _
      · next hrun =>
        simp only [Bool.or_eq_true, decide_eq_true_eq, not_or, Bool.not_eq_true] at hrun
        split
        · next x hx =>
          obtain ⟨hq, hh⟩ := mergeEntry_spec pairs cls hs.1 hx (hs.unsuspended hrun.1 hx)
          exact State.withReply_schedulerOk _ (State.setQueue_schedulerOk hs hq hh)
        · next hx =>
          have hst := (hs.stands p).unplaced hrun.1 (State.not_queueHolds_of_entryOf hx)
          split
          · exact refuse _ _
          · next hroom =>
            split <;> refine State.withReply_schedulerOk _ ?_
            · exact State.joinQueue_schedulerOk (x := { port := p, cls := cls, pairs := 0xF#4, suspended := none }) hs
                (by omega) hst (by simp) rfl true rfl
            · exact State.joinQueue_schedulerOk (x := { port := p, cls := cls, pairs := pairs, suspended := none }) hs
                (by omega) hst hpairs rfl true rfl

theorem cancelPort_schedulerOk {s : State} (p : Port) (hs : s.schedulerOk) : (cancelPort p s).schedulerOk := by
  unfold cancelPort
  refine State.withReply_schedulerOk _ ?_
  split
  · exact SameAccount.schedulerOk
      ((SameAccount.refl s).setSameRun (Engine.stop_sameRun (ending := .cancelled) (by simp) _)) hs
  · split
    · next x hx =>
      have hb := State.queueHolds_of_entryOf hx
      split
      · exact State.endSuspended_schedulerOk true .cancelled _ hs hb
      · next hsusp =>
        obtain ⟨-, -, -, hlent⟩ := (hs.stands p).of_queueHolds hb
        refine State.offerPlace_schedulerOk true (State.leaveQueue_schedulerOk hs hb true rfl ?_) ?_
        · exact hlent.not.2 (by simp [hsusp])
        · rw [State.schedEvent, State.queue_event]
          exact (length_filter_lt hb).trans_le hs.1.1
    · split
      · next hw => exact SameAccount.schedulerOk ((SameAccount.refl s).schedEvent (.inr ⟨by rw [hw]; rfl, rfl⟩)) hs
      · exact hs

/-! ### PORT-RESET (R23, R85, R150) -/

/-- A PORT-RESET that is made leaves its port on no list. -/
theorem State.completePortReset_schedulerOk {s : State} {p : Port} (aborted : Bool) (hq : queueOk s.queue)
    (ho : s.orderOk) (hs : ∀ q, q ≠ p → s.Stands q) (hentries : ∀ b, ¬ queueHolds s.queue p b)
    (hengines : ∀ e, (s.engine e).view p = none) (hbusy : ∀ q, q ≠ p → ∀ b, s.busy ≠ some (.portReset q b)) :
    (s.completePortReset p aborted).schedulerOk := by
  obtain ⟨honly, -, heq⟩ := State.portResetUpdate_leaves s p aborted
  have hengine (e : EngineId) : (s.completePortReset p aborted).engine e = s.engine e := rfl
  refine State.schedulerOk_of_port hs hq ho (fun q hqp => ?_) ?_
  · refine ⟨.inl ?_, ?_, fun _ => .rfl, fun _ => rfl, fun b => iff_of_false (fun h => nomatch h) (hbusy q hqp b),
      fun h => absurd h (hbusy q hqp true)⟩ <;> rw [State.port_completePortReset, honly.2 q hqp]
  · refine .apart ?_ ?_ hentries hengines fun b h => nomatch h
    · rw [State.port_completePortReset, heq]
      cases aborted <;> rfl
    · rw [State.port_completePortReset, heq]
      exact fun h => nomatch h

theorem takeEndingResetOf_schedulerOk (e : EngineId) {s : State} (hs : s.schedulerOk) :
    (takeEndingResetOf e s).schedulerOk := by
  rcases takeEndingResetOf_cases e s with h | ⟨r, he, -, h⟩ <;> rw [h]
  · exact hs
  · have hv : (s.engine e).view r.port = some (r.requested, true) := by
      rw [he]
      simp [Engine.view, Engine.run?, Engine.endsInReset]
    obtain ⟨-, -, noentry, others, -, reset, -⟩ := (hs.stands r.port).of_view hv
    have hbusy := reset.1 rfl
    refine State.completePortReset_schedulerOk true hs.1
      (State.orderOk_of_released hs.orderOk rfl (State.engine_releaseEngine s e)) (fun q hq => ?_) noentry (fun f => ?_)
      fun q hq b h => ?_
    · exact SameStanding.stands ((SameStanding.refl q s).releaseEngine (Engine.view_other hv hq)) (hs.stands q)
    · rw [State.engine_releaseEngine]
      split
      · rfl
      · next hf => exact others f hf
    · rw [State.busy_releaseEngine, hbusy] at h
      cases h
      exact hq rfl

/-- A port that is not WANTED stands as it stood when a place is offered to others. -/
theorem State.offerPlace_sameStanding {s : State} (host : Bool) {q : Port} (hq : (s.port q).sched.status ≠ .wanted) :
    SameStanding q s (s.offerPlace host)
      ∧ ((s.offerPlace host).port q).sched.status = (s.port q).sched.status := by
  obtain ⟨hsame, htc, hcases⟩ := State.offerPlaceTo_cases host allPorts s
  unfold State.offerPlace
  have hst : ((s.offerPlaceTo host allPorts).port q).sched.status = (s.port q).sched.status := by
    have passed {x : ProbeStatus} (h : (s.port q).sched.status.PassedOver x) : x = (s.port q).sched.status :=
      h.resolve_right fun k => hq k.1
    rcases hcases with ⟨-, hall⟩ | ⟨p, hp, -, -, hall⟩
    · exact passed (hall q)
    · exact passed (hall q fun h => hq (h ▸ hp))
  refine ⟨⟨.inl hst, by rw [htc], fun b => ?_, fun e => by simp only [State.engine, hsame.engines],
    fun b => by rw [hsame.busy], fun _ => by rw [hsame.bind]; exact id⟩, hst⟩
  rcases hcases with ⟨hqueue, -⟩ | ⟨p, hp, hqueue, -⟩ <;> rw [hqueue]
  rw [queueHolds_joinTail]
  exact or_iff_right fun h => hq (h.1 ▸ hp)

theorem PortState.clearWanted_ne (ps : PortState) : ps.clearWanted.sched.status ≠ .wanted := by
  unfold PortState.clearWanted
  split
  · simp
  · next h => exact h

theorem PortState.clearWanted_tc (ps : PortState) : ps.clearWanted.tc = ps.tc := by
  unfold PortState.clearWanted
  split <;> rfl

theorem PortState.clearWanted_samePlace (ps : PortState) : ps.sched.status.SamePlace ps.clearWanted.sched.status := by
  unfold PortState.clearWanted
  split
  · next h => exact .inr ⟨by rw [h]; rfl, rfl⟩
  · exact .inl rfl

theorem SameAccount.clearWanted (s : State) (p : Port) : SameAccount s (s.modPort p PortState.clearWanted) :=
  .of_onlyPort (OnlyPort.modPort s p _) (by rw [State.port_modPort_self]; exact PortState.clearWanted_samePlace _)
    (by rw [State.port_modPort_self, PortState.clearWanted_tc])

end Sys2Proof.Machine

end

section

namespace Sys2Proof.Machine

/-! ### A PORT-RESET begins (R85) -/

theorem Engine.run?_resetRun (x : Engine) : x.resetRun.run? ≠ none ↔ x.run? ≠ none := by
  cases x <;> simp [Engine.resetRun, Engine.stop, Engine.run?]

/-- The engine that held the run of a port now holds its ending RESET. -/
theorem Engine.view_resetRun {x : Engine} {p : Port} {v : PairSet × Bool} (h : x.view p = some v) :
    x.resetRun.view p = some (v.1, true) := by
  obtain ⟨r, hr, hp, rfl⟩ := Engine.view_some h
  cases x <;> simp_all [Engine.view, Engine.run?, Engine.resetRun, Engine.stop, Engine.endsInReset]

/-- What is so once the Scheduler has done its part for a port that no engine holds. -/
structure State.ResetScheduled (s u : State) (p : Port) : Prop where
  queue : queueOk u.queue
  order : u.orderOk
  others : ∀ q, q ≠ p → u.Stands q
  noEntry : ∀ b, ¬ queueHolds u.queue p b
  noEngine : ∀ e, (u.engine e).view p = none
  busy : u.busy = s.busy
  bind : u.bind = s.bind
  status : (u.port p).sched.status = (s.port p).clearWanted.sched.status
  mode : (u.port p).tc.f.mode = .lent ↔ (s.port p).tc.f.mode = .lent

theorem State.resetScheduling_scheduled {s : State} {p : Port} (hs : s.schedulerOk) (he : s.engineHolding p = none) :
    s.ResetScheduled (s.resetScheduling p) p := by
  have hengines (e : EngineId) : (s.engine e).view p = none := State.view_of_no_engineHolding he e
  unfold State.resetScheduling
  simp only [he]
  split
  · next x hx =>
    have hheld := State.queueHolds_of_entryOf hx
    have hclear : ((s.modPort p PortState.clearWanted).dropEntry p).port p = (s.port p).clearWanted :=
      State.port_modPort_self s p _
    have hsame {q : Port} (hq : q ≠ p) : SameStanding q s ((s.modPort p PortState.clearWanted).dropEntry p) :=
      ((SameStanding.refl q s).modPort hq).dropEntry hq
    have horder : ((s.modPort p PortState.clearWanted).dropEntry p).orderOk :=
      State.orderOk_of_eq hs.orderOk rfl fun _ => .rfl
    have hne : (((s.modPort p PortState.clearWanted).dropEntry p).port p).sched.status ≠ .wanted := by
      rw [hclear]; exact PortState.clearWanted_ne _
    obtain ⟨hqueue, hstands⟩ := State.offerPlace_stands (s := (s.modPort p PortState.clearWanted).dropEntry p)
      x.suspended.isNone (hs.1.filter _) ((length_filter_lt hheld).trans_le hs.1.1) fun q hq =>
        (hsame fun (h : q = p) => hne (by rw [h] at hq; exact hq)).stands (hs.stands q)
    obtain ⟨hp, hstatus⟩ := State.offerPlace_sameStanding x.suspended.isNone hne
    obtain ⟨hrest, -⟩ := State.offerPlaceTo_cases x.suspended.isNone allPorts
      ((s.modPort p PortState.clearWanted).dropEntry p)
    exact {
      queue := hqueue
      order := State.orderOk_of_eq horder hrest.order fun e => by
        simp only [State.engine, State.offerPlace, hrest.engines]
      others := fun q hq => hstands q ((hsame hq).stands (hs.stands q))
      noEntry := fun b => (hp.queue b).not.2 (queueHolds_filter_self b)
      noEngine := fun e => (hp.engines e).trans (hengines e)
      busy := hrest.busy
      bind := hrest.bind
      status := by rw [hstatus, hclear]
      mode := by rw [hp.mode, hclear, PortState.clearWanted_tc] }
  · next hx =>
    have hsame : SameAccount s (s.modPort p PortState.clearWanted) := SameAccount.clearWanted s p
    have hok := hsame.schedulerOk hs
    exact {
      queue := hok.1
      order := hok.orderOk
      others := fun q _ => hok.stands q
      noEntry := State.not_queueHolds_of_entryOf hx
      noEngine := hengines
      busy := rfl
      bind := rfl
      status := by rw [State.port_modPort_self]
      mode := by rw [State.port_modPort_self, PortState.clearWanted_tc] }

/-- The PORT-RESET of a port that no engine holds is made at once. -/
theorem State.ResetScheduled.completes {s u : State} {p : Port} (h : s.ResetScheduled u p) (hb : s.busy = none)
    (aborted : Bool) : (u.completePortReset p aborted).schedulerOk :=
  State.completePortReset_schedulerOk aborted h.queue h.order h.others h.noEntry h.noEngine fun q _ b k => by
    rw [h.busy, hb] at k
    cases k

/-- The operation under way becomes the PORT-RESET of a port; the others stand as they stood. -/
theorem SameStanding.portResetBegins {s : State} {p q : Port} (b : Bool) (hb : s.busy = none) (hq : q ≠ p) :
    SameStanding q s { s.modPort p PortState.discardWaiting with busy := some (.portReset p b) } := by
  have hbusy (c : Bool) : (some (Operation.portReset p b) = some (.portReset q c)) ↔ s.busy = some (.portReset q c) := by
    rw [hb]
    simp [Ne.symm hq]
  have hmod := (SameStanding.refl q s).modPort (f := PortState.discardWaiting) hq
  exact ⟨hmod.status, hmod.mode, hmod.queue, hmod.engines, hbusy, hmod.bind⟩

/-- The PORT-RESET of a port whose run was SUSPENDED waits behind a bind. -/
theorem State.ResetScheduled.waits {s u : State} {p : Port} (h : s.ResetScheduled u p) (hb : s.busy = none)
    (hbind : s.bind ≠ none) (hstatus : (s.port p).sched.status = .suspended) (hmode : (s.port p).tc.f.mode = .lent) :
    State.schedulerOk { u.modPort p PortState.discardWaiting with busy := some (.portReset p true) } := by
  have hport (q : Port) : State.port { u.modPort p PortState.discardWaiting with busy := some (.portReset p true) } q
      = (u.modPort p PortState.discardWaiting).port q := rfl
  refine State.schedulerOk_of_port h.others h.queue (State.orderOk_of_eq h.order rfl fun _ => .rfl)
    (fun q hq => SameStanding.portResetBegins true (h.busy.trans hb) hq) ?_
  refine .resetWaits ?_ ?_ h.noEntry h.noEngine rfl (h.bind ▸ hbind)
  · rw [hport, State.port_modPort_self]
    refine h.status.trans ?_
    unfold PortState.clearWanted
    rw [if_neg (by simp [hstatus]), hstatus]
  · rw [hport, State.port_modPort_self]
    exact h.mode.2 hmode

/-- The PORT-RESET of a port on an engine waits for the ending RESET of its run. -/
theorem State.resetOnEngine_schedulerOk {s : State} {p : Port} {e : EngineId} {v : PairSet × Bool} (hs : s.schedulerOk)
    (hb : s.busy = none) (hv : (s.engine e).view p = some v) :
    State.schedulerOk
      { ((s.modPort p PortState.clearWanted).setEngine e (s.engine e).resetRun).modPort p PortState.discardWaiting with
        busy := some (.portReset p false) } := by
  obtain ⟨status, mode, noEntry, others, pairs, -⟩ := (hs.stands p).of_view hv
  have hview : (s.engine e).resetRun.view p = some (v.1, true) := Engine.view_resetRun hv
  have hengine (f : EngineId) :
      State.engine { ((s.modPort p PortState.clearWanted).setEngine e (s.engine e).resetRun).modPort p
        PortState.discardWaiting with busy := some (.portReset p false) } f
        = if f = e then (s.engine e).resetRun else s.engine f := State.engine_setEngine _ e f _
  have hport : State.port { ((s.modPort p PortState.clearWanted).setEngine e (s.engine e).resetRun).modPort p
        PortState.discardWaiting with busy := some (.portReset p false) } p
        = (s.port p).discardWaiting := by
    have hclear : (s.port p).clearWanted = s.port p := by
      unfold PortState.clearWanted
      rw [if_neg (by simp [status])]
    refine (State.port_modPort_self _ p _).trans (congrArg _ ?_)
    exact (State.port_modPort_self s p _).trans hclear
  refine State.schedulerOk_of_port (p := p) (fun q _ => hs.stands q) hs.1
    (State.orderOk_of_eq hs.orderOk rfl fun f => ?_) (fun q hq => ?_) ?_
  · rw [hengine]
    split
    · next hf => rw [hf]; exact Engine.run?_resetRun _
    · rfl
  · refine SameStanding.trans ?_ (SameStanding.portResetBegins (s := (s.modPort p PortState.clearWanted).setEngine e
      (s.engine e).resetRun) false hb hq)
    refine ((SameStanding.refl q s).modPort hq).setEngine ?_
    exact (Engine.view_other hview hq).trans (Engine.view_other hv hq).symm
  · refine .running e (v.1, true) ?_ ?_ noEntry ?_ (fun f hf => ?_) pairs (by simp) (by simp)
    · rw [hport]; exact status
    · rw [hport]; exact mode
    · rw [hengine, if_pos rfl]; exact hview
    · rw [hengine, if_neg hf]; exact others f hf

theorem portResetPort_schedulerOk {s : State} (p : Port) (hb : s.busy = none) (hs : s.schedulerOk) :
    (portResetPort p s).schedulerOk := by
  unfold portResetPort State.runStanding
  cases he : s.engineHolding p with
  | some e =>
    obtain ⟨v, hv⟩ := State.view_of_engineHolding he
    simp only [State.resetScheduling, he, Option.isSome_some, if_true]
    exact State.resetOnEngine_schedulerOk hs hb hv
  | none =>
    have hu := State.resetScheduling_scheduled hs he
    simp only [Option.isSome_none, Bool.false_eq_true, if_false]
    cases hx : s.entryOf p with
    | none =>
      dsimp only
      rw [State.completePortReset_discard]
      exact hu.completes hb false
    | some x =>
      obtain ⟨-, -, hstatus, hlent⟩ := (hs.stands p).of_queueHolds (State.queueHolds_of_entryOf hx)
      cases hsusp : x.suspended with
      | none =>
        simp only [hsusp, Option.isSome_none, Bool.false_eq_true, if_false]
        rw [State.completePortReset_discard]
        exact hu.completes hb false
      | some ctx =>
        simp only [hsusp, Option.isSome_some, if_true] at hstatus hlent ⊢
        split
        · next hbound =>
          have hbind : s.bind ≠ none := by simpa [State.bound, Option.isSome_iff_ne_none] using hbound
          exact hu.waits hb hbind hstatus (hlent.2 trivial)
        · rw [State.completePortReset_discard]
          exact hu.completes hb true

end Sys2Proof.Machine

end

section

namespace Sys2Proof.Machine

/-! ### The end of a bind (R21, R85) -/

/-- The state at the end of a bind, the waiting updates applied. -/
def State.bindEnded (s : State) : State :=
  State.applyAllWaiting { s with bind := none, cursor := s.saved.getD s.cursor, saved := none }

theorem State.endBind_eq (s : State) : s.endBind = s.bindEnded.finishSuspendedReset := rfl

theorem State.bindEnded_outside (s : State) :
    SameOutsidePorts { s with bind := none, cursor := s.saved.getD s.cursor, saved := none } s.bindEnded :=
  State.applyAllWaiting_outside _

theorem State.port_bindEnded (s : State) (p : Port) :
    s.bindEnded.port p = (s.port p).applyWaiting s.settings := State.applyAllWaiting_port _ p

@[simp] theorem State.engine_bindEnded (s : State) (e : EngineId) : s.bindEnded.engine e = s.engine e := by
  simp only [State.engine, s.bindEnded_outside.engines]

@[simp] theorem State.busy_bindEnded (s : State) : s.bindEnded.busy = s.busy := s.bindEnded_outside.busy

@[simp] theorem State.queue_bindEnded (s : State) : s.bindEnded.queue = s.queue := s.bindEnded_outside.queue

/-- A port with no PORT-RESET waiting stands as it stood when a bind ends. -/
theorem SameStanding.bindEnded {s : State} {q : Port} (hb : s.busy ≠ some (.portReset q true)) :
    SameStanding q s s.bindEnded where
  status := by rw [State.port_bindEnded, PortState.applyWaiting_rest]; exact .inl rfl
  mode := by rw [State.port_bindEnded, PortState.applyWaiting_rest]; rfl
  queue b := by rw [State.queue_bindEnded]
  engines e := by rw [State.engine_bindEnded]
  busy b := by rw [State.busy_bindEnded]
  bind h := absurd h hb

theorem State.orderOk_bindEnded {s : State} (hs : s.orderOk) : s.bindEnded.orderOk :=
  State.orderOk_of_eq hs s.bindEnded_outside.order fun e => by rw [State.engine_bindEnded]

theorem State.endBind_schedulerOk {s : State} (hs : s.schedulerOk) : s.endBind.schedulerOk := by
  have hqueue : queueOk s.bindEnded.queue := by
    rw [State.queue_bindEnded]
    exact hs.1
  have horder := State.orderOk_bindEnded hs.orderOk
  rw [State.endBind_eq]
  unfold State.finishSuspendedReset
  split
  · next p hb =>
    rw [State.busy_bindEnded] at hb
    have other {q : Port} (hq : q ≠ p) (b : Bool) : s.busy ≠ some (.portReset q b) := by
      rw [hb]
      simp [Ne.symm hq]
    cases hs.stands p with
    | resetWaits _ _ noEntry noEngine _ _ =>
      refine State.completePortReset_schedulerOk true hqueue horder
        (fun q hq => (SameStanding.bindEnded (other hq true)).stands (hs.stands q)) (by simpa using noEntry)
        (by simpa using noEngine) fun q hq b => ?_
      rw [State.busy_bindEnded]
      exact other hq b
    | apart _ _ _ _ busy | queued _ _ _ _ _ busy | suspended _ _ _ _ _ busy => exact absurd hb (busy true)
    | running _ _ _ _ _ _ _ _ _ busy => exact absurd hb busy
  · next hb =>
    rw [State.busy_bindEnded] at hb
    exact State.schedulerOk_of_stands hqueue horder fun q => (SameStanding.bindEnded (hb q)).stands (hs.stands q)

/-! ### A device reset (R159) -/

theorem State.reset_engine (e : EngineId) : State.reset.engine e = .idle := by
  show (Vector.replicate 4 Engine.idle)[e] = _
  simp

theorem queueOk_nil : queueOk [] := by simp [queueOk, routinePart]

/-- With the queue empty, the engines idle and the ports at their reset values, the account is in order. -/
theorem State.schedulerOk_of_reset {t : State} (hports : t.ports = State.reset.ports)
    (hqueue : t.queue = []) (hengines : t.engines = State.reset.engines) (horder : t.order = [])
    (hbusy : ∀ p b, t.busy ≠ some (.portReset p b)) : t.schedulerOk := by
  have hengine (e : EngineId) : t.engine e = .idle := by
    rw [← State.reset_engine e]
    simp only [State.engine, hengines]
  have hport (p : Port) : t.port p = .reset := (State.port_of_ports hports p).trans (State.reset_port p)
  have hq : queueOk t.queue := by rw [hqueue]; exact queueOk_nil
  refine State.schedulerOk_of_stands hq ⟨by simp [horder], fun e => by simp [horder, hengine, Engine.run?]⟩ fun p => ?_
  refine .apart (by rw [hport]; rfl) (by rw [hport]; exact fun h => nomatch h) (fun b => ?_) (fun e => ?_) (hbusy p)
  · rw [hqueue]
    simp [queueHolds]
  · rw [hengine, Engine.view_idle]

theorem State.beginDeviceReset_schedulerOk (s : State) : s.beginDeviceReset.schedulerOk :=
  State.schedulerOk_of_reset rfl rfl rfl rfl fun _ _ h => nomatch h

theorem State.endDeviceReset_schedulerOk (s : State) : s.endDeviceReset.schedulerOk :=
  State.schedulerOk_of_reset rfl rfl rfl rfl fun _ _ h => nomatch h

/-! ### Every command -/

theorem hostKeeps_schedulerOk : HostKeeps State.schedulerOk where
  quiet h := (SameAccount.of_hostQuiet h).schedulerOk
  setting _ := ((SameAccount.refl _).elsewhere).schedulerOk
  template _ := ((SameAccount.refl _).elsewhere).schedulerOk
  store _ := ((SameAccount.refl _).commit).schedulerOk
  deviceReset _ := State.beginDeviceReset_schedulerOk _
  endBind := State.endBind_schedulerOk
  machine h := ((SameAccount.refl _).tcEvent h.lent).schedulerOk
  portReset p := portResetPort_schedulerOk p
  probe p pairs cls _ := probePort_schedulerOk p pairs cls
  cancel p _ := cancelPort_schedulerOk p

theorem bindExpiryOf_schedulerOk {s : State} (hs : s.schedulerOk) : (bindExpiryOf s).schedulerOk := by
  unfold bindExpiryOf
  split
  · split
    · exact State.endBind_schedulerOk ((SameAccount.refl s).elsewhere.schedulerOk hs)
    · exact hs
  · exact hs

theorem resetnFalls_schedulerOk {s : State} (hs : s.schedulerOk) : (resetnFalls s).schedulerOk := by
  unfold resetnFalls
  split
  · exact State.schedulerOk_of_reset rfl rfl rfl rfl fun _ _ h => nomatch h
  · exact hs

theorem deviceResetCompletes_schedulerOk {s : State} (hs : s.schedulerOk) : (deviceResetCompletes s).schedulerOk := by
  unfold deviceResetCompletes
  split
  · exact State.endDeviceReset_schedulerOk s
  · exact hs

/-- The commands that are not the host's. -/
theorem exec_schedulerOk_of_not_host {c : Instr} {s t : State} (hhost : isHost c = false) (he : exec c s = .next t)
    (hs : s.schedulerOk) : t.schedulerOk := by
  have same {u : State} (h : SameAccount s u) : u.schedulerOk := h.schedulerOk hs
  cases c <;> simp only [isHost, Bool.true_eq_false] at hhost <;> cases he
  case frameReceive => exact same (.receiveFrame _ _)
  case silenceExpiry => exact same (.silenceExpiryOf _)
  case idleFrameSend => exact same (.idleFrameSendOf _)
  case transmitMessage => exact same (.transmitMessageOf _)
  case takePower => exact same (.takePowerAt _)
  case takeDetached => exact same (.takeDetachedAt _)
  case takeEnergy => exact same (.takeEnergyAt _)
  case takeLost => exact same (.takeLostAt _)
  case takeResultPass => exact same (.takeResultPassAt _)
  case takeResultFail => exact same (.takeResultFailAt _)
  case takePage => exact same (.takePageAt _)
  case listenExpiry => exact same (.listenExpiryAt _)
  case trainExpiry => exact same (.trainExpiryAt _)
  case takeWithdraw => exact same (.takeWithdrawAt _)
  case guardFiring => exact same (.guardFiringAt _)
  case waitExpiry => exact same (.waitExpiryOf _)
  case sweepCompletion => exact same (.sweepCompletionOf _ _)
  case scanExamineRecord => exact same (.of_hostQuiet (scanExamine_hostQuiet s))
  case searchComplete => exact same (.of_hostQuiet (searchCompleteOf_hostQuiet s))
  case resetnRelease => exact same (SameAccount.refl s).elsewhere
  case autoProbeRequest => exact autoProbeRequestAt_schedulerOk _ hs
  case powerNotice => exact powerNoticeAt_schedulerOk _ hs
  case dispatch => exact dispatchHead_schedulerOk hs
  case resumption => exact resumeHead_schedulerOk hs
  case preemption => exact preemptForHead_schedulerOk hs
  case takeEndingComplete => exact takeEndingCompleteOf_schedulerOk _ hs
  case takeEndingAborted => exact takeEndingAbortedOf_schedulerOk _ hs
  case takeEndingReset => exact takeEndingResetOf_schedulerOk _ hs
  case bindExpiry => exact bindExpiryOf_schedulerOk hs
  case resetnAssert => exact resetnFalls_schedulerOk hs
  case powerUp => exact State.beginDeviceReset_schedulerOk s
  case deviceResetComplete => exact deviceResetCompletes_schedulerOk hs

theorem exec_schedulerOk {c : Instr} {s t : State} (he : exec c s = .next t) (hs : s.schedulerOk) : t.schedulerOk := by
  cases hhost : isHost c with
  | true => exact hostKeeps_schedulerOk.exec hhost he hs
  | false => exact exec_schedulerOk_of_not_host hhost he hs

/-- Settles O57, by where each port stands: every command keeps it, or moves one port from one standing to another. -/
theorem everyStepKeepsTheSchedulersAccount : Obligations.EveryStepKeepsTheSchedulersAccount := by
  intro s t hs h
  refine step_keeps exec_schedulerOk (fun {s} hs => ?_) (fun {s} l hs => ?_) h hs
  · exact SameAccount.tick.schedulerOk hs
  · exact (SameAccount.refl s).elsewhere.schedulerOk hs

end Sys2Proof.Machine

end

section

namespace Sys2Proof.Machine

/-! ## TAKE-CHANGE (R15, R16) -/

theorem State.firstChanged_eq_some {s : State} {p : Port} (h : (s.port p).inChangeSet = true)
    (hl : ∀ q, q < p → (s.port q).inChangeSet = false) : s.firstChanged = some p :=
  find_lowest (P := fun q => (s.port q).inChangeSet) h hl

theorem State.firstChanged_eq_none {s : State} (h : ∀ q, (s.port q).inChangeSet = false) : s.firstChanged = none :=
  find_no_port (P := fun q => (s.port q).inChangeSet) h

/-- A TAKE-CHANGE that the part takes is carried out and counted. -/
theorem exec_takeChange {s : State} (h : s.takesHost) (extra : List Byte) :
    exec (.takeChange extra) s = .next (takeChangeCommand { s with transfer := none }).countAccess := by
  rw [exec_command (bytes := 0x08#8 :: extra) rfl, commandWrite_taken h]
  rfl

theorem replyPort_some (p : Port) (g : BitVec 16) :
    replyPort (some (p, g)) = #v[0x00#8, BitVec.ofNat 8 p.val, g.setWidth 8, (g >>> 8).setWidth 8, 0, 0, 0, 0] := by
  rw [replyPort, lowByte_eq, highByte_eq]
  rfl

/-- Settles O24: the search of the change set finds its lowest port. -/
theorem takeChangeReportsTheLowestChangedPort : Obligations.TakeChangeReportsTheLowestChangedPort := by
  intro extra s h
  dsimp only
  rw [exec_takeChange h]
  unfold takeChangeCommand
  refine ⟨fun p hp hl => ?_, fun hnone => ?_⟩
  · rw [State.firstChanged_eq_some (s := { s with transfer := none }) hp hl]
    dsimp only
    rw [replyPort_some]
    rfl
  · rw [State.firstChanged_eq_none (s := { s with transfer := none }) hnone]
    rfl

/-! ## PORT-RESET (R23, R85, R150) -/

/-- A PORT-RESET that the part takes on page 0 is carried out and counted. -/
theorem exec_portReset {s : State} (h : s.takesHost) (hpage : s.page = false) {b : Byte} {p : Port}
    (hb : b.toNat = p.val) (extra : List Byte) :
    exec (.portReset (b :: extra)) s = .next (portResetPort p { s with transfer := none }).countAccess := by
  have hdecode : decodeCommand s.page (0x14#8 :: b :: extra) = .taken (.portReset b) := by
    rw [hpage]
    rfl
  have hport : onPort b portResetPort { s with transfer := none } = portResetPort p { s with transfer := none } := by
    unfold onPort
    rw [portOf?_eq_of_val hb]
  rw [exec_command (bytes := 0x14#8 :: b :: extra) rfl, commandWrite_taken h, hdecode, ← hport]
  rfl

/-- A PORT-RESET made with no operation under way leaves the reset update and its reply. -/
theorem State.completePortReset_eq {u : State} (hu : u.busy = none) (p : Port) (aborted : Bool) :
    u.completePortReset p aborted = (u.portResetUpdate p aborted).withReply replyAccepted := by
  have h : ((u.portResetUpdate p aborted).withReply replyAccepted).busy = none :=
    (State.portResetUpdate_leaves u p aborted).1.1.busy.trans hu
  unfold State.completePortReset
  rw [← h]

/-- The accepted PORT-RESET of a port that is on no list. -/
theorem portResetPort_of_unlisted {p : Port} {s : State} (hb : s.busy = none) (he : s.engineHolding p = none)
    (hx : s.entryOf p = none) :
    portResetPort p s = ((s.modPort p PortState.clearWanted).portResetUpdate p false).withReply replyAccepted := by
  simp only [portResetPort, State.runStanding, State.resetScheduling, he, hx, Option.isSome_none, Bool.false_eq_true,
    if_false]
  rw [State.completePortReset_discard, State.completePortReset_eq (u := s.modPort p PortState.clearWanted) hb]

/-- The queue without the port's entry, its place offered. -/
def State.entryReset (s : State) (p : Port) (host : Bool) : State :=
  ((s.modPort p PortState.clearWanted).dropEntry p).offerPlace host

theorem State.resetScheduling_of_entry {p : Port} {s : State} {x : Entry} (he : s.engineHolding p = none)
    (hx : s.entryOf p = some x) : s.resetScheduling p = s.entryReset p x.suspended.isNone := by
  simp only [State.resetScheduling, he, hx, State.entryReset]

theorem State.busy_entryReset (s : State) (p : Port) (host : Bool) : (s.entryReset p host).busy = s.busy :=
  (State.offerPlaceTo_cases host allPorts _).1.busy

/-- The accepted PORT-RESET of a port that is queued. -/
theorem portResetPort_of_queued {p : Port} {s : State} {x : Entry} (hb : s.busy = none)
    (he : s.engineHolding p = none) (hx : s.entryOf p = some x) (hsusp : x.suspended = none) :
    portResetPort p s = ((s.entryReset p true).portResetUpdate p false).withReply replyAccepted := by
  simp only [portResetPort, State.runStanding, State.resetScheduling_of_entry he hx, he, hx, hsusp, Option.isSome_none,
    Option.isNone_none, Bool.false_eq_true, if_false]
  rw [State.completePortReset_discard, State.completePortReset_eq ((State.busy_entryReset s p true).trans hb)]

/-- The accepted PORT-RESET of a port whose run is suspended. -/
theorem portResetPort_of_suspended {p : Port} {s : State} {x : Entry} {ctx : Suspended} (hb : s.busy = none)
    (he : s.engineHolding p = none) (hx : s.entryOf p = some x) (hsusp : x.suspended = some ctx) :
    portResetPort p s =
      if s.bound then
        { (s.entryReset p false).modPort p PortState.discardWaiting with busy := some (.portReset p true) }
      else ((s.entryReset p false).portResetUpdate p true).withReply replyAccepted := by
  simp only [portResetPort, State.runStanding, State.resetScheduling_of_entry he hx, he, hx, hsusp, Option.isSome_none,
    Option.isSome_some, Option.isNone_some, Bool.false_eq_true, if_false, if_true]
  rw [State.completePortReset_discard, State.completePortReset_eq ((State.busy_entryReset s p false).trans hb)]

theorem Engine.resetRun_of_run {x : Engine} {r : Run} (h : x.run? = some r) :
    x.resetRun = .closing { r with completed := [] } .reset := by
  cases x <;> simp_all [Engine.run?, Engine.resetRun, Engine.stop]

/-- The accepted PORT-RESET of a port on an engine. -/
theorem portResetPort_of_held {p : Port} {s : State} {e : EngineId} {r : Run} (he : s.engineHolding p = some e)
    (hr : (s.engine e).run? = some r) :
    portResetPort p s =
      { (((s.modPort p PortState.clearWanted).modPort p PortState.discardWaiting).setEngine e
          (.closing { r with completed := [] } .reset)) with busy := some (.portReset p false) } := by
  simp only [portResetPort, State.runStanding, State.resetScheduling, he, Option.isSome_some, if_true,
    Engine.resetRun_of_run hr]
  rfl

/-- The taking of an ending RESET, bound or not (R85). -/
theorem takeEndingResetOf_eq {e : EngineId} {s : State} {r : Run} (h : s.engine e = .closing r .reset) :
    takeEndingResetOf e s = if s.bound then s else (s.releaseEngine e).completePortReset r.port true := by
  simp only [takeEndingResetOf, h]

theorem State.bound_iff {s : State} : s.bound = true ↔ s.bind ≠ none := by
  simp [State.bound, Option.isSome_iff_ne_none]

/-- Settles O49, by where the port stands when the command is taken. -/
theorem portResetResetsTheAccount : Obligations.PortResetResetsTheAccount := by
  intro p s
  refine ⟨fun b extra h hpage hb => ?_, fun e r he hr => ?_⟩
  · have hbusy : State.busy { s with transfer := none } = none := h.1
    rw [exec_portReset h hpage hb]
    refine ⟨fun he hx => ?_, fun x he hx hsusp => ?_, fun x ctx he hx hsusp => ⟨fun hbind => ?_, fun hbind => ?_⟩,
      fun e r he hr => ?_⟩
    · refine ⟨_, State.portResetUpdate_leaves _ _ _, ?_⟩
      rw [portResetPort_of_unlisted hbusy he hx]
      rfl
    · refine ⟨_, State.portResetUpdate_leaves _ _ _, ?_⟩
      rw [portResetPort_of_queued hbusy he hx hsusp]
      rfl
    · refine ⟨_, State.portResetUpdate_leaves _ _ _, ?_⟩
      have hbound : ¬ State.bound { s with transfer := none } = true := State.bound_iff.not.2 (not_not.2 hbind)
      rw [portResetPort_of_suspended hbusy he hx hsusp, if_neg hbound]
      rfl
    · have hbound : State.bound { s with transfer := none } = true := State.bound_iff.2 hbind
      rw [portResetPort_of_suspended hbusy he hx hsusp, if_pos hbound]
      rfl
    · rw [portResetPort_of_held (s := { s with transfer := none }) he hr]
      rfl
  · subst hr
    have hexec : exec (.takeEndingReset e) s = .next (takeEndingResetOf e s) := rfl
    rw [hexec, takeEndingResetOf_eq he]
    refine ⟨fun hbind => ?_, fun hbind => ⟨_, State.portResetUpdate_leaves _ _ _, ?_⟩⟩
    · rw [if_pos (State.bound_iff.2 hbind)]
    · rw [if_neg (State.bound_iff.not.2 (not_not.2 hbind))]
      rfl

end Sys2Proof.Machine

end

section

namespace Sys2Proof.Machine

/-! ## The inbox (R40, R44) -/

/-- The slots in the order of R40: each is next when it is full and those before it are empty. -/
theorem Inbox.next?_eq_some (box : Inbox) :
    (box.next? = some .power ↔ box.power ≠ none)
      ∧ (box.next? = some .detached ↔ box.power = none ∧ box.detached = true)
      ∧ (box.next? = some .energy ↔ box.power = none ∧ box.detached = false ∧ box.energy ≠ none)
      ∧ (box.next? = some .lost ↔ box.power = none ∧ box.detached = false ∧ box.energy = none ∧ box.lost = true)
      ∧ (box.next? = some .result ↔
        box.power = none ∧ box.detached = false ∧ box.energy = none ∧ box.lost = false ∧ box.result ≠ none)
      ∧ (box.next? = some .page ↔
        box.power = none ∧ box.detached = false ∧ box.energy = none ∧ box.lost = false ∧ box.result = none
          ∧ box.page ≠ none) := by
  unfold Inbox.next?
  split_ifs <;> simp_all [Option.isSome_iff_ne_none]

theorem State.takesSlot_iff (s : State) (p : Port) (slot : Slot) :
    s.takesSlot p slot = true ↔
      (s.busy ≠ some .deviceReset ∧ (s.port p).tcWaiting = []) ∧ (s.port p).inbox.next? = some slot := by
  simp [State.takesSlot, State.inReset]

/-- A message that is not next is not taken. -/
theorem exec_untaken {p : Port} {s : State} :
    (s.takesSlot p .power = false → exec (.takePower p) s = .next s)
      ∧ (s.takesSlot p .detached = false → exec (.takeDetached p) s = .next s)
      ∧ (s.takesSlot p .energy = false → exec (.takeEnergy p) s = .next s)
      ∧ (s.takesSlot p .lost = false → exec (.takeLost p) s = .next s)
      ∧ (s.takesSlot p .result = false → exec (.takeResultPass p) s = .next s)
      ∧ (s.takesSlot p .result = false → exec (.takeResultFail p) s = .next s)
      ∧ (s.takesSlot p .page = false → exec (.takePage p) s = .next s) := by
  have skip {slot : Slot} {x : State} (h : s.takesSlot p slot = false) :
      Host.Outcome.next (if s.takesSlot p slot then x else s) = (.next s : Host.Outcome State Fault Refusal) := by
    rw [h]
    rfl
  exact ⟨skip, skip, skip, skip, skip, skip, skip⟩

/-- No expiry of a port is taken while an update of its machine waits (R19). -/
theorem State.takesExpiry_of_waiting {s : State} {p : Port} (h : (s.port p).tcWaiting ≠ []) (t : Timer) :
    s.takesExpiry p t = false := by
  simp [State.takesExpiry, h]

theorem exec_expiry_of_waiting {s : State} {p : Port} (h : (s.port p).tcWaiting ≠ []) :
    exec (.listenExpiry p) s = .next s ∧ exec (.trainExpiry p) s = .next s := by
  have hlisten : exec (.listenExpiry p) s = .next (listenExpiryAt p s) := rfl
  have htrain : exec (.trainExpiry p) s = .next (trainExpiryAt p s) := rfl
  rw [hlisten, htrain]
  simp [listenExpiryAt, trainExpiryAt, State.takesExpiry_of_waiting h]

/-! ### Messages that are discarded -/

theorem eventUpdate_of_same (ps : PortState) : eventUpdate ps (.of ps.tc []) ps.sched = Update.none := by
  simp [eventUpdate, TcEffect.of, mergeFields, Update.none]

theorem handedPort_of_same (s : State) (p : Port) :
    handedPort s p (.of (s.port p).tc []) (s.port p).sched = s.port p := by
  simp [handedPort, eventPort, TcEffect.of, flag]

/-- An event that leaves the machine as it is and hands nothing changes nothing. -/
theorem State.tcEvent_of_same (s : State) (host : Bool) (p : Port) : s.tcEvent host p (.of (s.port p).tc []) = s := by
  rw [State.tcEvent, State.event_eq_submit, eventUpdate_of_same, State.submit_none, handedPort_of_same, State.setPort_port]

/-- So after a slot has been emptied: the machine does not see the inbox. -/
theorem State.tcEvent_setInbox_of_same {s : State} {p : Port} {box : Inbox} {out : TcEffect}
    (h : out = .of (s.port p).tc []) : (s.setInbox p box).tcEvent false p out = s.setInbox p box := by
  have htc : ((s.setInbox p box).port p).tc = (s.port p).tc := by
    rw [State.setInbox, State.port_modPort_self]
  rw [h, ← htc, State.tcEvent_of_same]

namespace PortMachine

variable {m : PortMachine}

theorem takePage_discarded (h : m.f.mode ∈ [Mode.parked, .dark, .held, .lent]) (c : TcContext) (rates : RateSet) :
    m.takePage c rates = .of m [] := by
  simp only [List.mem_cons, List.not_mem_nil, or_false] at h
  rcases h with h | h | h | h <;> simp only [takePage, h]

theorem failAttempt_discarded (h : m.f.mode ∈ [Mode.parked, .dark, .listen, .up, .held, .lent]) (c : TcContext) :
    m.failAttempt c = .of m [] := by
  simp only [List.mem_cons, List.not_mem_nil, or_false] at h
  rcases h with h | h | h | h | h | h <;> simp only [failAttempt, h]

theorem takeResultPass_discarded (h : m.f.mode ∈ [Mode.parked, .dark, .listen, .up, .held, .lent]) (inverted : PairSet)
    (skew : PerPair Nat) (swap : Swap) : m.takeResultPass inverted skew swap = .of m [] := by
  simp only [List.mem_cons, List.not_mem_nil, or_false] at h
  rcases h with h | h | h | h | h | h <;> simp only [takeResultPass, h]

theorem takeLost_discarded (h : m.f.mode ∈ [Mode.parked, .dark, .listen, .train, .held, .lent]) (c : TcContext) :
    m.takeLost c = .of m [] := by
  simp only [List.mem_cons, List.not_mem_nil, or_false] at h
  rcases h with h | h | h | h | h | h <;> simp only [takeLost, h]

end PortMachine

section

variable {p : Port} {s : State}

theorem takePageAt_discards (ht : s.takesSlot p .page = true)
    (hm : (s.port p).tc.f.mode ∈ [Mode.parked, .dark, .held, .lent]) :
    takePageAt p s = s.setInbox p { (s.port p).inbox with page := none } := by
  unfold takePageAt
  rw [if_pos ht]
  obtain ⟨-, hnext⟩ := (s.takesSlot_iff p .page).1 ht
  split
  · exact State.tcEvent_setInbox_of_same (PortMachine.takePage_discarded hm _ _)
  · next h =>
    obtain ⟨-, -, -, -, -, hpage⟩ := Inbox.next?_eq_some (s.port p).inbox
    obtain ⟨-, -, -, -, -, hfull⟩ := hpage.1 hnext
    exact absurd h hfull

theorem takeResultFailAt_discards (ht : s.takesSlot p .result = true)
    (hm : (s.port p).tc.f.mode ∈ [Mode.parked, .dark, .listen, .up, .held, .lent])
    (hr : (s.port p).inbox.result = some .fail) :
    takeResultFailAt p s = s.setInbox p { (s.port p).inbox with result := none } := by
  simp only [takeResultFailAt, if_pos ht, hr]
  exact State.tcEvent_setInbox_of_same (PortMachine.failAttempt_discarded hm _)

theorem takeResultPassAt_discards (ht : s.takesSlot p .result = true)
    (hm : (s.port p).tc.f.mode ∈ [Mode.parked, .dark, .listen, .up, .held, .lent]) {inverted : PairSet}
    {skew : PerPair Nat} {swap : Swap} (hr : (s.port p).inbox.result = some (.pass inverted skew swap)) :
    takeResultPassAt p s = s.setInbox p { (s.port p).inbox with result := none } := by
  simp only [takeResultPassAt, if_pos ht, hr]
  exact State.tcEvent_setInbox_of_same (PortMachine.takeResultPass_discarded hm _ _ _)

theorem takeLostAt_discards (ht : s.takesSlot p .lost = true)
    (hm : (s.port p).tc.f.mode ∈ [Mode.parked, .dark, .listen, .train, .held, .lent]) :
    takeLostAt p s = s.setInbox p { (s.port p).inbox with lost := false } := by
  rw [takeLostAt, if_pos ht]
  exact State.tcEvent_setInbox_of_same (PortMachine.takeLost_discarded hm _)

end

/-- Settles O15: the order of the slots, and the events that leave the machine as it is. -/
theorem meaninglessMessagesOnlyEmptyTheirSlot : Obligations.MeaninglessMessagesOnlyEmptyTheirSlot := by
  refine ⟨fun p s => ?_, fun p s => ⟨fun ht hm => ?_, fun ht hm => ⟨fun hr => ?_, fun _ _ _ hr => ?_⟩, fun ht hm => ?_⟩⟩
  · obtain ⟨hpower, hdetached, henergy, hlost, hresult, hpage⟩ := Inbox.next?_eq_some (s.port p).inbox
    obtain ⟨upower, udetached, uenergy, ulost, upass, ufail, upage⟩ := exec_untaken (p := p) (s := s)
    have takes {slot : Slot} {P : Prop} (h : (s.port p).inbox.next? = some slot ↔ P) :=
      (s.takesSlot_iff p slot).trans (and_congr_right' h)
    exact ⟨takes hpower, takes hdetached, takes henergy, takes hlost, takes hresult, takes hpage, upower, udetached,
      uenergy, ulost, upass, ufail, upage, exec_expiry_of_waiting⟩
  · exact congrArg _ (takePageAt_discards ht hm)
  · exact congrArg _ (takeResultFailAt_discards ht hm hr)
  · exact congrArg _ (takeResultPassAt_discards ht hm hr)
  · exact congrArg _ (takeLostAt_discards ht hm)

end Sys2Proof.Machine

end

section

namespace Sys2Proof.Machine

/-! ## What is derived for a record (R11, R12, R118) -/

/-- A ceiling permits the rates up to it. -/
theorem getLsbD_ratesUpTo (ceiling : Option Rate) (rate : Rate) :
    (ratesUpTo ceiling).getLsbD rate.index = true ↔ ∃ top, ceiling = some top ∧ rate.index ≤ top.index := by
  cases ceiling with
  | none => cases rate <;> simp [ratesUpTo]
  | some top => cases top <;> cases rate <;> simp [ratesUpTo, Rate.index]

theorem getLsbD_offeredRates (offer struck : RateSet) (ceiling : Option Rate) (rate : Rate) :
    (offeredRates offer struck ceiling).getLsbD rate.index = true ↔
      offer.getLsbD rate.index = true ∧ struck.getLsbD rate.index = false
        ∧ ∃ top, ceiling = some top ∧ rate.index ≤ top.index := by
  have hindex : rate.index < 4 := by cases rate <;> decide
  rw [← getLsbD_ratesUpTo, offeredRates, BitVec.getLsbD_and, BitVec.getLsbD_and, BitVec.getLsbD_not]
  simp [hindex, and_assoc]

theorem Verdict.isGood_iff {v : Verdict} : v.isGood = true ↔ v = .good ∨ v = .untested := by
  cases v <;> simp [Verdict.isGood]

theorem Verdict.isUsable_iff {v : Verdict} : v.isUsable = true ↔ (v = .good ∨ v = .untested) ∨ v = .marginal := by
  cases v <;> simp [Verdict.isUsable, Verdict.isGood]

/-- A test of all four verdicts. -/
theorem PerPair.all_iff {v : PerPair Verdict} {f : Verdict → Bool} :
    (f v.a && f v.b && f v.c && f v.d) = true ↔ ∀ q, f (v.get q) = true := by
  simp only [Bool.and_eq_true, and_assoc]
  exact ⟨fun ⟨ha, hb, hc, hd⟩ q => by cases q <;> assumption, fun h => ⟨h .a, h .b, h .c, h .d⟩⟩

/-- R11's table. -/
theorem ceilingOf_table (v : PerPair Verdict) :
    let good (q : Pair) : Prop := v.get q = .good ∨ v.get q = .untested
    let usable (q : Pair) : Prop := good q ∨ v.get q = .marginal
    ((∀ q, good q) → ceilingOf v = some .t2500)
      ∧ ((¬ ∀ q, good q) → (∀ q, usable q) → ceilingOf v = some .t1000)
      ∧ ((¬ ∀ q, usable q) → usable .a ∧ usable .b → ceilingOf v = some .t100)
      ∧ (¬ (usable .a ∧ usable .b) → ceilingOf v = none) := by
  simp only [← Verdict.isUsable_iff]
  simp only [← Verdict.isGood_iff]
  have hgood (h : ∀ q, (v.get q).isGood = true) (q : Pair) : (v.get q).isUsable = true :=
    Verdict.isUsable_iff.2 (.inl (Verdict.isGood_iff.1 (h q)))
  have hab : (v.a.isUsable && v.b.isUsable) = true ↔ (v.get .a).isUsable = true ∧ (v.get .b).isUsable = true :=
    Bool.and_eq_true_iff
  unfold ceilingOf
  refine ⟨fun h => if_pos (PerPair.all_iff.2 h), fun h k => ?_, fun h k => ?_, fun h => ?_⟩
  · rw [if_neg (PerPair.all_iff.not.2 h), if_pos (PerPair.all_iff.2 k)]
  · rw [if_neg (PerPair.all_iff.not.2 fun g => h (hgood g)), if_neg (PerPair.all_iff.not.2 h), if_pos (hab.2 k)]
  · have hall : ¬ ∀ q, (v.get q).isUsable = true := fun k => h ⟨k _, k _⟩
    rw [if_neg (PerPair.all_iff.not.2 fun g => hall (hgood g)), if_neg (PerPair.all_iff.not.2 hall),
      if_neg (hab.not.2 h)]

/-! ### The verdict of a pair -/

/-- The finding counts for the pair and gives this verdict. -/
def Finding.Faults (q : Pair) (f : Finding) (v : Verdict) : Prop :=
  f.countsFor q = true ∧ f.kind.faultVerdict = some v

/-- The finding counts for the pair and is marginal at the setting. -/
def Finding.Marginal (marginal : Nat) (q : Pair) (f : Finding) : Prop :=
  f.countsFor q = true ∧ f.isMarginal marginal = true

theorem Finding.countsFor_iff {q : Pair} {f : Finding} :
    f.countsFor q = true ↔ f.pair = q ∧ (f.state = .fresh ∨ f.state = .standing) := by
  cases h : f.state <;> simp [Finding.countsFor, h]

theorem Kind.faultVerdict_iff {k : Kind} {v : Verdict} :
    k.faultVerdict = some v ↔
      (k = .open ∧ v = .open) ∨ (k = .short ∧ v = .short) ∨ ((∃ x, k = .cross x) ∧ v = .cross) := by
  cases k <;> simp [Kind.faultVerdict, eq_comm]

theorem Finding.isMarginal_iff {marginal : Nat} {f : Finding} :
    f.isMarginal marginal = true ↔ (f.kind = .highZ ∨ f.kind = .lowZ) ∧ marginal ≤ f.amplitude.natAbs := by
  cases h : f.kind <;> simp [Finding.isMarginal, h]

theorem skewExceeds_iff {limit : Nat} {skew : Option Nat} :
    skewExceeds limit skew = true ↔ ∃ k, skew = some k ∧ limit < k := by
  cases skew <;> simp [skewExceeds]

section

variable {α : Type} {c P : α → Bool}

/-- The first of the kept elements that satisfies a test. -/
theorem find?_filter_eq_some {before after : List α} {x : α} (h : ∀ y ∈ before, ¬ (c y = true ∧ P y = true))
    (hc : c x = true) (hx : P x = true) : ((before ++ x :: after).filter c).find? P = some x := by
  rw [List.filter_append, List.filter_cons_of_pos hc, List.find?_append, List.find?_cons_of_pos hx,
    List.find?_eq_none.2 fun y hy => ?_, Option.none_or]
  obtain ⟨hy, hcy⟩ := List.mem_filter.1 hy
  exact fun hP => h y hy ⟨hcy, hP⟩

theorem find?_filter_eq_none {l : List α} (h : ∀ y ∈ l, ¬ (c y = true ∧ P y = true)) :
    (l.filter c).find? P = none :=
  List.find?_eq_none.2 fun y hy hP => h y (List.mem_filter.1 hy).1 ⟨(List.mem_filter.1 hy).2, hP⟩

end

section

variable {set : Settings} {skew : Option Nat} {q : Pair} {old : PairAccount}

theorem Finding.not_faults {f : Finding} (h : ∀ v, ¬ f.Faults q v) :
    ¬ (f.countsFor q = true ∧ f.kind.faultVerdict.isSome = true) := by
  rintro ⟨hc, hsome⟩
  obtain ⟨v, hv⟩ := Option.isSome_iff_exists.1 hsome
  exact h v ⟨hc, hv⟩

/-- The first fault that counts gives the verdict. -/
theorem deriveAccount_of_fault {before after : List Finding} {f : Finding} {v : Verdict}
    (h : ∀ g ∈ before, ∀ w, ¬ g.Faults q w) (hf : f.Faults q v) :
    deriveAccount set (before ++ f :: after) skew q old =
      { old with verdict := v, reason := some .finding, faultDistance := some f.distance } := by
  obtain ⟨hc, hv⟩ := hf
  have hfind : ((before ++ f :: after).filter (Finding.countsFor q)).find? (fun f => f.kind.faultVerdict.isSome)
      = some f := find?_filter_eq_some (fun g hg => Finding.not_faults (h g hg)) hc (by simp [hv])
  simp only [deriveAccount, hfind, hv, Option.getD_some]

/-- Without a fault, the first marginal finding gives MARGINAL. -/
theorem deriveAccount_of_marginal {before after : List Finding} {f : Finding}
    (hfaults : ∀ g ∈ before ++ f :: after, ∀ w, ¬ g.Faults q w) (h : ∀ g ∈ before, ¬ g.Marginal set.marginal q)
    (hf : f.Marginal set.marginal q) :
    deriveAccount set (before ++ f :: after) skew q old =
      { old with verdict := .marginal, reason := some .finding, faultDistance := some f.distance } := by
  have hnone := find?_filter_eq_none fun g hg => Finding.not_faults (hfaults g hg)
  have hfind : ((before ++ f :: after).filter (Finding.countsFor q)).find? (Finding.isMarginal set.marginal) = some f :=
    find?_filter_eq_some h hf.1 hf.2
  simp only [deriveAccount, hnone, hfind]

/-- Without a fault and a marginal finding, the skew and the probing give the verdict. -/
theorem deriveAccount_of_clean {findings : List Finding} (hfaults : ∀ g ∈ findings, ∀ w, ¬ g.Faults q w)
    (h : ∀ g ∈ findings, ¬ g.Marginal set.marginal q) :
    deriveAccount set findings skew q old =
      if skewExceeds set.skewLimit skew then
        { old with verdict := .marginal, reason := some .skew, faultDistance := none }
      else if old.probed then { old with verdict := .good, reason := none, faultDistance := none }
      else { old with verdict := .untested, reason := none, faultDistance := none } := by
  have hnone := find?_filter_eq_none fun g hg => Finding.not_faults (hfaults g hg)
  have hnone' := find?_filter_eq_none h
  simp only [deriveAccount, hnone, hnone']

end

/-- Settles O23, by the Store's application of a record and the tables of R11 and R118. -/
theorem appliedUpdateAdvancesTheGenerationOnce : Obligations.AppliedUpdateAdvancesTheGenerationOnce := by
  refine ⟨fun p r s => ⟨fun h => ?_, fun h => ?_⟩, getLsbD_offeredRates, ceilingOf_table,
    fun x findings skew q old => ?_⟩
  · rw [h, State.commit_same]
  · exact State.commit_changed s h
  · simp only [← Finding.countsFor_iff, ← Kind.faultVerdict_iff, ← Finding.isMarginal_iff, ← skewExceeds_iff]
    refine ⟨?_, fun hfaults => ⟨?_, fun hmarginal => ?_⟩⟩
    · rintro before f after v rfl h hf
      exact deriveAccount_of_fault h hf
    · rintro before f after rfl h hf
      exact deriveAccount_of_marginal hfaults h hf
    · rw [deriveAccount_of_clean hfaults hmarginal]
      refine ⟨fun hwide => if_pos hwide, fun hwide hprobed => ?_, fun hwide hprobed => ?_⟩ <;> simp [hwide, hprobed]

end Sys2Proof.Machine

end

section

namespace Sys2Proof.Machine

/-! ## The end of a bind, port by port (R21) -/

/-! ### How often a record advances -/

/-- Port `ps` is `a` after `k` updates that changed something. -/
structure PortState.Advanced (a ps : PortState) (k : Nat) : Prop where
  generation : ps.record.generation = a.record.generation + BitVec.ofNat 16 k
  unchanged : k = 0 → ps.record = a.record
  changeSet : ps.inChangeSet = (a.inChangeSet || decide (0 < k))

/-- An update that is applied changes something, or nothing. -/
theorem PortState.Advanced.apply {a ps : PortState} {k : Nat} (h : a.Advanced ps k) (set : Settings) (u : Update) :
    ∃ j, j ≤ k + 1 ∧ a.Advanced (ps.apply set u) j := by
  by_cases hu : ps.updated set u = ps.record
  · have hsame : ps.apply set u = ps := by simp [PortState.apply, LineRecord.applied, hu]
    exact ⟨k, Nat.le_succ k, by rw [hsame]; exact h⟩
  · refine ⟨k + 1, le_rfl, ?_, fun hk => absurd hk k.succ_ne_zero, by simp [PortState.apply, hu]⟩
    simp only [PortState.apply, LineRecord.applied, hu, if_false, h.generation]
    rw [BitVec.ofNat_add, BitVec.add_assoc]
    rfl

/-- Fewer updates than there are generations leave a mark wherever one changed something. -/
theorem PortState.Advanced.inChangeSet_eq {a ps : PortState} {k : Nat} (h : a.Advanced ps k) (hk : k < 2 ^ 16) :
    ps.inChangeSet = (a.inChangeSet || decide (ps.record ≠ a.record)) := by
  have hiff : 0 < k ↔ ps.record ≠ a.record := by
    refine ⟨fun hpos heq => ?_, fun hne => Nat.pos_of_ne_zero fun h0 => hne (h.unchanged h0)⟩
    have hgen := h.generation
    rw [heq, left_eq_add] at hgen
    have := congrArg BitVec.toNat hgen
    rw [BitVec.toNat_ofNat, Nat.mod_eq_of_lt hk] at this
    exact absurd this hpos.ne'
  rw [h.changeSet, decide_eq_decide.2 hiff]

/-- The port joins the change set when its waiting updates changed its record. -/
theorem PortState.applyWaiting_inChangeSet (set : Settings) (ps : PortState) :
    (ps.applyWaiting set).inChangeSet = (ps.inChangeSet || decide ((ps.applyWaiting set).record ≠ ps.record)) := by
  have h0 : ps.Advanced ps.discardWaiting 0 :=
    ⟨by simp [PortState.discardWaiting], fun _ => rfl, by simp [PortState.discardWaiting]⟩
  unfold PortState.applyWaiting
  dsimp only
  split
  · obtain ⟨i, hi, h1⟩ := h0.apply set { tc := ps.tcWaiting, sched := ps.schedWaiting, guard := false }
    obtain ⟨j, hj, h2⟩ := h1.apply set { Update.none with guard := ps.guardWaiting }
    exact h2.inChangeSet_eq (by omega)
  · obtain ⟨i, hi, h1⟩ := h0.apply set { Update.none with tc := ps.tcWaiting }
    obtain ⟨j, hj, h2⟩ := h1.apply set { Update.none with sched := ps.schedWaiting }
    obtain ⟨k, hk, h3⟩ := h2.apply set { Update.none with guard := ps.guardWaiting }
    exact h3.inChangeSet_eq (by omega)

/-! ### The record after its waiting updates -/

/-- The Training Controller's fields of the record with the waiting ones at its working values. -/
def PortState.waitingTc (ps : PortState) : TcFields := ps.tcWaiting.foldl (TcField.copy ps.tc.f) ps.record.tc

/-- The Scheduler's fields of the record with the waiting ones at its working values. -/
def PortState.waitingSched (ps : PortState) : SchedFields :=
  ps.schedWaiting.foldl (SchedField.copy ps.sched) ps.record.sched

/-- A record with the Training Controller's waiting fields. -/
def PortState.withWaitingTc (set : Settings) (ps : PortState) (r : LineRecord) : LineRecord :=
  if .skew ∈ ps.tcWaiting then LineRecord.rederive set { r with tc := ps.waitingTc } else { r with tc := ps.waitingTc }

/-- The record with the waiting updates of the Training Controller and the Scheduler applied. -/
def PortState.bothWaiting (set : Settings) (ps : PortState) : LineRecord :=
  if ps.jointWaiting then ps.record.applied (ps.withWaitingTc set { ps.record with sched := ps.waitingSched })
  else (ps.record.applied (ps.withWaitingTc set ps.record)).applied
    { ps.record.applied (ps.withWaitingTc set ps.record) with sched := ps.waitingSched }

theorem TcField.differs_foldl_copy (src : TcFields) (l : List TcField) (dst : TcFields) (f : TcField) :
    TcField.differs (l.foldl (TcField.copy src) dst) (if f ∈ l then src else dst) f = false := by
  split
  · next h => rw [TcField.foldl_copy, if_pos h]
  · next h => rw [TcField.foldl_copy_of_not_mem h, TcField.differs_self]

/-- An update without the Line Guard's source writes the two other blocks' fields. -/
theorem PortState.updated_eq (set : Settings) (ps : PortState) (tc : List TcField) (sched : List SchedField) :
    ps.updated set { tc := tc, sched := sched, guard := false } =
      let r := { ps.record with
        tc := tc.foldl (TcField.copy ps.tc.f) ps.record.tc
        sched := sched.foldl (SchedField.copy ps.sched) ps.record.sched }
      if .skew ∈ tc then r.rederive set else r := by
  simp only [PortState.updated, List.contains_iff_mem, Bool.false_eq_true, if_false]

/-- The Scheduler's update alone. -/
theorem PortState.updated_sched (set : Settings) (ps : PortState) (sched : List SchedField) :
    ps.updated set { Update.none with sched := sched } =
      { ps.record with sched := sched.foldl (SchedField.copy ps.sched) ps.record.sched } := by
  rw [show ({ Update.none with sched := sched } : Update) = { tc := [], sched := sched, guard := false } from rfl,
    PortState.updated_eq]
  simp

/-- The Line Guard's update alone. -/
theorem PortState.updated_guard (set : Settings) (ps : PortState) (guard : Bool) :
    ps.updated set { Update.none with guard := guard } =
      if guard then { ps.record with lastSource := ps.lastSource } else ps.record := by
  cases guard <;> simp [PortState.updated, Update.none]

theorem PortState.applyWaiting_record (set : Settings) (ps : PortState) :
    (ps.applyWaiting set).record =
      if ps.guardWaiting then
        (ps.bothWaiting set).applied { ps.bothWaiting set with lastSource := ps.lastSource }
      else ps.bothWaiting set := by
  have guarded (x : PortState) (hsource : x.lastSource = ps.lastSource) (hrecord : x.record = ps.bothWaiting set) :
      (x.apply set { Update.none with guard := ps.guardWaiting }).record =
        if ps.guardWaiting then
          (ps.bothWaiting set).applied { ps.bothWaiting set with lastSource := ps.lastSource }
        else ps.bothWaiting set := by
    simp only [PortState.apply, PortState.updated_guard, hsource, hrecord]
    split
    · rfl
    · simp [LineRecord.applied]
  unfold PortState.applyWaiting
  dsimp only
  split
  · next hjoint =>
    refine guarded _ rfl ?_
    rw [PortState.bothWaiting, if_pos hjoint]
    simp only [PortState.apply, PortState.updated_eq]
    rfl
  · next hjoint =>
    refine guarded _ rfl ?_
    have htc : ps.discardWaiting.updated set { Update.none with tc := ps.tcWaiting } = ps.withWaitingTc set ps.record :=
      PortState.updated_eq set ps.discardWaiting ps.tcWaiting []
    have hsched : (ps.record.applied (ps.withWaitingTc set ps.record)).sched = ps.record.sched := by
      obtain ⟨-, h, -⟩ := LineRecord.applied_writers ps.record (ps.withWaitingTc set ps.record)
      rw [h, PortState.withWaitingTc]
      split <;> rfl
    rw [PortState.bothWaiting, if_neg hjoint]
    simp only [PortState.apply, PortState.updated_sched, htc]
    rw [show ps.discardWaiting.record = ps.record from rfl, hsched]
    rfl

/-! ### The operation under way at the end of a bind -/

theorem State.foldl_modPort_busy (f : PortState → PortState) (s : State) (x : Option Operation) (l : List Port) :
    l.foldl (fun t p => t.modPort p f) { s with busy := x }
      = { l.foldl (fun t p => t.modPort p f) s with busy := x } := by
  induction l generalizing s with
  | nil => rfl
  | cons p l ih => exact ih (s.modPort p f)

/-- The waiting updates are applied whatever operation is under way. -/
theorem State.bindEnded_busy (s : State) (x : Option Operation) :
    State.bindEnded { s with busy := x } = { s.bindEnded with busy := x } := by
  simp only [State.bindEnded, State.applyAllWaiting_eq]
  exact State.foldl_modPort_busy _ { s with bind := none, cursor := s.saved.getD s.cursor, saved := none } x allPorts

/-- Without a PORT-RESET waiting, the waiting updates are all there is to the end of a bind. -/
theorem State.endBind_of_no_reset {s : State} (h : ∀ q, s.busy ≠ some (.portReset q true)) : s.endBind = s.bindEnded := by
  rw [State.endBind_eq, State.finishSuspendedReset, State.busy_bindEnded]
  split
  · next q hq => exact absurd hq (h q)
  · rfl

/-- A PORT-RESET that waits for the end of a bind is made on what that end leaves. -/
theorem State.endBind_of_reset {s : State} {q : Port} (h : s.busy = some (.portReset q true)) :
    s.endBind = (State.portResetUpdate { s with busy := none }.endBind q true).withReply replyAccepted := by
  have hended : State.endBind { s with busy := none } = { s.bindEnded with busy := none } :=
    (State.endBind_of_no_reset (by simp)).trans (State.bindEnded_busy s none)
  have hfinish : s.endBind = s.bindEnded.completePortReset q true := by
    rw [State.endBind_eq, State.finishSuspendedReset, State.busy_bindEnded, h]
  rw [hended, hfinish]
  generalize s.bindEnded = t
  rfl

/-- The end of a bind outside the ports. -/
theorem State.bindEnded_rest (s : State) :
    { s.bindEnded with ports := s.ports, bind := s.bind, cursor := s.cursor, saved := s.saved } = s
      ∧ s.bindEnded.bind = none ∧ s.bindEnded.saved = none ∧ s.bindEnded.cursor = s.saved.getD s.cursor := by
  have h : { s.bindEnded with ports := s.ports }
      = { s with bind := none, cursor := s.saved.getD s.cursor, saved := none } := s.bindEnded_outside
  generalize s.bindEnded = t at h ⊢
  refine ⟨?_, congrArg State.bind h, congrArg State.saved h, congrArg State.cursor h⟩
  exact congrArg (fun x : State => { x with bind := s.bind, cursor := s.cursor, saved := s.saved }) h

/-- What the end of a bind leaves of a port. -/
theorem State.port_bindEnded_eq (s : State) (p : Port) :
    s.bindEnded.port p = { (s.port p).discardWaiting with
      record := ((s.port p).applyWaiting s.settings).record
      inChangeSet := (s.port p).inChangeSet
        || decide (((s.port p).applyWaiting s.settings).record ≠ (s.port p).record) } := by
  rw [← PortState.applyWaiting_inChangeSet, State.port_bindEnded]
  exact PortState.applyWaiting_rest _ _

/-- Settles O27: the end of a bind, port by port and outside the ports. -/
theorem endOfBindAppliesEveryWaitingUpdate : Obligations.EndOfBindAppliesEveryWaitingUpdate := by
  refine ⟨fun s hs => ?_, fun s q hq => ?_⟩
  · obtain ⟨hrest, hbind, hsaved, hcursor⟩ := s.bindEnded_rest
    have hport := s.port_bindEnded_eq
    rw [State.endBind_of_no_reset hs]
    generalize s.bindEnded = t at hrest hbind hsaved hcursor hport ⊢
    refine ⟨hrest, hbind, hsaved, hcursor, fun p => ⟨(s.port p).waitingTc, (s.port p).waitingSched,
      TcField.differs_foldl_copy _ _ _, SchedField.foldl_copy_status _ _ _, SchedField.foldl_copy_outcome _ _ _, ?_⟩⟩
    have h := hport p
    rw [PortState.applyWaiting_record] at h
    exact h
  · have heq := State.endBind_of_reset hq
    exact ⟨_, State.portResetUpdate_leaves (State.endBind { s with busy := none }) q true, heq⟩

end Sys2Proof.Machine

end

section

namespace Sys2Proof.Machine

/-! ## The reset state (R22, R35, R65, R86, R121, R136, R159) -/

theorem State.reset_ports : State.reset.ports.toList = List.replicate 48 PortState.reset := rfl

theorem State.reset_group (g : Group) : State.reset.group g = .reset := by
  simp [State.reset, State.group]

theorem State.reset_template (i : TemplateId) : State.reset.templates[i] = .reset := by
  simp [State.reset]

theorem poolFree_reset : poolFree State.reset = 256 := by
  have hused : poolUsed State.reset = 0 := by
    rw [poolUsed, State.reset_ports, List.map_replicate, List.sum_replicate]
    rfl
  rw [poolFree, hused]
  rfl

theorem lowBit_reset : lowBit State.reset = false := by
  rw [lowBit, poolFree_reset]
  rfl

theorem chgBit_reset : chgBit State.reset = false := by
  rw [chgBit, State.reset_ports, List.any_replicate]
  rfl

theorem statusByte_reset : statusByte State.reset = 0x00#8 := by
  rw [statusByte, chgBit_reset, lowBit_reset]
  rfl

theorem alertAsserted_reset : alertAsserted State.reset = false := by
  rw [alertAsserted, chgBit_reset, lowBit_reset]
  rfl

/-- Settles O4: every block's reset value is the stated one, and what is derived of them is nothing. -/
theorem resetStateHoldsTheStatedValues : Obligations.ResetStateHoldsTheStatedValues := by
  refine ⟨fun p => ?_, fun g => ?_, State.reset_engine, rfl, rfl, poolFree_reset, rfl, rfl, rfl, rfl, rfl, rfl, rfl,
    rfl, rfl, rfl, rfl, State.reset_template, statusByte_reset, alertAsserted_reset⟩
  · rw [State.reset_port]
    exact ⟨rfl, rfl, rfl, rfl, rfl, rfl, rfl, ⟨rfl, rfl, rfl, rfl⟩, rfl, rfl⟩
  · rw [State.reset_group]
    exact ⟨rfl, rfl⟩

end Sys2Proof.Machine

end

section

namespace Sys2Proof.Machine

/-! ## One tick (R32, R47, R94, R153) -/

@[simp] theorem group_tick (s : State) (g : Group) : (tick s).group g = (s.group g).tick := mapVector_getElem _ _ g

theorem step_of_no_command {s : State} (h : s.pending = []) : step s = .next (tick s) := by
  simp [step, h]

/-- Settles O2: a tick maps every port, group and engine and the bind, and nothing else. -/
theorem stepWithoutCommandsIsOneTick : Obligations.StepWithoutCommandsIsOneTick := by
  intro s hs
  refine ⟨tick s, step_of_no_command hs, rfl, fun p => ?_, fun g => ?_, fun e => ?_, rfl⟩
  · rw [port_tick]; rfl
  · rw [group_tick]; rfl
  · rw [engine_tick]
    cases s.engine e <;> rfl

end Sys2Proof.Machine

end

section

namespace Sys2Proof.Machine

/-! ## Frames (R25, R26, R172) -/

/-- A whole frame is valid by its length byte and its check. -/
theorem judgeFrame_append (header len check : Byte) (payload : List Byte) :
    judgeFrame (header :: len :: (payload ++ [check])) =
      if len.toNat ≤ 7 ∧ payload.length = len.toNat ∧ check = crc8 (header :: len :: payload) then
        some { kind := header.toNat / 16, index := ⟨header.toNat % 8, by omega⟩, payload := payload }
      else none := by
  simp [judgeFrame]

theorem judgeFrame_of_bad_check {body : List Byte} {check : Byte} (h : check ≠ crc8 body) :
    judgeFrame (body ++ [check]) = none := by
  match body with
  | [] => rfl
  | [header] => simp [judgeFrame]
  | header :: len :: payload =>
    rw [List.cons_append, List.cons_append, judgeFrame_append, if_neg]
    exact fun hvalid => h hvalid.2.2

theorem judgeFrame_of_long {header len : Byte} (rest : List Byte) (h : 7 < len.toNat) :
    judgeFrame (header :: len :: rest) = none := by
  rw [judgeFrame, if_neg]
  omega

/-- A frame with its payload's length and its check is valid. -/
theorem judgeFrame_of_payload (header : Byte) {payload : List Byte} (h : payload.length ≤ 7) :
    judgeFrame ((header :: BitVec.ofNat 8 payload.length :: payload)
        ++ [crc8 (header :: BitVec.ofNat 8 payload.length :: payload)])
      = some { kind := header.toNat / 16, index := ⟨header.toNat % 8, by omega⟩, payload := payload } := by
  have hlen : (BitVec.ofNat 8 payload.length).toNat = payload.length := by
    rw [BitVec.toNat_ofNat]
    omega
  rw [List.cons_append, List.cons_append, judgeFrame_append, hlen, if_pos ⟨h, rfl, rfl⟩]

section

variable {g : Group} {bytes : List Byte} (s : State)

theorem receiveFrame_invalid (h : judgeFrame bytes = none) : receiveFrame g bytes s = s := by
  simp [receiveFrame, h]

theorem receiveFrame_without_message {f : ValidFrame} (h : judgeFrame bytes = some f) (hm : messageOf? f = none) :
    receiveFrame g bytes s = s.hear g := by
  simp [receiveFrame, h, hm]

theorem receiveFrame_with_message {f : ValidFrame} {m : Inbound} (h : judgeFrame bytes = some f)
    (hm : messageOf? f = some m) : receiveFrame g bytes s = (s.hear g).place (portAt g f.index) m := by
  simp [receiveFrame, h, hm]

theorem exec_frameReceive (g : Group) (bytes : List Byte) :
    exec (.frameReceive g bytes) s = .next (receiveFrame g bytes s) := rfl

end

/-- Settles O6: neither kind of damaged frame is valid. -/
theorem damagedFrameChangesNothing : Obligations.DamagedFrameChangesNothing := by
  refine ⟨fun g body check s h => ?_, fun g header len rest s h => ?_⟩
  · rw [exec_frameReceive, receiveFrame_invalid s (judgeFrame_of_bad_check h)]
  · rw [exec_frameReceive, receiveFrame_invalid s (judgeFrame_of_long rest h)]

/-! ### The payload of an inbound message (R26, R172) -/

theorem toNat_byte {n : Nat} (h : n < 256) : (byte n).toNat = n := by
  rw [byte, BitVec.toNat_ofNat]
  omega

theorem byte_toNat (b : Byte) : byte b.toNat = b := by
  simp [byte]

theorem swapOf?_eq_some_iff {n : Nat} {w : Swap} : swapOf? n = some w ↔ n = w.code := by
  unfold swapOf?
  split <;> cases w <;> simp_all [Swap.code]

theorem skewOf?_eq_some_iff {b : Byte} {k : Nat} : skewOf? b = some k ↔ k ≤ 63 ∧ b = byte k := by
  unfold skewOf?
  constructor
  · intro h
    split at h
    · next hb =>
      obtain rfl := Option.some.inj h
      exact ⟨hb, (byte_toNat b).symm⟩
    · cases h
  · rintro ⟨hk, rfl⟩
    rw [toNat_byte (by omega), if_pos hk]

theorem setWidth_byte_pairs (v : BitVec 4) : (byte v.toNat).setWidth 4 = v := by
  revert v; decide

theorem byte_toNat_setWidth {b : Byte} (h : b.toNat < 16) : byte (b.setWidth 4).toNat = b := by
  rw [BitVec.toNat_setWidth, Nat.mod_eq_of_lt (by omega), byte_toNat]

/-- The payload of a RESULT and what it reports. -/
theorem resultOf?_payload {r : TrainResult} (h : (Inbound.result r).inRange) :
    resultOf? (Inbound.result r).payload = some r := by
  cases r with
  | fail => rfl
  | pass inverted skew swap =>
    obtain ⟨ha, hb, hc, hd⟩ := h
    have skewed {k : Nat} (hk : k ≤ 63) : skewOf? (byte k) = some k := skewOf?_eq_some_iff.2 ⟨hk, rfl⟩
    have hswap : swapOf? (byte swap.code).toNat = some swap := by cases swap <;> rfl
    have hinv : (byte inverted.toNat).toNat < 16 := by
      rw [toNat_byte (by omega)]
      exact inverted.isLt
    simp only [Inbound.payload, resultOf?, hinv, and_self, if_true, hswap, skewed ha, skewed hb, skewed hc, skewed hd,
      setWidth_byte_pairs]

theorem resultOf?_sound {payload : List Byte} {r : TrainResult} (h : resultOf? payload = some r) :
    (Inbound.result r).inRange ∧ payload = (Inbound.result r).payload := by
  unfold resultOf? at h
  split at h
  · next outcome =>
    split at h
    · next ho =>
      obtain rfl := Option.some.inj h
      exact ⟨trivial, by rw [ho]; rfl⟩
    · cases h
  · next outcome polarity swap a b c d =>
    split at h
    · next ho =>
      split at h
      · next w ka kb kc kd hw ha hb hc hd =>
        obtain rfl := Option.some.inj h
        obtain ⟨la, ea⟩ := skewOf?_eq_some_iff.1 ha
        obtain ⟨lb, eb⟩ := skewOf?_eq_some_iff.1 hb
        obtain ⟨lc, ec⟩ := skewOf?_eq_some_iff.1 hc
        obtain ⟨ld, ed⟩ := skewOf?_eq_some_iff.1 hd
        refine ⟨⟨la, lb, lc, ld⟩, ?_⟩
        simp only [Inbound.payload]
        rw [ho.1, byte_toNat_setWidth ho.2, ← swapOf?_eq_some_iff.1 hw, byte_toNat, ← ea, ← eb, ← ec, ← ed]
      · cases h
    · cases h
  · cases h

/-- The payload of a POWER message holds the pairs and the fault bit. -/
theorem power_payload (pairs : PairSet) (fault : Bool) :
    (byte (pairs.toNat + flag fault 16)).toNat < 32
      ∧ (byte (pairs.toNat + flag fault 16)).setWidth 4 = pairs
      ∧ (byte (pairs.toNat + flag fault 16)).getLsbD 4 = fault := by
  revert pairs fault; decide

theorem power_payload_of_byte {b : Byte} (h : b.toNat < 32) :
    byte ((b.setWidth 4).toNat + flag (b.getLsbD 4) 16) = b := by
  revert b; decide

theorem Inbound.code_le (m : Inbound) : m.code ≤ 6 := by
  cases m <;> simp [Inbound.code]

theorem Inbound.payload_length_le (m : Inbound) : m.payload.length ≤ 7 := by
  cases m with
  | result r => cases r <;> simp [Inbound.payload]
  | _ => simp [Inbound.payload]

/-- A valid frame carries an inbound message exactly where its kind and payload are the message's, in range. -/
theorem messageOf?_eq_some_iff {f : ValidFrame} {m : Inbound} :
    messageOf? f = some m ↔ m.inRange ∧ f.kind = m.code ∧ f.payload = m.payload := by
  obtain ⟨kind, i, payload⟩ := f
  constructor
  · intro h
    unfold messageOf? at h
    dsimp only at h ⊢
    split at h
    · next b =>
      split at h
      · next hb => obtain rfl := Option.some.inj h; exact ⟨trivial, rfl, by rw [hb]; rfl⟩
      · split at h
        · next hb => obtain rfl := Option.some.inj h; exact ⟨trivial, rfl, by rw [hb]; rfl⟩
        · cases h
    · next b =>
      split at h
      · next hb =>
        obtain rfl := Option.some.inj h
        exact ⟨trivial, rfl, by rw [Inbound.payload, byte_toNat_setWidth hb]⟩
      · cases h
    · obtain ⟨r, hr, rfl⟩ := Option.map_eq_some_iff.1 h
      obtain ⟨hrange, hpayload⟩ := resultOf?_sound hr
      exact ⟨hrange, rfl, hpayload⟩
    · obtain rfl := Option.some.inj h; exact ⟨trivial, rfl, rfl⟩
    · next b =>
      split at h
      · next hb =>
        obtain rfl := Option.some.inj h
        exact ⟨trivial, rfl, by rw [Inbound.payload, power_payload_of_byte hb]⟩
      · cases h
    · obtain rfl := Option.some.inj h; exact ⟨trivial, rfl, rfl⟩
    · cases h
  · rintro ⟨hrange, hkind, hpayload⟩
    dsimp only at hkind hpayload
    subst hkind hpayload
    cases m with
    | energy present => cases present <;> rfl
    | page rates =>
      have hlt : (byte rates.toNat).toNat < 16 := by
        rw [toNat_byte (by omega)]
        exact rates.isLt
      simp only [messageOf?, Inbound.code, Inbound.payload, hlt, if_true, setWidth_byte_pairs]
    | result r => simp only [messageOf?, Inbound.code, resultOf?_payload hrange, Option.map_some]
    | lost => rfl
    | power pairs fault =>
      obtain ⟨hlt, hpairs, hfault⟩ := power_payload pairs fault
      simp only [messageOf?, Inbound.code, Inbound.payload, hlt, if_true, hpairs, hfault]
    | detached => rfl

end Sys2Proof.Machine

end

section

namespace Sys2Proof.Machine

/-! ## The ports of a group (R24, R25, R32, R33) -/

theorem groupOf_portAt (g : Group) (i : GroupIndex) : groupOf (portAt g i) = g := by
  ext
  simp only [groupOf, portAt]
  omega

theorem portAt_indexOf (q : Port) : portAt (groupOf q) (indexOf q) = q := by
  ext
  simp only [groupOf, indexOf, portAt]
  omega

theorem portAt_injective (g : Group) : Function.Injective (portAt g) := by
  intro i j h
  have := congrArg Fin.val h
  simp only [portAt] at this
  ext
  omega

theorem mem_allIndexes (i : GroupIndex) : i ∈ allIndexes := by
  revert i; decide

theorem mem_ports_of_group {g : Group} {q : Port} : q ∈ allIndexes.map (portAt g) ↔ groupOf q = g := by
  rw [List.mem_map]
  constructor
  · rintro ⟨i, -, rfl⟩
    exact groupOf_portAt g i
  · rintro rfl
    exact ⟨indexOf q, mem_allIndexes _, portAt_indexOf q⟩

section

variable (s : State) (g : Group) (f : PortState → PortState)

/-- A change made to every port of a group. -/
theorem State.foldl_group_port (q : Port) :
    (allIndexes.foldl (fun t i => t.modPort (portAt g i) f) s).port q
      = if groupOf q = g then f (s.port q) else s.port q := by
  have hnodup : (allIndexes.map (portAt g)).Nodup := (by decide : allIndexes.Nodup).map (portAt_injective g)
  have h := State.foldl_modPort_port f s _ hnodup q
  rw [List.foldl_map] at h
  simp only [h, mem_ports_of_group]

theorem State.foldl_group_outside : SameOutsidePorts s (allIndexes.foldl (fun t i => t.modPort (portAt g i) f) s) := by
  have h := State.foldl_modPort_outside f s (allIndexes.map (portAt g))
  rwa [List.foldl_map] at h

/-- A group link replaced and every port of its group changed. -/
def State.changeGroup (x : GroupLink) : State :=
  allIndexes.foldl (fun t i => t.modPort (portAt g i) f) (s.setGroup g x)

theorem State.changeGroup_onlyGroup (x : GroupLink) : OnlyGroup g s (s.changeGroup g f x) := by
  have hout := State.foldl_group_outside (s.setGroup g x) g f
  refine ⟨?_, fun h hh => ?_, fun q hq => ?_⟩
  · have hports : { s.changeGroup g f x with ports := s.ports } = s.setGroup g x := hout
    have := congrArg (fun t : State => { t with groups := s.groups }) hports
    exact this
  · have := congrArg (fun v => v[h]) hout.groups
    exact this.trans ((State.group_setGroup s g h x).trans (if_neg hh))
  · rw [State.changeGroup, State.foldl_group_port, if_neg hq, State.port_setGroup]

theorem State.group_changeGroup (x : GroupLink) : (s.changeGroup g f x).group g = x := by
  have hout := State.foldl_group_outside (s.setGroup g x) g f
  exact (congrArg (fun v => v[g]) hout.groups).trans (State.group_setGroup_self s g x)

theorem State.port_changeGroup (x : GroupLink) (i : GroupIndex) :
    (s.changeGroup g f x).port (portAt g i) = f (s.port (portAt g i)) := by
  rw [State.changeGroup, State.foldl_group_port, if_pos (groupOf_portAt g i), State.port_setGroup]

theorem OnlyGroup.setGroup (x : GroupLink) : OnlyGroup g s (s.setGroup g x) :=
  ⟨rfl, fun h hh => (State.group_setGroup s g h x).trans (if_neg hh), fun _ _ => rfl⟩

end

/-! ### A group hears a valid frame (R24, R25, R33) -/

section

variable (s : State) (g : Group)

theorem State.hear_linked (h : (s.group g).linked = true) : s.hear g = s.setGroup g (s.group g).heard := by
  simp [State.hear, h]

theorem State.hear_silent (h : (s.group g).linked = false) :
    s.hear g = s.changeGroup g PortState.relinked (s.group g).heard := by
  simp [State.hear, h, State.relinkPorts, State.changeGroup]

theorem State.hear_onlyGroup : OnlyGroup g s (s.hear g) := by
  cases h : (s.group g).linked with
  | true => rw [s.hear_linked g h]; exact OnlyGroup.setGroup s g _
  | false => rw [s.hear_silent g h]; exact s.changeGroup_onlyGroup g _ _

theorem State.group_hear : (s.hear g).group g = (s.group g).heard := by
  cases h : (s.group g).linked with
  | true => rw [s.hear_linked g h, State.group_setGroup_self]
  | false => rw [s.hear_silent g h, State.group_changeGroup]

theorem State.port_hear_linked (h : (s.group g).linked = true) (q : Port) : (s.hear g).port q = s.port q := by
  rw [s.hear_linked g h, State.port_setGroup]

theorem State.port_hear_silent (h : (s.group g).linked = false) (i : GroupIndex) :
    (s.hear g).port (portAt g i) = (s.port (portAt g i)).relinked := by
  rw [s.hear_silent g h, State.port_changeGroup]

end

/-- The agreeing message of each mode (R30, R33). -/
theorem PortState.agreeing_of_mode (ps : PortState) :
    (ps.tc.f.mode ∈ [Mode.parked, Mode.dark, Mode.held, Mode.up] → ps.agreeing = .halt)
      ∧ (ps.tc.f.mode = .listen → ps.agreeing = .advertise ps.offered)
      ∧ (∀ r, ps.tc.f.mode = .train → ps.tc.f.resolved = some r → ps.agreeing = .start r)
      ∧ (ps.tc.f.mode = .lent → ps.agreeing = .detach) := by
  unfold PortState.agreeing
  cases ps.tc.f.mode <;> simp +contextual

/-- Settles O7: the frame is valid, and what it carries is the message it was made of. -/
theorem everyInboundMessageReachesItsPort : Obligations.EveryInboundMessageReachesItsPort := by
  intro g i m s hm hl
  have hcode := m.code_le
  have hlen := m.payload_length_le
  have hheader : (byte (16 * m.code + i.val)).toNat = 16 * m.code + i.val := toNat_byte (by omega)
  have hjudge : judgeFrame (frameOf m.code i m.payload)
      = some { kind := m.code, index := i, payload := m.payload } := by
    refine (judgeFrame_of_payload (byte (16 * m.code + i.val)) hlen).trans ?_
    simp only [hheader, Option.some.injEq, ValidFrame.mk.injEq, Fin.ext_iff, and_true]
    omega
  have hheard : (s.group g).heard = { s.group g with silence := some (Config.millis 1) } := by
    rw [GroupLink.heard, ← hl]
    rfl
  rw [exec_frameReceive, receiveFrame_with_message s hjudge (messageOf?_eq_some_iff.2 ⟨hm, rfl, rfl⟩),
    s.hear_linked g hl, hheard]
  rfl

/-- Settles O8: the group hears the frame, and then the message the frame carries, if any, is placed. -/
theorem validFrameRelinksASilentGroup : Obligations.ValidFrameRelinksASilentGroup := by
  intro g header payload s hlen
  dsimp only
  have hjudge := judgeFrame_of_payload header hlen
  refine ⟨s.hear g, s.hear_onlyGroup g, s.group_hear g, fun hl i => s.port_hear_linked g hl _, fun hl i => ?_,
    fun m hm => ?_, fun hm => ?_⟩
  · exact ⟨(s.port (portAt g i)).agreeing, s.port_hear_silent g hl i, (s.port (portAt g i)).agreeing_of_mode⟩
  · obtain ⟨hrange, hkind, hpayload⟩ := hm
    rw [exec_frameReceive,
      receiveFrame_with_message s hjudge (messageOf?_eq_some_iff.2 ⟨hrange, hkind, hpayload⟩)]
    rfl
  · rw [exec_frameReceive, receiveFrame_without_message s hjudge]
    exact Option.eq_none_iff_forall_ne_some.2 fun m h => hm m (messageOf?_eq_some_iff.1 h)

/-! ### Silence (R32) -/

theorem silenceExpiryOf_expired {g : Group} {s : State} (hl : (s.group g).linked = true)
    (hs : (s.group g).silence = some 0) :
    silenceExpiryOf g s = s.changeGroup g PortState.silenced { s.group g with linked := false, silence := none } := by
  simp [silenceExpiryOf, hl, hs, State.changeGroup]

/-- Settles O9: silence changes the group link and every port of the group. -/
theorem silenceReportsNoPartnerAndPowerEverywhere : Obligations.SilenceReportsNoPartnerAndPowerEverywhere := by
  intro g s hl hs
  refine ⟨_, congrArg Host.Outcome.next (silenceExpiryOf_expired hl hs), s.changeGroup_onlyGroup g _ _,
    s.group_changeGroup g _ _, fun i => ?_⟩
  rw [State.port_changeGroup]
  rfl

/-! ## Sending (R25, R29) -/

theorem State.serves?_none {s : State} {g : Group} (h : ∀ j : GroupIndex, (s.port (portAt g j)).transmit = []) :
    s.serves? g = none := by
  simp [State.serves?, List.find?_eq_none, h]

/-- The index served is the first from the turn on whose list holds a message. -/
theorem State.serves?_some {s : State} {g : Group} {i : GroupIndex} (hi : (s.port (portAt g i)).transmit ≠ [])
    (hfirst : ∀ j : GroupIndex, (j - (s.group g).turn).val < (i - (s.group g).turn).val →
      (s.port (portAt g j)).transmit = []) : s.serves? g = some i := by
  generalize hturn : (s.group g).turn = turn at hfirst
  have hfind : allIndexes.find? ((fun j => !(s.port (portAt g j)).transmit.isEmpty) ∘ fun k => turn + k)
      = some (i - turn) := by
    refine find_first (by decide) (mem_allIndexes _) ?_ fun k hk => ?_
    · simpa using hi
    · have := hfirst (turn + k) (by rw [add_sub_cancel_left]; exact hk)
      simp [this]
  rw [State.serves?, servingOrder, List.find?_map, hturn, hfind]
  simp

theorem transmitMessageOf_idle {g : Group} {s : State} (h : s.serves? g = none) : transmitMessageOf g s = s := by
  simp [transmitMessageOf, h]

theorem transmitMessageOf_serves {g : Group} {s : State} {i : GroupIndex} {m : Outbound} {rest : List Outbound}
    (hidle : (s.group g).idle ≠ 0) (h : s.serves? g = some i) (hm : (s.port (portAt g i)).transmit = m :: rest) :
    transmitMessageOf g s =
      (s.modPort (portAt g i) fun ps => { ps with transmit := rest }).setGroup g
        { (s.group g).send (messageFrame i m) with turn := i + 1 } := by
  simp [transmitMessageOf, hidle, h, hm]

theorem crcByte_zero : crcByte 0#8 0#8 = 0#8 := by simp [crcByte, crcBit]

theorem idleFrame_eq : idleFrame = [0x00#8, 0x00#8, 0x00#8] := by
  simp [idleFrame, frameOf, crc8, byte, crcByte_zero]

theorem idleFrameSendOf_due {g : Group} {s : State} (h : (s.group g).idle = 0) :
    idleFrameSendOf g s = s.setGroup g ((s.group g).send idleFrame) := by
  simp [idleFrameSendOf, h]

/-- Settles O10, by the index that is served. -/
theorem groupSendsIdleFramesAndMessages : Obligations.GroupSendsIdleFramesAndMessages := by
  intro g s
  refine ⟨fun hidle => ?_, fun hidle => ⟨fun i m rest hm hfirst => ?_, fun hnone => ?_⟩⟩
  · have h := idleFrameSendOf_due hidle
    rw [idleFrame_eq] at h
    exact congrArg Host.Outcome.next h
  · have hserves : s.serves? g = some i := State.serves?_some (by simp [hm]) hfirst
    exact congrArg Host.Outcome.next (transmitMessageOf_serves hidle hserves hm)
  · exact congrArg Host.Outcome.next (transmitMessageOf_idle (State.serves?_none hnone))

/-! ## Handing (R29 to R31) -/

theorem foldl_handOne_silent (agreeing : Outbound) (msgs list : List Outbound) :
    msgs.foldl (handOne false agreeing) list = list := by
  induction msgs with
  | nil => rfl
  | cons m msgs ih => exact ih

theorem handOne_room (agreeing m : Outbound) {list : List Outbound} (h : list.length < 8) :
    handOne true agreeing list m = list ++ [m] := by
  rw [handOne, if_pos rfl, if_pos (show list.length < Config.transmitSize from h)]

theorem handOne_overflow (agreeing m : Outbound) {list : List Outbound} (h : 8 ≤ list.length) :
    handOne true agreeing list m = [agreeing] := by
  rw [handOne, if_pos rfl, if_neg (show ¬ list.length < Config.transmitSize from Nat.not_lt.2 h)]

theorem foldl_handOne_joins (agreeing : Outbound) {msgs list : List Outbound} (h : list.length + msgs.length ≤ 8) :
    msgs.foldl (handOne true agreeing) list = list ++ msgs := by
  induction msgs generalizing list with
  | nil => simp
  | cons m msgs ih =>
    rw [List.length_cons] at h
    have hrest : (list ++ [m]).length + msgs.length ≤ 8 := by
      rw [List.length_append, List.length_singleton]
      omega
    rw [List.foldl_cons, handOne_room _ _ (by omega), ih hrest, List.append_assoc, List.singleton_append]

theorem State.port_hand (s : State) (p : Port) (msgs : List Outbound) :
    (s.hand p msgs).port p = { s.port p with
      transmit := msgs.foldl (handOne (s.group (groupOf p)).linked (s.port p).agreeing) (s.port p).transmit } :=
  State.port_modPort_self s p _

/-- Settles O11, message by message. -/
theorem handedMessagesJoinOverflowOrVanish : Obligations.HandedMessagesJoinOverflowOrVanish := by
  intro s p msgs
  refine ⟨State.hand_onlyPort s p msgs, fun hl => ?_, fun hl hfits => ?_, fun m hl hfull => ?_⟩
  · rw [State.hand, hl]
    simp only [foldl_handOne_silent]
    exact State.setPort_port s p
  · rw [State.port_hand, hl, foldl_handOne_joins _ hfits]
  · rw [State.port_hand, hl, List.foldl_cons, List.foldl_nil, handOne_overflow _ _ hfull]

end Sys2Proof.Machine

end

section

namespace Sys2Proof.Machine

/-! ## The serial side and the transmit lists (R29, R31, R140, R151, R154, R161) -/

/-- A transmit list holds at most eight messages, and none in a SILENT group (R29, R31). -/
def transmitFits (linked : Bool) (l : List Outbound) : Prop :=
  l.length ≤ Config.transmitSize ∧ (linked = false → l = [])

theorem State.transmitOk_iff (s : State) :
    s.transmitOk ↔ ∀ p, transmitFits (s.group (groupOf p)).linked (s.port p).transmit := .rfl

theorem handOne_fits {linked : Bool} {l : List Outbound} (h : transmitFits linked l) (agreeing m : Outbound) :
    transmitFits linked (handOne linked agreeing l m) := by
  cases linked with
  | false => exact h
  | true =>
    refine ⟨?_, fun hl => nomatch hl⟩
    rw [handOne, if_pos rfl]
    split
    · next hroom =>
      rw [List.length_append]
      exact hroom
    · exact (by decide : 1 ≤ Config.transmitSize)

theorem foldl_handOne_keepsFit {linked : Bool} (agreeing : Outbound) (msgs : List Outbound) {l : List Outbound}
    (h : transmitFits linked l) : transmitFits linked (msgs.foldl (handOne linked agreeing) l) := by
  induction msgs generalizing l with
  | nil => exact h
  | cons m msgs ih => exact ih (handOne_fits h agreeing m)

/-- The one message a relinked port's empty list gets (R33). -/
theorem transmitFits_relinked {l : List Outbound} (h : transmitFits false l) (m : Outbound) :
    transmitFits true (l ++ [m]) := by
  rw [h.2 rfl]
  exact ⟨(by decide : 1 ≤ Config.transmitSize), fun hl => nomatch hl⟩

theorem transmitFits_tail {linked : Bool} {m : Outbound} {rest : List Outbound}
    (h : transmitFits linked (m :: rest)) : transmitFits linked rest :=
  ⟨(Nat.le_succ _).trans h.1, fun hl => nomatch h.2 hl⟩

theorem ErrorSlot.consistent.take {x : ErrorSlot} (h : x.consistent) (c : Cause) (o : Origin) (p : Option Port) :
    (x.take c o p).consistent := by
  obtain ⟨hsecond, hjammed⟩ := h
  unfold ErrorSlot.take
  split
  · exact ⟨fun _ => by simp, hjammed⟩
  · next hfirst =>
    split
    · exact ⟨fun _ => by simp [hfirst], fun _ => by simp⟩
    · next hheld => exact ⟨hsecond, fun _ => by simp [hheld]⟩

/-! ### The cursor (R140, R141) -/

theorem lastOffset?_port (p : Port) : lastOffset? p.val = some 135 := if_pos p.isLt

theorem Cursor.inRange_iff {c : Cursor} :
    c.inRange = true ↔ ∃ last, lastOffset? c.port = some last ∧ c.offset ≤ last := by
  unfold Cursor.inRange
  split
  · next last h => simp [h]
  · next h => simp [h]

/-- A cursor port's first byte. -/
theorem Cursor.inRange_start {port last : Nat} (h : lastOffset? port = some last) :
    ({ port := port, offset := 0 } : Cursor).inRange = true :=
  Cursor.inRange_iff.2 ⟨last, h, Nat.zero_le _⟩

theorem stepWithin_le {last n : Nat} (down : Bool) (h : n ≤ last) : stepWithin down last n ≤ last := by
  unfold stepWithin
  split_ifs <;> omega

theorem Cursor.inRange_walked {c : Cursor} (w : Walk) (h : c.inRange = true) : (c.walked w).inRange = true := by
  obtain ⟨last, hlast, hoffset⟩ := Cursor.inRange_iff.1 h
  unfold Cursor.walked
  split
  · next hport =>
    simp only [Bool.and_eq_true, decide_eq_true_eq] at hport
    obtain rfl : 135 = last := Option.some.inj ((lastOffset?_port ⟨c.port, hport.2⟩).symm.trans hlast)
    have hstep : stepWithin w.down 47 c.port ≤ 47 := stepWithin_le _ (by omega)
    exact Cursor.inRange_iff.2 ⟨135, lastOffset?_port ⟨_, by omega⟩, hoffset⟩
  · rw [hlast]
    exact Cursor.inRange_iff.2 ⟨last, hlast, stepWithin_le _ hoffset⟩

theorem bindLength?_some {b : Byte} {k : Nat} (h : bindLength? b = some k) : 1 ≤ k ∧ k ≤ 32 := by
  unfold bindLength? at h
  split at h
  · next hb => exact Option.some.inj h ▸ hb
  · cases h

/-! ### Frames, for the fields of the Management Port and the Error Slot -/

section

variable {s t : State} (h : SameOutsidePorts s t)

include h

theorem SameOutsidePorts.errors : t.errors = s.errors := by rw [← show { t with ports := s.ports } = s from h]
theorem SameOutsidePorts.cursor : t.cursor = s.cursor := by rw [← show { t with ports := s.ports } = s from h]
theorem SameOutsidePorts.saved : t.saved = s.saved := by rw [← show { t with ports := s.ports } = s from h]

end

/-! ### What is kept, as one predicate -/

/-- An operation's SEARCH lies in the ports (R149). -/
def searchInPorts (x : Option Operation) : Prop := ∀ k v n m, x = some (.search k v n m) → n ≤ 48

theorem searchInPorts_none : searchInPorts none := fun _ _ _ _ h => nomatch h

theorem searchInPorts_portReset (p : Port) (b : Bool) : searchInPorts (some (.portReset p b)) :=
  fun _ _ _ _ h => nomatch h

theorem searchInPorts_search {k : SearchKind} {v n : Nat} {m : Option (Port × BitVec 16)} (hn : n ≤ 48) :
    searchInPorts (some (.search k v n m)) := by
  intro k' v' n' m' h
  cases h
  exact hn

/-- The Management Port and the Error Slot in range, and the transmit lists. -/
structure State.serialOk (s : State) : Prop where
  management : s.managementOk
  errors : s.errors.consistent
  transmit : s.transmitOk

namespace State.serialOk

variable {s t : State}

theorem withTransmit (hs : s.serialOk) (errors : t.errors = s.errors) (cursor : t.cursor = s.cursor)
    (saved : t.saved = s.saved) (bind : t.bind = s.bind) (busy : t.busy = s.busy) (ht : t.transmitOk) : t.serialOk where
  management := by
    have := hs.management
    simpa only [State.managementOk, cursor, saved, bind, busy] using this
  errors := errors ▸ hs.errors
  transmit := ht

/-- A change outside the ports, the groups, the Error Slot and the Management Port's ranges. -/
theorem elsewhere (hs : s.serialOk) (ports : t.ports = s.ports := by rfl) (groups : t.groups = s.groups := by rfl)
    (errors : t.errors = s.errors := by rfl) (cursor : t.cursor = s.cursor := by rfl)
    (saved : t.saved = s.saved := by rfl) (bind : t.bind = s.bind := by rfl) (busy : t.busy = s.busy := by rfl) :
    t.serialOk := by
  refine hs.withTransmit errors cursor saved bind busy ?_
  have := hs.transmit
  simpa only [State.transmitOk, State.port, State.group, ports, groups] using this

theorem outsidePorts (hs : s.serialOk) (h : SameOutsidePorts s t)
    (ht : ∀ p, transmitFits (s.group (groupOf p)).linked (t.port p).transmit) : t.serialOk := by
  refine hs.withTransmit h.errors h.cursor h.saved h.bind h.busy fun p => ?_
  have hgroup : t.group (groupOf p) = s.group (groupOf p) := congrArg (fun v => v[groupOf p]) h.groups
  rw [hgroup]
  exact ht p

theorem onlyPort {p : Port} (hs : s.serialOk) (h : OnlyPort p s t)
    (ht : transmitFits (s.group (groupOf p)).linked (t.port p).transmit) : t.serialOk :=
  hs.outsidePorts h.1
    (h.forall_port (P := fun q a => transmitFits (s.group (groupOf q)).linked a.transmit) ht fun q _ => hs.transmit q)

/-- A change of one port whose transmit list is handed messages, or none. -/
theorem handed {p : Port} (hs : s.serialOk) (h : OnlyPort p s t) {agreeing : Outbound} {msgs : List Outbound}
    (ht : (t.port p).transmit
      = msgs.foldl (handOne (s.group (groupOf p)).linked agreeing) (s.port p).transmit) : t.serialOk := by
  refine hs.onlyPort h ?_
  rw [ht]
  exact foldl_handOne_keepsFit agreeing msgs (hs.transmit p)

theorem sameTransmit {p : Port} (hs : s.serialOk) (h : OnlyPort p s t)
    (ht : (t.port p).transmit = (s.port p).transmit) : t.serialOk :=
  hs.handed h (agreeing := .halt) (msgs := []) ht

theorem modPort {p : Port} {f : PortState → PortState} (hs : s.serialOk)
    (hf : (f (s.port p)).transmit = (s.port p).transmit := by rfl) : (s.modPort p f).serialOk :=
  hs.sameTransmit (OnlyPort.modPort s p f) (by rw [State.port_modPort_self]; exact hf)

theorem fits (hs : s.serialOk) (g : Group) (i : GroupIndex) :
    transmitFits (s.group g).linked (s.port (portAt g i)).transmit := by
  have h := s.transmitOk_iff.1 hs.transmit (portAt g i)
  rwa [groupOf_portAt] at h

/-- A change of one group link and of its ports. -/
theorem onlyGroup {g : Group} (hs : s.serialOk) (h : OnlyGroup g s t)
    (ht : ∀ i, transmitFits (t.group g).linked (t.port (portAt g i)).transmit) : t.serialOk := by
  obtain ⟨hrest, hgroups, hports⟩ := h
  refine hs.withTransmit ?_ ?_ ?_ ?_ ?_ fun p => ?_
  iterate 5 rw [← hrest]
  by_cases hp : groupOf p = g
  · have := ht (indexOf p)
    rw [← hp, portAt_indexOf] at this
    exact this
  · rw [hgroups _ hp, hports p hp]
    exact hs.transmit p

/-! ### The shared operations -/

theorem report {c : Cause} {o : Origin} {p : Option Port} (hs : s.serialOk) : (s.report c o p).serialOk where
  management := hs.management
  errors := hs.errors.take c o p
  transmit := hs.transmit

theorem withReply {r : Vector Byte 8} (hs : s.serialOk) : (s.withReply r).serialOk := hs.elsewhere

theorem refuse {c : Cause} {p : Option Port} (hs : s.serialOk) : (s.refuse c p).serialOk :=
  serialOk.withReply hs.report

theorem setEngine {e : EngineId} {x : Engine} (hs : s.serialOk) : (s.setEngine e x).serialOk := hs.elsewhere

theorem operation {x : Option Operation} (hs : s.serialOk) (hx : searchInPorts x) :
    ({ s with busy := x } : State).serialOk where
  management := by
    obtain ⟨hcursor, hsaved, hbind, hrestore, -⟩ := hs.management
    exact ⟨hcursor, hsaved, hbind, hrestore, hx⟩
  errors := hs.errors
  transmit := hs.transmit

theorem cursorMoves {c : Cursor} (hs : s.serialOk) (hc : c.inRange = true) :
    ({ s with cursor := c } : State).serialOk where
  management := by
    obtain ⟨-, hsaved, hbind, hrestore, hsearch⟩ := hs.management
    exact ⟨hc, hsaved, hbind, hrestore, hsearch⟩
  errors := hs.errors
  transmit := hs.transmit

/-- A bind opens, restarts or counts an access (R151, R152). -/
theorem bindOf {left : Nat} (hs : s.serialOk) (hleft : 1 ≤ left ∧ left ≤ 32) :
    ({ s with bind := some { left := left, timer := bindWindow } } : State).serialOk where
  management := by
    obtain ⟨hcursor, hsaved, -, -, hsearch⟩ := hs.management
    refine ⟨hcursor, hsaved, fun b hb => ?_, fun _ => by simp, hsearch⟩
    obtain rfl := Option.some.inj hb
    exact ⟨hleft.1, hleft.2, le_rfl⟩
  errors := hs.errors
  transmit := hs.transmit

/-- An aim saves a cursor in range under the bind it opens (R154). -/
theorem aimAt {port k last : Nat} (hs : s.serialOk) (hport : lastOffset? port = some last) (hk : 1 ≤ k ∧ k ≤ 32) :
    (s.aimAt port k).serialOk where
  management := by
    obtain ⟨hcursor, hsaved, -, -, hsearch⟩ := hs.management
    refine ⟨Cursor.inRange_start hport, fun c hc => ?_, fun b hb => ?_, fun _ => ?_, hsearch⟩
    · obtain rfl := Option.some.inj hc
      cases hold : s.saved with
      | none => exact hcursor
      | some c => exact hsaved c hold
    · obtain rfl := Option.some.inj hb
      exact ⟨hk.1, hk.2, le_rfl⟩
    · exact Option.some_ne_none _
  errors := hs.errors
  transmit := hs.transmit

theorem event {host : Bool} {p : Port} {out : TcEffect} {sched : SchedFields} (hs : s.serialOk) :
    (s.event host p out sched).serialOk :=
  hs.handed (State.event_onlyPort s host p out sched) (by rw [State.event_port]; rfl)

theorem tcEvent {host : Bool} {p : Port} {out : TcEffect} (hs : s.serialOk) : (s.tcEvent host p out).serialOk :=
  hs.event

theorem schedEvent {host : Bool} {p : Port} {sched : SchedFields} (hs : s.serialOk) :
    (s.schedEvent host p sched).serialOk := hs.event

theorem commit {p : Port} {r : LineRecord} (hs : s.serialOk) : (s.commit p r).serialOk :=
  hs.sameTransmit (State.commit_onlyPort s p r) (by rw [State.commit_port])

theorem submit {host : Bool} {p : Port} {u : Update} (hs : s.serialOk) : (s.submit host p u).serialOk :=
  hs.sameTransmit (State.submit_onlyPort s host p u) (by rw [State.submit_port]; rfl)

theorem setInbox {p : Port} {box : Inbox} (hs : s.serialOk) : (s.setInbox p box).serialOk := hs.modPort

theorem portResetUpdate {p : Port} {aborted : Bool} (hs : s.serialOk) : (s.portResetUpdate p aborted).serialOk := by
  obtain ⟨honly, hhanded, -⟩ := State.portResetUpdate_leaves s p aborted
  exact hs.handed honly hhanded

theorem completePortReset {p : Port} {aborted : Bool} (hs : s.serialOk) : (s.completePortReset p aborted).serialOk :=
  operation (withReply hs.portResetUpdate) searchInPorts_none

theorem offerPlaceTo {host : Bool} (l : List Port) (hs : s.serialOk) : (s.offerPlaceTo host l).serialOk := by
  induction l generalizing s with
  | nil => exact hs
  | cons p rest ih =>
    unfold State.offerPlaceTo
    dsimp only
    split
    · split
      · exact schedEvent hs.elsewhere
      · exact ih hs.schedEvent
    · exact ih hs

theorem offerPlace {host : Bool} (hs : s.serialOk) : (s.offerPlace host).serialOk := hs.offerPlaceTo allPorts

/-- The end of a bind puts a saved cursor back, and leaves none saved (R21, R152, R154). -/
theorem endBind (hs : s.serialOk) : s.endBind.serialOk := by
  have hclosed : ({ s with bind := none, cursor := s.saved.getD s.cursor, saved := none } : State).serialOk := by
    obtain ⟨hcursor, hsaved, -, -, hsearch⟩ := hs.management
    refine ⟨⟨?_, fun c hc => (nomatch hc), fun b hb => (nomatch hb), fun h => absurd rfl h, hsearch⟩, hs.errors,
      hs.transmit⟩
    cases hold : s.saved with
    | none => exact hcursor
    | some c => exact hsaved c hold
  have hended : s.bindEnded.serialOk := by
    refine hclosed.outsidePorts s.bindEnded_outside fun p => ?_
    rw [State.port_bindEnded, PortState.applyWaiting_rest]
    exact hs.transmit p
  rw [State.endBind_eq]
  unfold State.finishSuspendedReset
  split
  · exact hended.completePortReset
  · exact hended

theorem countAccess (hs : s.serialOk) : s.countAccess.serialOk := by
  obtain ⟨-, -, hbind, -⟩ := hs.management
  unfold State.countAccess
  split
  · exact hs
  · next b hb =>
    obtain ⟨-, hmax, -⟩ := hbind b hb
    split
    · exact hs.endBind
    · exact hs.bindOf (by omega)

/-- A device reset leaves the whole part at its reset values, but for the operation under way (R159). -/
theorem of_reset (hports : t.ports = State.reset.ports) (herrors : t.errors = .empty)
    (hcursor : t.cursor = { port := 0, offset := 0 }) (hsaved : t.saved = none) (hbind : t.bind = none)
    (hbusy : searchInPorts t.busy) : t.serialOk where
  management := by
    refine ⟨by rw [hcursor]; rfl, by simp [hsaved], by simp [hbind], fun h => absurd hsaved h, hbusy⟩
  errors := by
    rw [herrors]
    exact ⟨fun h => absurd rfl h, fun h => nomatch h⟩
  transmit p := by
    rw [State.port_of_ports hports, State.reset_port]
    exact ⟨Nat.zero_le _, fun _ => rfl⟩

theorem beginDeviceReset (s : State) : s.beginDeviceReset.serialOk :=
  of_reset rfl rfl rfl rfl rfl fun _ _ _ _ h => nomatch h

/-! ### The Line Signal Link -/

theorem hear (hs : s.serialOk) (g : Group) : (s.hear g).serialOk := by
  refine hs.onlyGroup (s.hear_onlyGroup g) fun i => ?_
  have hfits := hs.fits g i
  rw [State.group_hear]
  cases hl : (s.group g).linked with
  | true =>
    rw [s.port_hear_linked g hl]
    exact ⟨hfits.1, fun h => nomatch h⟩
  | false =>
    rw [hl] at hfits
    rw [s.port_hear_silent g hl]
    exact transmitFits_relinked hfits _

theorem receiveFrame (hs : s.serialOk) (g : Group) (bytes : List Byte) : (receiveFrame g bytes s).serialOk := by
  unfold Machine.receiveFrame
  split
  · exact hs
  · split
    · exact hs.hear g
    · exact (hs.hear g).modPort

theorem silenceExpiryOf (hs : s.serialOk) (g : Group) : (silenceExpiryOf g s).serialOk := by
  unfold Machine.silenceExpiryOf
  split
  · show (s.changeGroup g PortState.silenced { s.group g with linked := false, silence := none }).serialOk
    refine hs.onlyGroup (s.changeGroup_onlyGroup g _ _) fun i => ?_
    rw [State.port_changeGroup]
    exact ⟨Nat.zero_le _, fun _ => rfl⟩
  · exact hs

/-- A group link that goes on LINKED or SILENT as it was. -/
theorem setGroup {g : Group} {x : GroupLink} (hs : s.serialOk) (hl : x.linked = (s.group g).linked) :
    (s.setGroup g x).serialOk := by
  refine hs.onlyGroup (OnlyGroup.setGroup s g x) fun i => ?_
  have hfits := hs.fits g i
  rw [State.group_setGroup_self, State.port_setGroup, hl]
  exact hfits

theorem idleFrameSendOf (hs : s.serialOk) (g : Group) : (idleFrameSendOf g s).serialOk := by
  unfold Machine.idleFrameSendOf
  split
  · exact hs.setGroup rfl
  · exact hs

theorem transmitMessageOf (hs : s.serialOk) (g : Group) : (transmitMessageOf g s).serialOk := by
  unfold Machine.transmitMessageOf
  split
  · exact hs
  · split
    · exact hs
    · next i _ =>
      split
      · exact hs
      · next m rest hm =>
        refine setGroup (s := s.modPort (portAt g i) fun ps => { ps with transmit := rest }) ?_ rfl
        refine hs.onlyPort (OnlyPort.modPort s (portAt g i) _) ?_
        have hfits := hs.transmit (portAt g i)
        rw [hm] at hfits
        rw [State.port_modPort_self]
        exact transmitFits_tail hfits

/-! ### The Training Controller and the Line Guard -/

theorem stopOnPower {p : Port} {e : EngineId} (hs : s.serialOk) : (s.stopOnPower p e).serialOk := by
  unfold State.stopOnPower
  split
  · exact report hs.setEngine
  · exact hs

/-- A message of the inbox taken by the Training Controller alone. -/
theorem message {p : Port} {box : Inbox} {out : TcEffect} (hs : s.serialOk) :
    ((s.setInbox p box).tcEvent false p out).serialOk := tcEvent hs.setInbox

theorem takePowerAt (hs : s.serialOk) (p : Port) : (takePowerAt p s).serialOk := by
  unfold Machine.takePowerAt
  split
  · split
    · dsimp only
      split
      · exact tcEvent (stopOnPower hs.setInbox)
      · exact hs.message
    · exact hs
  · exact hs

theorem takeDetachedAt (hs : s.serialOk) (p : Port) : (takeDetachedAt p s).serialOk := by
  unfold Machine.takeDetachedAt
  split
  · dsimp only
    split
    · split
      · exact setEngine hs.setInbox
      · exact hs.setInbox
    · exact hs.setInbox
  · exact hs

theorem takeEnergyAt (hs : s.serialOk) (p : Port) : (takeEnergyAt p s).serialOk := by
  unfold Machine.takeEnergyAt
  split
  · split
    · exact hs.message
    · exact hs
  · exact hs

theorem takeLostAt (hs : s.serialOk) (p : Port) : (takeLostAt p s).serialOk := by
  unfold Machine.takeLostAt
  split
  · exact hs.message
  · exact hs

theorem takeResultPassAt (hs : s.serialOk) (p : Port) : (takeResultPassAt p s).serialOk := by
  unfold Machine.takeResultPassAt
  split
  · split
    · exact hs.message
    · exact hs
  · exact hs

theorem takeResultFailAt (hs : s.serialOk) (p : Port) : (takeResultFailAt p s).serialOk := by
  unfold Machine.takeResultFailAt
  split
  · split
    · exact hs.message
    · exact hs
  · exact hs

theorem takePageAt (hs : s.serialOk) (p : Port) : (takePageAt p s).serialOk := by
  unfold Machine.takePageAt
  split
  · split
    · exact hs.message
    · exact hs
  · exact hs

theorem listenExpiryAt (hs : s.serialOk) (p : Port) : (listenExpiryAt p s).serialOk := by
  unfold Machine.listenExpiryAt
  split
  · exact hs.tcEvent
  · exact hs

theorem trainExpiryAt (hs : s.serialOk) (p : Port) : (trainExpiryAt p s).serialOk := by
  unfold Machine.trainExpiryAt
  split
  · exact hs.tcEvent
  · exact hs

theorem takeWithdrawAt (hs : s.serialOk) (p : Port) : (takeWithdrawAt p s).serialOk := by
  unfold Machine.takeWithdrawAt
  split
  · exact tcEvent hs.modPort
  · exact hs

theorem recordSource {p : Port} {f : Firing} (hs : s.serialOk) : (s.recordSource p f).serialOk := by
  unfold State.recordSource
  split
  · exact hs
  · split
    · exact hs
    · exact submit hs.modPort

theorem takeFiring {p : Port} {f : Firing} (hs : s.serialOk) : (s.takeFiring p f).serialOk := by
  unfold State.takeFiring
  split
  · exact hs.recordSource
  · exact modPort hs.recordSource

theorem guardFiringAt (hs : s.serialOk) (p : Port) : (guardFiringAt p s).serialOk := by
  unfold Machine.guardFiringAt
  split
  · exact takeFiring hs.modPort
  · exact hs

/-! ### The Probe Scheduler and the engines -/

theorem takeAutoProbe {p : Port} (hs : s.serialOk) : (s.takeAutoProbe p).serialOk := by
  unfold State.takeAutoProbe
  dsimp only
  split
  · exact hs
  · split
    · exact hs.elsewhere
    · split
      · exact hs
      · split
        · exact schedEvent hs.elsewhere
        · exact hs.schedEvent

theorem autoProbeRequestAt (hs : s.serialOk) (p : Port) : (autoProbeRequestAt p s).serialOk := by
  unfold Machine.autoProbeRequestAt
  split
  · exact hs
  · exact takeAutoProbe hs.modPort

theorem endSuspended {host : Bool} {p : Port} {cause : Ending} {ctx : Suspended} (hs : s.serialOk) :
    (s.endSuspended host p cause ctx).serialOk :=
  offerPlace (event (s := s.dropEntry p) hs.elsewhere)

theorem takePowerNotice {p : Port} (hs : s.serialOk) : (s.takePowerNotice p).serialOk := by
  unfold State.takePowerNotice
  split
  · exact hs.stopOnPower
  · split
    · split
      · exact endSuspended hs.report
      · exact hs
    · exact hs

theorem powerNoticeAt (hs : s.serialOk) (p : Port) : (powerNoticeAt p s).serialOk := by
  have hcleared : (s.modPort p fun ps => { ps with powerNotice := false }).serialOk := hs.modPort
  unfold Machine.powerNoticeAt
  split
  · dsimp only
    split
    · exact hcleared.takePowerNotice
    · exact hcleared
  · exact hs

theorem lendTo {e : EngineId} {r : Run} (hs : s.serialOk) : (s.lendTo e r).serialOk :=
  event (modPort (s := s.assignEngine e (.attaching r detachWait)) hs.elsewhere)

theorem abortPowered {r : Run} (hs : s.serialOk) : (s.abortPowered r).serialOk := offerPlace hs.schedEvent

theorem dispatchHead (hs : s.serialOk) : (dispatchHead s).serialOk := by
  unfold Machine.dispatchHead
  split
  · exact hs
  · split
    · split
      · exact hs
      · dsimp only
        split
        · exact abortPowered hs.elsewhere
        · exact offerPlace (lendTo hs.elsewhere)
    · exact hs

theorem resumeHead (hs : s.serialOk) : (resumeHead s).serialOk := by
  unfold Machine.resumeHead
  split
  · exact hs
  · split
    · split
      · exact hs
      · split
        · exact hs
        · exact schedEvent hs.elsewhere
    · exact hs

theorem preemptForHead (hs : s.serialOk) : (preemptForHead s).serialOk := by
  unfold Machine.preemptForHead
  split
  · exact hs
  · split
    · split
      · exact hs
      · split
        · exact hs
        · dsimp only
          split
          · exact abortPowered hs.elsewhere
          · exact schedEvent (lendTo hs.elsewhere)
    · exact hs

theorem waitExpiryOf (hs : s.serialOk) (e : EngineId) : (waitExpiryOf e s).serialOk := by
  unfold Machine.waitExpiryOf
  split
  · exact report hs.setEngine
  · exact hs

theorem sweepCompletionOf (hs : s.serialOk) (e : EngineId) (echoes : List Echo) :
    (sweepCompletionOf e echoes s).serialOk := by
  unfold Machine.sweepCompletionOf
  split
  · exact hs.setEngine
  · exact hs

/-! ### Endings -/

theorem reconcile {p : Port} {completed : List PairResult} (hs : s.serialOk) : (s.reconcile p completed).serialOk := by
  unfold State.reconcile
  dsimp only
  split
  · exact report hs.commit
  · exact hs.commit

theorem takeRunEdges {p : Port} {edges : List GuardSource} (hs : s.serialOk) : (s.takeRunEdges p edges).serialOk := by
  unfold State.takeRunEdges
  split
  · exact tcEvent hs.recordSource
  · exact hs.recordSource

theorem releaseEngine {e : EngineId} (hs : s.serialOk) : (s.releaseEngine e).serialOk := hs.elsewhere

theorem takeEndingCompleteOf (hs : s.serialOk) (e : EngineId) : (takeEndingCompleteOf e s).serialOk := by
  unfold Machine.takeEndingCompleteOf
  split
  · split
    · exact hs
    · exact event (releaseEngine (takeRunEdges hs.reconcile))
  · exact hs

theorem takeEndingAbortedOf (hs : s.serialOk) (e : EngineId) : (takeEndingAbortedOf e s).serialOk := by
  unfold Machine.takeEndingAbortedOf
  split
  · split
    · exact hs
    · exact hs
    · split
      · exact hs
      · exact event hs.releaseEngine
  · exact hs

theorem takeEndingResetOf (hs : s.serialOk) (e : EngineId) : (takeEndingResetOf e s).serialOk := by
  rcases takeEndingResetOf_cases e s with h | ⟨r, -, -, h⟩ <;> rw [h]
  · exact hs
  · exact completePortReset hs.releaseEngine

/-! ### The SEARCH scan and the expiry of a bind -/

theorem scanExamine (hs : s.serialOk) : (scanExamine s).serialOk := by
  unfold Machine.scanExamine
  split
  · next k v next hb =>
    split
    · next p hp =>
      have hnext : next = p.val := portOf?_some hp
      dsimp only
      split <;> exact hs.operation (searchInPorts_search (by omega))
    · exact hs
  · exact hs

theorem searchCompleteOf (hs : s.serialOk) : (searchCompleteOf s).serialOk := by
  unfold Machine.searchCompleteOf
  split
  · next p g hb =>
    exact withReply (cursorMoves (hs.operation searchInPorts_none) (Cursor.inRange_start (lastOffset?_port p)))
  · split
    · exact withReply (hs.operation searchInPorts_none)
    · exact hs
  · exact hs

theorem bindExpiryOf (hs : s.serialOk) : (bindExpiryOf s).serialOk := by
  unfold Machine.bindExpiryOf
  split
  · split
    · exact endBind hs.report
    · exact hs
  · exact hs

theorem resetnFalls (hs : s.serialOk) : (resetnFalls s).serialOk := by
  unfold Machine.resetnFalls
  split
  · exact elsewhere (beginDeviceReset s)
  · exact hs

theorem deviceResetCompletes (hs : s.serialOk) : (deviceResetCompletes s).serialOk := by
  unfold Machine.deviceResetCompletes
  split
  · exact of_reset rfl rfl rfl rfl rfl searchInPorts_none
  · exact hs

/-! ### The host's commands -/

theorem setCursorCommand (hs : s.serialOk) (port offset : Byte) : (setCursorCommand port offset s).serialOk := by
  unfold Machine.setCursorCommand
  dsimp only
  split
  · next hc => exact withReply (hs.cursorMoves hc)
  · exact hs.refuse

theorem setWalkCommand (hs : s.serialOk) (mode : Byte) : (setWalkCommand mode s).serialOk := by
  unfold Machine.setWalkCommand
  split
  · exact hs.elsewhere
  · exact hs.refuse

theorem setPageCommand (hs : s.serialOk) (page : Byte) : (setPageCommand page s).serialOk := by
  unfold Machine.setPageCommand
  split
  · exact hs.elsewhere
  · exact hs.refuse

theorem bindCommand (hs : s.serialOk) (n : Byte) : (bindCommand n s).serialOk := by
  unfold Machine.bindCommand
  split
  · next hk => exact withReply (hs.bindOf (bindLength?_some hk))
  · exact countAccess hs.refuse

theorem aimCommand (hs : s.serialOk) (port n : Byte) : (aimCommand port n s).serialOk := by
  unfold Machine.aimCommand
  split
  · next hlast hk => exact withReply (hs.aimAt hlast (bindLength?_some hk))
  · exact countAccess hs.refuse

theorem clearErrorCommand (hs : s.serialOk) : (clearErrorCommand s).serialOk where
  management := hs.management
  errors := ⟨fun h => absurd rfl h, fun h => nomatch h⟩
  transmit := hs.transmit

theorem takeChangeCommand (hs : s.serialOk) : (takeChangeCommand s).serialOk := by
  unfold Machine.takeChangeCommand
  split
  · exact withReply hs.modPort
  · exact hs.withReply

theorem searchCommand (hs : s.serialOk) (kind value start : Byte) : (searchCommand kind value start s).serialOk := by
  unfold Machine.searchCommand
  split
  · exact hs.refuse
  · split
    · split
      · exact hs.operation (searchInPorts_search (by omega))
      · exact hs.refuse
    · exact hs.refuse

theorem onPort {f : Port → State → State} (hs : s.serialOk) (portByte : Byte) (hf : ∀ p, (f p s).serialOk) :
    (onPort portByte f s).serialOk := by
  unfold Machine.onPort
  split
  · exact hf _
  · exact hs.refuse

theorem machineCommand {p : Port} {out : TcEffect} (hs : s.serialOk) : (s.machineCommand p out).serialOk :=
  withReply hs.tcEvent

theorem restartPort (hs : s.serialOk) (p : Port) : (restartPort p s).serialOk := by
  unfold Machine.restartPort
  split
  · exact hs.machineCommand
  · exact hs.refuse

theorem probePort (hs : s.serialOk) (p : Port) (pairs : PairSet) (cls : ReqClass) :
    (probePort p pairs cls s).serialOk := by
  unfold Machine.probePort
  dsimp only
  split
  · exact hs.refuse
  · split
    · exact hs.refuse
    · split
      · exact hs.refuse
      · split
        · exact hs.elsewhere
        · split
          · exact hs.refuse
          · split <;> exact withReply (schedEvent hs.elsewhere)

theorem probeCommand (hs : s.serialOk) (portByte pairByte classByte : Byte) :
    (probeCommand portByte pairByte classByte s).serialOk := by
  unfold Machine.probeCommand
  split
  · exact hs.refuse
  · split
    · exact hs.refuse
    · split
      · exact hs.refuse
      · exact hs.probePort _ _ _

theorem cancelPort (hs : s.serialOk) (p : Port) : (cancelPort p s).serialOk := by
  unfold Machine.cancelPort
  refine withReply ?_
  split
  · exact hs.setEngine
  · split
    · split
      · exact hs.endSuspended
      · exact offerPlace (schedEvent (s := s.dropEntry p) hs.elsewhere)
    · split
      · exact hs.schedEvent
      · exact hs

theorem resetScheduling (hs : s.serialOk) (p : Port) : (s.resetScheduling p).serialOk := by
  have hcleared : (s.modPort p PortState.clearWanted).serialOk :=
    hs.modPort (by unfold PortState.clearWanted; split <;> rfl)
  unfold State.resetScheduling
  dsimp only
  split
  · exact hcleared.setEngine
  · split
    · exact offerPlace (s := (s.modPort p PortState.clearWanted).dropEntry p) hcleared.elsewhere
    · exact hcleared

theorem portResetPort (hs : s.serialOk) (p : Port) : (portResetPort p s).serialOk := by
  have hscheduled := hs.resetScheduling p
  rcases portResetPort_cases p s with ⟨b, h⟩ | ⟨b, h⟩ <;> rw [h]
  · exact hscheduled.completePortReset
  · exact operation (hscheduled.modPort (f := PortState.discardWaiting)) (searchInPorts_portReset p b)

theorem changeFindings {p : Port} {r : LineRecord} (hs : s.serialOk) : (s.changeFindings p r).serialOk := by
  unfold State.changeFindings
  dsimp only
  split
  · exact hs.commit
  · exact modPort hs.commit

theorem retireCommand (hs : s.serialOk) (portByte indexByte : Byte) :
    (retireCommand portByte indexByte s).serialOk := by
  unfold Machine.retireCommand
  split
  · exact hs.refuse
  · dsimp only
    split
    · exact withReply hs.changeFindings
    · exact hs.refuse

theorem clearFindingsCommand (hs : s.serialOk) (portByte : Byte) : (clearFindingsCommand portByte s).serialOk := by
  unfold Machine.clearFindingsCommand
  split
  · exact hs.refuse
  · exact withReply hs.changeFindings

theorem performCommand (hs : s.serialOk) (c : HostCommand) : (performCommand c s).serialOk := by
  cases c with
  | bind n => exact hs.bindCommand n
  | aim port n => exact hs.aimCommand port n
  | deviceReset => exact beginDeviceReset s
  | setCursor port offset => exact countAccess (hs.setCursorCommand port offset)
  | setWalk mode => exact countAccess (hs.setWalkCommand mode)
  | setPage page => exact countAccess (hs.setPageCommand page)
  | readError => exact countAccess hs.withReply
  | clearError => exact countAccess hs.clearErrorCommand
  | takeChange => exact countAccess hs.takeChangeCommand
  | search kind value start => exact countAccess (hs.searchCommand kind value start)
  | park port => exact countAccess (hs.onPort port fun _ => hs.machineCommand)
  | unpark port => exact countAccess (hs.onPort port fun _ => hs.machineCommand)
  | restart port => exact countAccess (hs.onPort port hs.restartPort)
  | rearm port => exact countAccess (hs.onPort port fun _ => hs.machineCommand)
  | portReset port => exact countAccess (hs.onPort port hs.portResetPort)
  | probe port pairs cls => exact countAccess (hs.probeCommand port pairs cls)
  | cancel port => exact countAccess (hs.onPort port hs.cancelPort)
  | retire port index => exact countAccess (hs.retireCommand port index)
  | clearFindings port => exact countAccess (hs.clearFindingsCommand port)

theorem commandWrite (hs : s.serialOk) (bytes : List Byte) : (commandWrite bytes s).serialOk := by
  have ht : ({ s with transfer := none } : State).serialOk := hs.elsewhere
  unfold Machine.commandWrite
  dsimp only
  split
  · exact ht
  · exact ht.countAccess
  · exact countAccess ht.refuse
  · unfold carryOut
    split
    · exact ht.performCommand _
    · exact countAccess ht.refuse
    · exact countAccess ht.refuse

/-! ### Data bytes and status reads -/

theorem raiseOnce {x : Transfer} {c : Cause} {p : Option Port} (hs : s.serialOk) : (s.raiseOnce x c p).serialOk := by
  unfold State.raiseOnce
  split
  · exact hs
  · exact elsewhere (hs.report (c := c) (o := .command) (p := p))

theorem shiftOut {b : Byte} (hs : s.serialOk) : (s.shiftOut b).serialOk := hs.elsewhere

theorem walkCursor (hs : s.serialOk) : s.walkCursor.serialOk :=
  hs.cursorMoves (Cursor.inRange_walked s.walk hs.management.1)

theorem dataReadByte (hs : s.serialOk) : (dataReadByte s).serialOk := by
  unfold Machine.dataReadByte
  split
  · split
    · exact hs
    · unfold readByteAs
      split
      · exact countAccess (walkCursor hs.elsewhere)
      · exact countAccess (shiftOut hs.raiseOnce)
      · exact countAccess hs.shiftOut
      · exact hs.shiftOut
  · exact hs

theorem dataReadPart (hs : s.serialOk) (part : ReadPart) : (dataReadPart part s).serialOk := by
  cases part with
  | control => exact hs.elsewhere
  | fetch =>
    unfold Machine.dataReadPart fetchReadByte
    dsimp only
    split
    · split
      · exact hs
      · exact hs.elsewhere
    · exact hs
  | byte => exact hs.dataReadByte

theorem writeByteEffect (hs : s.serialOk) (x : Transfer) (b : Byte) : (writeByteEffect x b s).serialOk := by
  unfold Machine.writeByteEffect
  split
  case h_1 | h_2 => exact hs.raiseOnce
  case h_3 | h_4 | h_5 => exact hs.elsewhere
  case h_6 | h_7 | h_8 => exact hs.commit

theorem dataWriteByte (hs : s.serialOk) (b : Byte) : (dataWriteByte b s).serialOk := by
  unfold Machine.dataWriteByte
  split
  · split
    · unfold writeByteAs
      split
      · exact countAccess (walkCursor (hs.writeByteEffect _ b))
      · exact countAccess hs.raiseOnce
      · exact hs.countAccess
      · exact hs
    · exact hs
  · exact hs

theorem dataWritePart (hs : s.serialOk) (part : WritePart) : (dataWritePart part s).serialOk := by
  cases part with
  | control => exact hs.elsewhere
  | byte b => exact hs.dataWriteByte b

theorem statusReadBytes (hs : s.serialOk) (n : Nat) : (statusReadBytes n s).serialOk := by
  unfold Machine.statusReadBytes
  split <;> exact hs.elsewhere

theorem bindCountEndBy (hs : s.serialOk) (a : Access) : (bindCountEndBy a s).serialOk := by
  unfold Machine.bindCountEndBy
  split
  · cases a with
    | command bytes => exact hs.commandWrite bytes
    | readByte => exact hs.dataReadByte
    | writeByte b => exact hs.dataWriteByte b
  · exact hs

theorem execHost {c : Instr} (hs : s.serialOk) (hc : isHost c = true) (he : exec c s = .next t) : t.serialOk := by
  rcases isHost_cases hc with ⟨bytes, hb⟩ | ⟨a, rfl⟩ | ⟨n, rfl⟩ | ⟨part, rfl⟩ | ⟨part, rfl⟩
  · rw [exec_command hb] at he
    cases he
    exact hs.commandWrite bytes
  · cases he; exact hs.bindCountEndBy a
  · cases he; exact hs.statusReadBytes n
  · cases he; exact hs.dataReadPart part
  · cases he; exact hs.dataWritePart part

/-- The commands that are not the host's. -/
theorem execOther {c : Instr} (hs : s.serialOk) (hc : isHost c = false) (he : exec c s = .next t) : t.serialOk := by
  cases c <;> simp only [isHost, Bool.true_eq_false] at hc <;> cases he
  case frameReceive => exact hs.receiveFrame _ _
  case silenceExpiry => exact hs.silenceExpiryOf _
  case idleFrameSend => exact hs.idleFrameSendOf _
  case transmitMessage => exact hs.transmitMessageOf _
  case takePower => exact hs.takePowerAt _
  case takeDetached => exact hs.takeDetachedAt _
  case takeEnergy => exact hs.takeEnergyAt _
  case takeLost => exact hs.takeLostAt _
  case takeResultPass => exact hs.takeResultPassAt _
  case takeResultFail => exact hs.takeResultFailAt _
  case takePage => exact hs.takePageAt _
  case listenExpiry => exact hs.listenExpiryAt _
  case trainExpiry => exact hs.trainExpiryAt _
  case takeWithdraw => exact hs.takeWithdrawAt _
  case guardFiring => exact hs.guardFiringAt _
  case autoProbeRequest => exact hs.autoProbeRequestAt _
  case powerNotice => exact hs.powerNoticeAt _
  case dispatch => exact hs.dispatchHead
  case resumption => exact hs.resumeHead
  case preemption => exact hs.preemptForHead
  case waitExpiry => exact hs.waitExpiryOf _
  case sweepCompletion => exact hs.sweepCompletionOf _ _
  case takeEndingComplete => exact hs.takeEndingCompleteOf _
  case takeEndingAborted => exact hs.takeEndingAbortedOf _
  case takeEndingReset => exact hs.takeEndingResetOf _
  case bindExpiry => exact hs.bindExpiryOf
  case searchComplete => exact hs.searchCompleteOf
  case scanExamineRecord => exact hs.scanExamine
  case resetnAssert => exact hs.resetnFalls
  case resetnRelease => exact hs.elsewhere
  case powerUp => exact beginDeviceReset s
  case deviceResetComplete => exact hs.deviceResetCompletes

theorem exec {c : Instr} (hs : s.serialOk) (he : exec c s = .next t) : t.serialOk := by
  cases hc : isHost c with
  | true => exact hs.execHost hc he
  | false => exact hs.execOther hc he

/-- A tick only lowers the bind's timer. -/
theorem tick (hs : s.serialOk) : (tick s).serialOk where
  management := by
    obtain ⟨hcursor, hsaved, hbind, hrestore, hsearch⟩ := hs.management
    refine ⟨hcursor, hsaved, fun b hb => ?_, fun h => by simpa [Machine.tick] using hrestore h, hsearch⟩
    obtain ⟨b', hb', rfl⟩ := Option.map_eq_some_iff.1 hb
    obtain ⟨hmin, hmax, htimer⟩ := hbind b' hb'
    exact ⟨hmin, hmax, (Nat.sub_le _ 1).trans htimer⟩
  errors := hs.errors
  transmit p := by
    rw [port_tick, group_tick]
    exact hs.transmit p

end State.serialOk

/-- Settles O56: every command and a tick keep the three invariants together. -/
theorem everyStepKeepsTheSerialSideInRange : Obligations.EveryStepKeepsTheSerialSideInRange := by
  intro s t hmanagement herrors htransmit h
  have ht : t.serialOk :=
    step_keeps (I := State.serialOk) (fun he hs => hs.exec he) (fun hs => hs.tick) (fun _ hs => hs.elsewhere) h
      ⟨hmanagement, herrors, htransmit⟩
  exact ⟨ht.management, ht.errors, ht.transmit⟩

end Sys2Proof.Machine

end

section

namespace Sys2Proof.Machine

/-! ## The machine of a port in the words of the statements (R41 to R63) -/

namespace PortMachine

section

variable (m : PortMachine) (c : TcContext)

/-! ### Advertising, DARK and attempts (R45 to R49) -/

theorem advertise_eq (halted : Bool) : m.advertise c halted = m.advertised (m.offered c) c.listenMs halted := by
  unfold advertise advertised
  split_ifs <;> rfl

theorem darkRule_of_energy {m : PortMachine} (h : m.f.energy = true) (c : TcContext) (halted : Bool) :
    m.darkRule c halted = m.advertised (m.offered c) c.listenMs halted := by
  rw [darkRule, if_pos h, advertise_eq]
  rfl

theorem darkRule_of_no_energy {m : PortMachine} (h : m.f.energy = false) (c : TcContext) (halted : Bool) :
    m.darkRule c halted = (m.stoppedIn .dark, []) := by
  simp [darkRule, h, leaveAttempt, toMode, stoppedIn]

@[simp] theorem advertised_skew (e : RateSet) (listenMs : Nat) (halted : Bool) :
    (m.advertised e listenMs halted).1.f.skew = m.f.skew := by
  unfold advertised
  split_ifs <;> rfl

end

section

variable {m : PortMachine} {c : TcContext}

/-! ### ENERGY and LOST (R42, R54) -/

theorem takeEnergy_absent_of_live (h : m.f.mode ∈ [Mode.listen, .train, .up]) :
    m.takeEnergy c false
      = .of (stoppedIn .dark { m with f := { m.f with energy := false, partner := none } }) [.halt] := by
  simp only [List.mem_cons, List.not_mem_nil, or_false] at h
  rcases h with h | h | h <;> simp only [takeEnergy, h] <;> rfl

theorem takeEnergy_absent_of_not_live (h : m.f.mode ∉ [Mode.listen, .train, .up]) :
    m.takeEnergy c false = .of { m with f := { m.f with energy := false, partner := none } } [] := by
  cases hmode : m.f.mode <;> simp_all [takeEnergy]

theorem takeEnergy_present_of_dark (h : m.f.mode = .dark) :
    let lit : PortMachine := { m with f := { m.f with energy := true } }
    let next := lit.advertised (m.offered c) c.listenMs false
    m.takeEnergy c true = .of next.1 next.2 := by
  simp only [takeEnergy, h, if_true]
  rw [darkRule_of_energy rfl]
  rfl

theorem takeEnergy_present_of_not_dark (h : m.f.mode ≠ .dark) :
    m.takeEnergy c true = .of { m with f := { m.f with energy := true } } [] := by
  cases hmode : m.f.mode <;> simp_all [takeEnergy]

theorem takeLost_of_energy (h : m.f.mode = .up) (he : m.f.energy = true) :
    let next := m.advertised (m.offered c) c.listenMs true
    m.takeLost c = .of next.1 (.halt :: next.2) := by
  simp only [takeLost, h, he, if_true, advertise_eq]

theorem takeLost_of_no_energy (h : m.f.mode = .up) (he : m.f.energy = false) :
    m.takeLost c = .of (m.stoppedIn .dark) [.halt] := by
  simp only [takeLost, h, he, Bool.false_eq_true, if_false]
  rfl

/-! ### Failed attempts (R49 to R51) -/

/-- The machine with the rate it trained at struck, and AUTO-SPENT where the strike requests an auto-probe (R51). -/
def struckAt (auto : Bool) (rate : Rate) (m : PortMachine) : PortMachine :=
  { m with f := { m.f with struck := m.f.struck ||| rateBit rate, attempts := 0, autoSpent := m.f.autoSpent || auto } }

/-- The event of a strike: DOWNSHIFT fires, and an auto-probe may be requested (R51). -/
def strikeEvent (auto : Bool) (m : PortMachine) (msgs : List Outbound) : TcEffect :=
  { TcEffect.of m msgs with firings := [.source .downshift], autoProbe := auto }

theorem failAttempt_repeats {rate : Rate} (h : m.f.mode = .train) (hr : m.f.resolved = some rate)
    (ht : m.f.attempts + 1 < c.tries) :
    m.failAttempt c = .of (m.training rate (m.f.attempts + 1)) [.start rate] := by
  simp only [failAttempt, h, hr, if_pos ht]
  rfl

theorem failAttempt_counts_anew {rate : Rate} (h : m.f.mode = .train) (hr : m.f.resolved = some rate)
    (ht : c.tries ≤ m.f.attempts + 1) (hs : mayShift c.rights = false) :
    m.failAttempt c = .of (m.training rate 0) [.start rate] := by
  simp only [failAttempt, h, hr, if_neg (Nat.not_lt.2 ht), hs, Bool.false_eq_true, if_false]
  rfl

theorem failAttempt_strikes {rate : Rate} (h : m.f.mode = .train) (hr : m.f.resolved = some rate)
    (ht : c.tries ≤ m.f.attempts + 1) (hs : mayShift c.rights = true) : m.failAttempt c = m.strike c rate := by
  simp only [failAttempt, h, hr, if_neg (Nat.not_lt.2 ht), hs, if_true]

theorem strike_withdraws (rate : Rate) (hg : sourceIn .downshift c.guardMask = true) (ha : m.f.armed = true) :
    let auto := mayAuto c.rights && !m.f.autoSpent
    let held := (m.struckAt auto rate).heldFor .downshift
    m.strike c rate = strikeEvent auto { held with f := { held.f with armed := false } } [.halt] := by
  simp only [strike, hg, ha, Bool.and_self, if_true]
  rfl

theorem strike_advertises (rate : Rate) (h : sourceIn .downshift c.guardMask = false ∨ m.f.armed = false) :
    let auto := mayAuto c.rights && !m.f.autoSpent
    let struck := m.struckAt auto rate
    let next := struck.advertised (struck.offered c) c.listenMs false
    m.strike c rate = strikeEvent auto next.1 next.2 := by
  have hkeeps : (sourceIn .downshift c.guardMask && m.f.armed) = false := by
    rcases h with h | h <;> simp [h]
  simp only [strike, hkeeps, Bool.false_eq_true, if_false, advertise_eq]
  rfl

/-! ### PAGE and the listen timer (R46 to R48, R53) -/

theorem takePage_starts {rate : Rate} {rates : RateSet} (h : m.f.mode ∈ [Mode.listen, .train, .up])
    (hbest : highestRate (m.offered c &&& rates) = some rate) :
    let first : List Outbound := if decide (m.f.mode = .up) then [.halt] else []
    m.takePage c rates =
      .of (training rate 0 { m with f := { m.f with partner := some rates } }) (first ++ [.start rate]) := by
  simp only [List.mem_cons, List.not_mem_nil, or_false] at h
  rcases h with h | h | h <;> simp only [takePage, h, hbest] <;> rfl

theorem takePage_listens_on {rates : RateSet} (h : m.f.mode = .listen)
    (hnone : highestRate (m.offered c &&& rates) = none) :
    m.takePage c rates = .of { m with f := { m.f with partner := some rates } } [] := by
  simp only [takePage, h, hnone]

theorem takePage_advertises {rates : RateSet} (h : m.f.mode ∈ [Mode.train, .up])
    (hnone : highestRate (m.offered c &&& rates) = none) :
    let paged : PortMachine := { m with f := { m.f with partner := some rates } }
    let first : List Outbound := if decide (m.f.mode = .up) then [.halt] else []
    let next := paged.advertised (m.offered c) c.listenMs (decide (m.f.mode = .up))
    m.takePage c rates = .of next.1 (first ++ next.2) := by
  simp only [List.mem_cons, List.not_mem_nil, or_false] at h
  rcases h with h | h <;> simp only [takePage, h, hnone, advertise_eq] <;> rfl

theorem listenExpiry_eq (m : PortMachine) (c : TcContext) :
    let next := m.advertised (m.offered c) c.listenMs false
    m.listenExpiry c = .of next.1 next.2 := by
  simp only [listenExpiry, advertise_eq]

/-! ### WITHDRAW (R58) -/

theorem withdraw_of_active (h : m.f.mode ∈ [Mode.dark, .listen, .train, .up]) (cause : HeldCause) :
    m.withdraw cause =
      .of { m.heldFor cause with f := { (m.heldFor cause).f with armed := false } } [.halt] := by
  simp only [List.mem_cons, List.not_mem_nil, or_false] at h
  rcases h with h | h | h | h <;> simp only [withdraw, h] <;> rfl

theorem withdraw_of_lent (h : m.f.mode = .lent) (hr : m.f.returnMode ≠ .parked) (cause : HeldCause) :
    m.withdraw cause =
      .of { m with f := { m.f with returnMode := .held, heldCause := some cause, armed := false } } [] := by
  cases hback : m.f.returnMode with
  | parked => exact absurd hback hr
  | dark => simp only [withdraw, h, hback]
  | held => simp only [withdraw, h, hback]

theorem withdraw_of_lent_parked (h : m.f.mode = .lent) (hr : m.f.returnMode = .parked) (cause : HeldCause) :
    m.withdraw cause = .of m [] := by
  simp only [withdraw, h, hr]

theorem withdraw_of_inactive (h : m.f.mode ∈ [Mode.parked, .held]) (cause : HeldCause) :
    m.withdraw cause = .of m [] := by
  simp only [List.mem_cons, List.not_mem_nil, or_false] at h
  rcases h with h | h <;> simp only [withdraw, h]

/-! ### PARK and UNPARK (R60, R61) -/

theorem park_of_present (h : m.f.mode ∉ [Mode.lent, .parked]) :
    m.park =
      (TcEffect.of { m.stoppedIn .parked with f := { (m.stoppedIn .parked).f with heldCause := none } }
        [.halt]).carrying modeFields := by
  cases hmode : m.f.mode <;> simp_all [park, leaveAttempt, stoppedIn]

theorem park_of_parked (h : m.f.mode = .parked) :
    m.park = .of { m.stoppedIn .parked with f := { (m.stoppedIn .parked).f with heldCause := none } } [.halt] := by
  simp only [park, h]
  rfl

theorem park_of_lent (h : m.f.mode = .lent) :
    m.park = .of { m with f := { m.f with returnMode := .parked, heldCause := none } } [] := by
  simp only [park, h]

theorem unpark_of_parked (h : m.f.mode = .parked) :
    let r := darkRule c false { m with f := { m.f with autoSpent := false } }
    m.unpark c = (TcEffect.of r.1 r.2).carrying (modeFields ++ [.autoSpent]) := by
  simp only [unpark, h]

theorem unpark_of_energy (h : m.f.mode = .parked) (he : m.f.energy = true) :
    let fresh : PortMachine := { m with f := { m.f with autoSpent := false } }
    let next := fresh.advertised (m.offered c) c.listenMs false
    m.unpark c = (TcEffect.of next.1 next.2).carrying (modeFields ++ [.autoSpent]) := by
  rw [unpark_of_parked h, darkRule_of_energy]
  · rfl
  · exact he

theorem unpark_of_no_energy (h : m.f.mode = .parked) (he : m.f.energy = false) :
    m.unpark c =
      (TcEffect.of (stoppedIn .dark { m with f := { m.f with autoSpent := false } }) []).carrying
        (modeFields ++ [.autoSpent]) := by
  rw [unpark_of_parked h, darkRule_of_no_energy]
  exact he

theorem unpark_of_lent_parked (h : m.f.mode = .lent) (hr : m.f.returnMode = .parked) :
    m.unpark c =
      (TcEffect.of { m with f := { m.f with returnMode := .dark, autoSpent := false } } []).carrying
        [.returnMode, .autoSpent] := by
  simp only [unpark, h, hr]

theorem unpark_elsewhere (h : m.f.mode ≠ .parked) (hr : m.f.mode ≠ .lent ∨ m.f.returnMode ≠ .parked) :
    m.unpark c = .of m [] := by
  unfold unpark
  split
  · next hmode => exact absurd hmode h
  · next hmode =>
    split
    · next hback => exact absurd hback (hr.resolve_left (not_not.2 hmode))
    · rfl
  · rfl

/-! ### RESTART and REARM (R62, R63) -/

theorem restart?_of_energy (h : m.f.mode ∈ [Mode.listen, .train, .up]) (he : m.f.energy = true) :
    let next := m.newEpisode.advertised (m.newEpisode.offered c) c.listenMs true
    m.restart? c
      = some ((TcEffect.of next.1 (.halt :: next.2)).carrying (modeFields ++ [.struck, .autoSpent])) := by
  have hdark : m.newEpisode.leaveAttempt.darkRule c true
      = m.newEpisode.advertised (m.newEpisode.offered c) c.listenMs true := by
    rw [darkRule_of_energy]
    · rfl
    · exact he
  simp only [List.mem_cons, List.not_mem_nil, or_false] at h
  rcases h with h | h | h <;> simp only [restart?, h, hdark]

theorem restart?_of_no_energy (h : m.f.mode ∈ [Mode.listen, .train, .up]) (he : m.f.energy = false) :
    m.restart? c
      = some ((TcEffect.of (m.newEpisode.stoppedIn .dark) [.halt]).carrying (modeFields ++ [.struck, .autoSpent])) := by
  have hdark : m.newEpisode.leaveAttempt.darkRule c true = (m.newEpisode.stoppedIn .dark, []) := by
    rw [darkRule_of_no_energy]
    · rfl
    · exact he
  simp only [List.mem_cons, List.not_mem_nil, or_false] at h
  rcases h with h | h | h <;> simp only [restart?, h, hdark]

theorem restart?_of_dark (h : m.f.mode = .dark) :
    m.restart? c = some ((TcEffect.of m.newEpisode []).carrying [.struck, .attempts, .autoSpent]) := by
  simp only [restart?, h]

theorem restart?_refused (h : m.f.mode ∈ [Mode.parked, .held, .lent]) : m.restart? c = none := by
  simp only [List.mem_cons, List.not_mem_nil, or_false] at h
  rcases h with h | h | h <;> simp only [restart?, h]

/-- A HELD machine as REARM releases it, before the DARK rule (R63). -/
def rearmed (m : PortMachine) : PortMachine :=
  { m with f := { m.f with struck := 0, autoSpent := false, attempts := 0, heldCause := none, armed := true } }

theorem rearm_of_held (h : m.f.mode = .held) :
    let r := m.rearmed.darkRule c false
    m.rearm c = (TcEffect.of r.1 r.2).carrying (modeFields ++ [.armed, .struck, .autoSpent]) := by
  simp only [rearm, h]
  rfl

theorem rearm_of_energy (h : m.f.mode = .held) (he : m.f.energy = true) :
    let next := m.rearmed.advertised (m.rearmed.offered c) c.listenMs false
    m.rearm c = (TcEffect.of next.1 next.2).carrying (modeFields ++ [.armed, .struck, .autoSpent]) := by
  rw [rearm_of_held h, darkRule_of_energy]
  exact he

theorem rearm_of_no_energy (h : m.f.mode = .held) (he : m.f.energy = false) :
    m.rearm c =
      (TcEffect.of (m.rearmed.stoppedIn .dark) []).carrying (modeFields ++ [.armed, .struck, .autoSpent]) := by
  rw [rearm_of_held h, darkRule_of_no_energy]
  exact he

theorem rearm_of_lent_held (h : m.f.mode = .lent) (hr : m.f.returnMode = .held) :
    m.rearm c =
      (TcEffect.of { m with
        f := { m.f with returnMode := .dark, heldCause := none, armed := true, struck := 0, autoSpent := false } }
        []).carrying [.returnMode, .heldCause, .armed, .struck, .autoSpent] := by
  simp only [rearm, h, hr]

theorem rearm_elsewhere (h : m.f.mode ≠ .held) (hr : m.f.mode ≠ .lent ∨ m.f.returnMode ≠ .held) :
    m.rearm c = (TcEffect.of { m with f := { m.f with armed := true } } []).carrying [.armed] := by
  unfold rearm
  split
  · next hmode => exact absurd hmode h
  · next hmode =>
    split
    · next hback => exact absurd hback (hr.resolve_left (not_not.2 hmode))
    · rfl
  · rfl

end

end PortMachine

/-! ### The highest rate of a set (R48) -/

theorem highestRate_eq_some {set : RateSet} {rate : Rate} (h : set.getLsbD rate.index = true)
    (hmax : ∀ r : Rate, rate.index < r.index → set.getLsbD r.index = false) : highestRate set = some rate := by
  have hhigher (r : Rate) (hr : rate.index < r.index) : rateIn r set = false := hmax r hr
  have hin : rateIn rate set = true := h
  unfold highestRate
  cases rate with
  | t10 => simp [hhigher .t2500 (by decide), hhigher .t1000 (by decide), hhigher .t100 (by decide), hin]
  | t100 => simp [hhigher .t2500 (by decide), hhigher .t1000 (by decide), hin]
  | t1000 => simp [hhigher .t2500 (by decide), hin]
  | t2500 => simp [hin]

theorem highestRate_of_empty {set : RateSet} (h : set = 0) : highestRate set = none := by
  subst h
  decide

end Sys2Proof.Machine

end

section

namespace Sys2Proof.Machine

/-! ## What the events of the Training Controller leave (R40, R41, R58) -/

section

variable {s : State} {p : Port}

/-- What an event leaves that has emptied a slot of the inbox. -/
theorem State.tcEvent_setInbox_leaves {out : TcEffect} (box : Inbox) (hc : TcField.skew ∉ out.carries)
    (hs : out.m.f.skew = (s.port p).tc.f.skew) :
    EventLeaves false out.carries p { eventPort (s.port p) out (s.port p).sched with inbox := box } out.msgs s
      ((s.setInbox p box).tcEvent false p out) := by
  have h := State.tcEvent_leaves (s.setInbox p box) false p out hc (by rwa [State.setInbox, State.port_modPort_self])
  rw [State.setInbox, State.port_modPort_self] at h
  exact EventLeaves.of_modPort s rfl h

/-- A command that takes a message or an expiry, by the event it makes. Outside the port an engine may have stopped. -/
theorem takenEvent_leaves {c : Instr} {u : State} {box : Inbox} {out : TcEffect} {expected : PortState}
    (he : exec c s = .next ((u.setInbox p box).tcEvent false p out)) (hc : out.carries = [])
    (hs : out.m.f.skew = (u.port p).tc.f.skew)
    (hx : { eventPort (u.port p) out (u.port p).sched with inbox := box } = expected) :
    ∃ t, exec c s = .next t ∧ EventLeaves false [] p expected out.msgs u t := by
  have h := State.tcEvent_setInbox_leaves (out := out) box (hc ▸ List.not_mem_nil) hs
  rw [hc, hx] at h
  exact ⟨_, he, h⟩

/-- As `takenEvent_leaves`, where the event makes no firing, request or notice. -/
theorem message_leaves {c : Instr} {box : Inbox} {out : TcEffect} {m : PortMachine} {msgs : List Outbound}
    (he : exec c s = .next ((s.setInbox p box).tcEvent false p out)) (ho : out = .of m msgs)
    (hs : m.f.skew = (s.port p).tc.f.skew) :
    ∃ t, exec c s = .next t ∧ EventLeaves false [] p { s.port p with tc := m, inbox := box } msgs s t := by
  subst ho
  exact takenEvent_leaves he rfl hs (by simp [eventPort, TcEffect.of, flag])

/-- As `takenEvent_leaves`, where the event strikes the rate. -/
theorem strike_leaves {c : Instr} {box : Inbox} {out : TcEffect} {auto : Bool} {m : PortMachine} {msgs : List Outbound}
    (he : exec c s = .next ((s.setInbox p box).tcEvent false p out)) (ho : out = PortMachine.strikeEvent auto m msgs)
    (hs : m.f.skew = (s.port p).tc.f.skew) :
    ∃ t, exec c s = .next t ∧ EventLeaves false [] p
      { s.port p with
        tc := m, inbox := box, firings := (s.port p).firings ++ [.source .downshift]
        autoRequests := (s.port p).autoRequests + flag auto 1 } msgs s t := by
  subst ho
  exact takenEvent_leaves he rfl hs (by simp [eventPort, PortMachine.strikeEvent, TcEffect.of])

/-! ### The commands that take a message or an expiry -/

theorem exec_takeEnergy {present : Bool} (ht : s.takesSlot p .energy = true)
    (hbox : (s.port p).inbox.energy = some present) :
    exec (.takeEnergy p) s =
      .next ((s.setInbox p { (s.port p).inbox with energy := none }).tcEvent false p
        ((s.port p).tc.takeEnergy (s.tcContext p) present)) := by
  change Host.Outcome.next (takeEnergyAt p s) = _
  simp only [takeEnergyAt, if_pos ht, hbox]

theorem exec_takeLost (ht : s.takesSlot p .lost = true) :
    exec (.takeLost p) s =
      .next ((s.setInbox p { (s.port p).inbox with lost := false }).tcEvent false p
        ((s.port p).tc.takeLost (s.tcContext p))) := by
  change Host.Outcome.next (takeLostAt p s) = _
  simp only [takeLostAt, if_pos ht]

theorem exec_takeResultPass {inverted : PairSet} {skew : PerPair Nat} {swap : Swap}
    (ht : s.takesSlot p .result = true) (hbox : (s.port p).inbox.result = some (.pass inverted skew swap)) :
    exec (.takeResultPass p) s =
      .next ((s.setInbox p { (s.port p).inbox with result := none }).tcEvent false p
        ((s.port p).tc.takeResultPass inverted skew swap)) := by
  change Host.Outcome.next (takeResultPassAt p s) = _
  simp only [takeResultPassAt, if_pos ht, hbox]

theorem exec_takeResultFail (ht : s.takesSlot p .result = true) (hbox : (s.port p).inbox.result = some .fail) :
    exec (.takeResultFail p) s =
      .next ((s.setInbox p { (s.port p).inbox with result := none }).tcEvent false p
        ((s.port p).tc.failAttempt (s.tcContext p))) := by
  change Host.Outcome.next (takeResultFailAt p s) = _
  simp only [takeResultFailAt, if_pos ht, hbox]

theorem exec_takePage {rates : RateSet} (ht : s.takesSlot p .page = true)
    (hbox : (s.port p).inbox.page = some rates) :
    exec (.takePage p) s =
      .next ((s.setInbox p { (s.port p).inbox with page := none }).tcEvent false p
        ((s.port p).tc.takePage (s.tcContext p) rates)) := by
  change Host.Outcome.next (takePageAt p s) = _
  simp only [takePageAt, if_pos ht, hbox]

theorem State.setInbox_same (s : State) (p : Port) : s.setInbox p (s.port p).inbox = s := State.setPort_port s p

theorem State.takesExpiry_of_expired {t : Timer} (hw : (s.port p).tcWaiting = []) (ht : t = some 0) :
    s.takesExpiry p t = true := by
  simp [State.takesExpiry, hw, ht]

theorem exec_listenExpiry (hw : (s.port p).tcWaiting = []) (ht : (s.port p).tc.listen = some 0)
    (hm : (s.port p).tc.f.mode = .listen) :
    exec (.listenExpiry p) s =
      .next ((s.setInbox p (s.port p).inbox).tcEvent false p ((s.port p).tc.listenExpiry (s.tcContext p))) := by
  change Host.Outcome.next (listenExpiryAt p s) = _
  simp only [listenExpiryAt, State.takesExpiry_of_expired hw ht, hm, decide_true, Bool.and_self, if_true,
    State.setInbox_same]

theorem exec_trainExpiry (hw : (s.port p).tcWaiting = []) (ht : (s.port p).tc.train = some 0)
    (hm : (s.port p).tc.f.mode = .train) :
    exec (.trainExpiry p) s =
      .next ((s.setInbox p (s.port p).inbox).tcEvent false p ((s.port p).tc.failAttempt (s.tcContext p))) := by
  change Host.Outcome.next (trainExpiryAt p s) = _
  simp only [trainExpiryAt, State.takesExpiry_of_expired hw ht, hm, decide_true, Bool.and_self, if_true,
    State.setInbox_same]

end

/-! ## ENERGY and LOST (R42, R54) -/

/-- Settles O14, by the mode the message finds. -/
theorem energyAndLostMoveThePort : Obligations.EnergyAndLostMoveThePort := by
  refine ⟨fun p present s ht hbox => ⟨?_, ?_, ?_, ?_⟩, fun p s ht hm => ⟨fun he => ?_, fun he => ?_⟩⟩
  · rintro rfl hm
    exact message_leaves (exec_takeEnergy ht hbox) (PortMachine.takeEnergy_absent_of_live hm) rfl
  · rintro rfl hm
    exact message_leaves (exec_takeEnergy ht hbox) (PortMachine.takeEnergy_absent_of_not_live hm) rfl
  · rintro rfl hm
    exact message_leaves (exec_takeEnergy ht hbox) (PortMachine.takeEnergy_present_of_dark hm)
      (PortMachine.advertised_skew _ _ _ _)
  · rintro rfl hm
    exact message_leaves (exec_takeEnergy ht hbox) (PortMachine.takeEnergy_present_of_not_dark hm) rfl
  · exact message_leaves (exec_takeLost ht) (PortMachine.takeLost_of_energy hm he) (PortMachine.advertised_skew _ _ _ _)
  · exact message_leaves (exec_takeLost ht) (PortMachine.takeLost_of_no_energy hm he) rfl

/-! ## Failed attempts (R49 to R51) -/

/-- Settles O17: both commands count one failure, and the count, the rights and the guard mask say what comes of it. -/
theorem failedAttemptRetriesOrStrikes : Obligations.FailedAttemptRetriesOrStrikes := by
  refine ⟨rfl, fun p rate c box s hc hm hr => ?_⟩
  have he : exec c s = .next ((s.setInbox p box).tcEvent false p ((s.port p).tc.failAttempt (s.tcContext p))) := by
    rcases hc with ⟨rfl, ht, hfail, rfl⟩ | ⟨rfl, hw, ht, rfl⟩
    · exact exec_takeResultFail ht hfail
    · exact exec_trainExpiry hw ht hm
  have strikes (ht : s.settings.tries ≤ (s.port p).tc.f.attempts + 1)
      (hs : (s.port p).record.rights.getLsbD 3 = true) :
      (s.port p).tc.failAttempt (s.tcContext p) = (s.port p).tc.strike (s.tcContext p) rate :=
    PortMachine.failAttempt_strikes hm hr ht hs
  refine ⟨fun ht => ?_, fun ht hs => ?_, fun ht hs hg ha => ?_, fun ht hs hkeeps => ?_⟩
  · exact message_leaves he (PortMachine.failAttempt_repeats hm hr ht) rfl
  · exact message_leaves he (PortMachine.failAttempt_counts_anew hm hr ht hs) rfl
  · exact strike_leaves he ((strikes ht hs).trans (PortMachine.strike_withdraws rate hg ha)) rfl
  · exact strike_leaves he ((strikes ht hs).trans (PortMachine.strike_advertises rate hkeeps))
      (PortMachine.advertised_skew _ _ _ _)

/-! ## PAGE and the listen timer (R46 to R48, R53) -/

/-- Settles O18, by the highest rate that E and the page have in common. -/
theorem pageResolvesTheHighestCommonRate : Obligations.PageResolvesTheHighestCommonRate := by
  refine fun p rates s ht hbox => ⟨fun rate hm hin hmax => ?_, fun hnone hm => ?_, fun hnone hm => ?_⟩
  · exact message_leaves (exec_takePage ht hbox) (PortMachine.takePage_starts hm (highestRate_eq_some hin hmax)) rfl
  · exact message_leaves (exec_takePage ht hbox) (PortMachine.takePage_listens_on hm (highestRate_of_empty hnone)) rfl
  · exact message_leaves (exec_takePage ht hbox) (PortMachine.takePage_advertises hm (highestRate_of_empty hnone))
      (PortMachine.advertised_skew _ _ _ _)

/-- Settles O19: the event of the expiry is to advertise, and it takes no message. -/
theorem listenExpiryAdvertisesAgain : Obligations.ListenExpiryAdvertisesAgain := fun _ _ hw ht hm =>
  message_leaves (exec_listenExpiry hw ht hm) (PortMachine.listenExpiry_eq _ _) (PortMachine.advertised_skew _ _ _ _)

end Sys2Proof.Machine

end

section

namespace Sys2Proof.Machine

/-! ## POWER (R41, R83, R89, R101) -/

section

variable {s : State} {p : Port} {pairs : PairSet} {fault : Bool}

/-- A stopping engine and an inbox do not meet. -/
theorem State.stopOnPower_setInbox (s : State) (p q : Port) (e : EngineId) (box : Inbox) :
    (s.setInbox p box).stopOnPower q e = (s.stopOnPower q e).setInbox p box := by
  change (if (s.engine e).running then _ else _) = _
  unfold State.stopOnPower
  split <;> rfl

theorem PortMachine.takePower_notice (m : PortMachine) (pairs : PairSet) (fault : Bool) :
    (m.takePower pairs fault).notice = (decide (m.f.mode = .lent) && decide (pairs ≠ 0)) := rfl

theorem exec_takePower_without_notice (ht : s.takesSlot p .power = true)
    (hbox : (s.port p).inbox.power = some (pairs, fault)) (hn : (s.port p).tc.f.mode ≠ .lent ∨ pairs = 0) :
    exec (.takePower p) s =
      .next ((s.setInbox p { (s.port p).inbox with power := none }).tcEvent false p
        { (s.port p).tc.takePower pairs fault with notice := false }) := by
  have hnotice : ((s.port p).tc.takePower pairs fault).notice = false := by
    rw [PortMachine.takePower_notice]
    rcases hn with hn | hn <;> simp [hn]
  change Host.Outcome.next (takePowerAt p s) = _
  simp only [takePowerAt, if_pos ht, hbox, hnotice]
  rw [← hnotice]

theorem exec_takePower_on_engine {e : EngineId} (ht : s.takesSlot p .power = true)
    (hbox : (s.port p).inbox.power = some (pairs, fault)) (hm : (s.port p).tc.f.mode = .lent) (hp : pairs ≠ 0)
    (he : s.engineHolding p = some e) :
    exec (.takePower p) s =
      .next (((s.stopOnPower p e).setInbox p { (s.port p).inbox with power := none }).tcEvent false p
        { (s.port p).tc.takePower pairs fault with notice := false }) := by
  have hnotice : ((s.port p).tc.takePower pairs fault).notice = true := by
    rw [PortMachine.takePower_notice, decide_eq_true hm, decide_eq_true hp, Bool.and_self]
  change Host.Outcome.next (takePowerAt p s) = _
  simp only [takePowerAt, if_pos ht, hbox, hnotice, he, State.stopOnPower_setInbox]

theorem exec_takePower_off_engine (ht : s.takesSlot p .power = true)
    (hbox : (s.port p).inbox.power = some (pairs, fault)) (hm : (s.port p).tc.f.mode = .lent) (hp : pairs ≠ 0)
    (he : s.engineHolding p = none) :
    exec (.takePower p) s =
      .next ((s.setInbox p { (s.port p).inbox with power := none }).tcEvent false p
        { (s.port p).tc.takePower pairs fault with notice := true }) := by
  have hnotice : ((s.port p).tc.takePower pairs fault).notice = true := by
    rw [PortMachine.takePower_notice, decide_eq_true hm, decide_eq_true hp, Bool.and_self]
  change Host.Outcome.next (takePowerAt p s) = _
  simp only [takePowerAt, if_pos ht, hbox, hnotice, he]
  rw [← hnotice]

/-- The event that records the powered pairs and the fault, with a notice out after it or not. -/
theorem power_leaves {u : State} {box : Inbox} {notice : Bool} (hu : u.port p = s.port p)
    (he : exec (.takePower p) s =
      .next ((u.setInbox p box).tcEvent false p { (s.port p).tc.takePower pairs fault with notice := notice })) :
    ∃ t, exec (.takePower p) s = .next t ∧ EventLeaves false [] p
      { s.port p with
        tc := { (s.port p).tc with f := { (s.port p).tc.f with powered := pairs, powerFault := fault } }
        inbox := box
        firings := (s.port p).firings ++ if fault then [.source .powerFault] else []
        powerNotice := (s.port p).powerNotice || notice }
      [] u t :=
  takenEvent_leaves he rfl (by rw [hu]; rfl) (by rw [hu]; rfl)

end

/-- Settles O12: the same event in every mode, and the notice by what engine holds the port. -/
theorem powerIsRecordedAndFires : Obligations.PowerIsRecordedAndFires := by
  intro p pairs fault s ht hbox
  have hquiet : ((s.port p).powerNotice || false) = (s.port p).powerNotice := Bool.or_false _
  have hout : ((s.port p).powerNotice || true) = true := Bool.or_true _
  refine ⟨fun hn => ?_, fun hm hp => ⟨fun e r he => ?_, fun he => ?_⟩⟩
  · have h := power_leaves rfl (exec_takePower_without_notice ht hbox hn)
    rwa [hquiet] at h
  · have h := power_leaves (Acts.port_stopOnPower p p e) (exec_takePower_on_engine ht hbox hm hp he)
    rw [hquiet] at h
    refine ⟨fun hrun => ?_, fun ending hclosing => ?_⟩
    · rwa [State.stopOnPower_running s p hrun] at h
    · rwa [State.stopOnPower_closing s p hclosing] at h
  · have h := power_leaves rfl (exec_takePower_off_engine ht hbox hm hp he)
    rwa [hout] at h

/-! ## DETACHED (R43, R91) -/

/-- A run with nothing completed starts with the first pair it is to sweep. -/
theorem Run.nextPair_of_fresh {r : Run} {q : Pair} (hc : r.completed = []) (hq : pairIn q r.toSweep = true)
    (hlow : ∀ q' : Pair, q'.index < q.index → pairIn q' r.toSweep = false) :
    r.nextPair = .sweeping r q 1 r.latched.window [] := by
  have hfind : (Pair.all.find? fun q => pairIn q r.toSweep && !r.completed.any fun x => decide (x.pair = q)) = some q := by
    simp only [hc, List.any_nil, Bool.not_false, Bool.and_true, Pair.all]
    cases q with
    | a => simp [hq]
    | b => simp [hlow .a (by decide), hq]
    | c => simp [hlow .a (by decide), hlow .b (by decide), hq]
    | d => simp [hlow .a (by decide), hlow .b (by decide), hlow .c (by decide), hq]
  simp only [Run.nextPair, hfind]

theorem Engine.detached_of_not_attaching {x : Engine} (h : ∀ r wait, x ≠ .attaching r wait) : x.detached = x := by
  cases x with
  | attaching r wait => exact absurd rfl (h r wait)
  | _ => rfl

@[simp] theorem State.setEngine_engine (s : State) (e : EngineId) : s.setEngine e (s.engine e) = s := by
  simp [State.setEngine, State.engine]

section

variable {s : State} {p : Port}

theorem takeDetachedAt_of_engine {e : EngineId} (ht : s.takesSlot p .detached = true)
    (hm : (s.port p).tc.f.mode = .lent) (he : s.engineHolding p = some e) :
    takeDetachedAt p s =
      (s.setInbox p { (s.port p).inbox with detached := false }).setEngine e (s.engine e).detached := by
  simp only [takeDetachedAt, if_pos ht, if_pos hm, he]

theorem takeDetachedAt_of_no_engine (ht : s.takesSlot p .detached = true)
    (h : (s.port p).tc.f.mode ≠ .lent ∨ s.engineHolding p = none) :
    takeDetachedAt p s = s.setInbox p { (s.port p).inbox with detached := false } := by
  unfold takeDetachedAt
  rw [if_pos ht]
  split
  · next hm => simp only [h.resolve_left (not_not.2 hm)]
  · rfl

end

/-- Settles O13, by the engine that holds the port. -/
theorem detachedStartsTheSweepsOrIsDiscarded : Obligations.DetachedStartsTheSweepsOrIsDiscarded := by
  refine fun p s ht => ⟨fun e r wait q hm he hx hc hq hlow => ?_, fun h => congrArg Host.Outcome.next ?_⟩
  · refine congrArg Host.Outcome.next ((takeDetachedAt_of_engine ht hm he).trans ?_)
    rw [hx, ← Run.nextPair_of_fresh hc hq hlow]
    rfl
  · rcases h with h | h | ⟨e, he, hx⟩
    · exact takeDetachedAt_of_no_engine ht (.inl h)
    · exact takeDetachedAt_of_no_engine ht (.inr h)
    · by_cases hm : (s.port p).tc.f.mode = .lent
      · rw [takeDetachedAt_of_engine ht hm he, Engine.detached_of_not_attaching hx]
        exact State.setEngine_engine (s.setInbox p { (s.port p).inbox with detached := false }) e
      · exact takeDetachedAt_of_no_engine ht (.inl hm)

/-! ## RESULT pass (R8, R52, R119) -/

/-- The machine UP after a RESULT pass, with the reports of the pairs that are trained (R8, R52). -/
def PortMachine.passed (trained : Pair → Bool) (inverted : PairSet) (skew : PerPair Nat) (swap : Swap)
    (m : PortMachine) : PortMachine :=
  { f := { m.f with
      mode := .up, attempts := 0, autoSpent := false
      polarity := .build fun q => if trained q then some (pairIn q inverted) else none
      skew := .build fun q => if trained q then some (skew.get q) else none
      swap := swap }
    listen := none, train := none }

theorem PortMachine.takeResultPass_of_train {m : PortMachine} {rate : Rate} (h : m.f.mode = .train)
    (hr : m.f.resolved = some rate) (inverted : PairSet) (skew : PerPair Nat) (swap : Swap) :
    m.takeResultPass inverted skew swap =
      (TcEffect.of (m.passed (trainedAt rate) inverted skew swap) []).carrying [.skew] := by
  simp only [takeResultPass, passed, h, hr]
  rfl

theorem trainedAt_eq (rate : Rate) (q : Pair) :
    trainedAt rate q = decide (rate = .t1000 ∨ rate = .t2500 ∨ q = .a ∨ q = .b) := by
  cases rate <;> cases q <;> rfl

/-- What an event leaves does not depend on what it found in the inbox. -/
theorem EventLeavesButVerdicts.of_setInbox {host : Bool} {carried : List TcField} {p : Port} {box : Inbox}
    {expected : PortState} {msgs : List Outbound} {s t : State}
    (h : EventLeavesButVerdicts host carried p expected msgs (s.setInbox p box) t) :
    EventLeavesButVerdicts host carried p expected msgs s t := by
  obtain ⟨honly, hpublishes, hhanded, hport⟩ := h
  refine ⟨(OnlyPort.modPort s p _).trans honly, ?_, ?_, hport⟩
  · simpa [State.setInbox, Publishes, State.atOnce, AdvancesOnce] using hpublishes
  · simpa [State.setInbox, Handed] using hhanded

/-- What an event leaves that empties a slot, hands nothing and carries skew. -/
theorem State.skewEvent_leaves (s : State) (p : Port) (box : Inbox) (m : PortMachine) :
    EventLeavesButVerdicts false [.skew] p { s.port p with inbox := box, tc := m } [] s
      ((s.setInbox p box).tcEvent false p ((TcEffect.of m []).carrying [.skew])) := by
  have h := State.event_leavesButVerdicts (s.setInbox p box) false p ((TcEffect.of m []).carrying [.skew])
    ((s.setInbox p box).port p).sched (.inl rfl)
  refine EventLeavesButVerdicts.of_setInbox (box := box) ?_
  simpa [State.setInbox, State.tcEvent, eventPort, TcEffect.of, TcEffect.carrying, flag] using h

theorem PerPair.get_build {α : Type} (f : Pair → α) (q : Pair) : (PerPair.build f).get q = f q := by
  cases q <;> rfl

/-- An update that carries skew and is applied at once derives the verdicts and the ceiling again. -/
theorem State.event_rederives (s : State) {host : Bool} {p : Port} (h : host = true ∨ s.bind = none) {out : TcEffect}
    (sched : SchedFields) (hc : TcField.skew ∈ out.carries) :
    let r := ((s.event host p out sched).port p).record
    (∀ q, r.pairs.get q = deriveAccount s.settings (s.port p).record.findings (r.tc.skew.get q) q
        ((s.port p).record.pairs.get q))
      ∧ r.ceiling = ceilingOf r.verdicts := by
  rw [State.event_applied s h]
  set u := eventUpdate (s.port p) out sched
  set ps := (handedPort s p out sched).unwait u
  obtain ⟨-, -, -, -, hceiling, hpairs, -⟩ := State.commit_rest (s.setPort p ps) p (ps.updated s.settings u)
  obtain ⟨htc, -⟩ := State.commit_writers (s.setPort p ps) p (ps.updated s.settings u)
  have hskew : u.tc.contains .skew = true := by simpa using mem_eventUpdate.2 (.inr hc)
  refine ⟨fun q => ?_, ?_⟩
  · rw [hpairs, htc]
    simp only [PortState.updated, hskew, if_true, LineRecord.rederive, PerPair.get_build]
    rfl
  · simp only [LineRecord.verdicts, hceiling, hpairs]
    simp only [PortState.updated, hskew, if_true, LineRecord.rederive]
    rfl

/-- Settles O16: the update of the event carries skew, so the Store derives the verdicts again. -/
theorem resultPassBringsThePortUp : Obligations.ResultPassBringsThePortUp := by
  intro p inverted skew swap rate s ht hbox hm hr
  have htrained : trainedAt rate = fun q => decide (rate = .t1000 ∨ rate = .t2500 ∨ q = .a ∨ q = .b) :=
    funext (trainedAt_eq rate)
  have hexec := exec_takeResultPass ht hbox
  rw [PortMachine.takeResultPass_of_train hm hr, htrained] at hexec
  refine ⟨_, hexec, State.skewEvent_leaves s p _ _, fun hb => ?_⟩
  have hport : ((s.setInbox p { (s.port p).inbox with result := none }).port p).record = (s.port p).record := by
    rw [State.setInbox, State.port_modPort_self]
  rw [← hport]
  exact State.event_rederives (s.setInbox p { (s.port p).inbox with result := none }) (.inr hb) _
    (List.mem_singleton_self TcField.skew)

/-! ## WITHDRAW (R58) -/

section

variable {s : State} {p : Port} {src : GuardSource} {rest : List GuardSource}

/-- The oldest WITHDRAW handed is taken, by the event the machine makes of it. -/
theorem takeWithdraw_leaves {m : PortMachine} {msgs : List Outbound} (hw : (s.port p).withdraws = src :: rest)
    (ho : (s.port p).tc.withdraw src.heldCause = .of m msgs) (hs : m.f.skew = (s.port p).tc.f.skew) :
    ∃ t, exec (.takeWithdraw p) s = .next t
      ∧ EventLeaves false [] p { s.port p with tc := m, withdraws := rest } msgs s t := by
  refine ⟨_, rfl, ?_⟩
  simp only [takeWithdrawAt, hw, State.takeWithdraw, State.port_modPort_self, ho]
  refine EventLeaves.of_modPort s (f := fun ps => { ps with withdraws := rest }) rfl ?_
  have h := State.plainEvent_leaves (s.modPort p fun ps => { ps with withdraws := rest }) false p m msgs
    (s.port p).sched (by simpa using hs)
  simpa [State.tcEvent] using h

end

/-- Settles O20, by the mode the request finds. -/
theorem withdrawTakesThePortOutOfService : Obligations.WithdrawTakesThePortOutOfService := by
  refine fun p src rest s hw => ⟨fun hm => ?_, fun hm hr => ?_, fun hm hr => ?_, fun hm => ?_⟩
  · exact takeWithdraw_leaves hw (PortMachine.withdraw_of_active hm _) rfl
  · exact takeWithdraw_leaves hw (PortMachine.withdraw_of_lent hm hr _) rfl
  · exact takeWithdraw_leaves hw (PortMachine.withdraw_of_lent_parked hm hr _) rfl
  · exact takeWithdraw_leaves hw (PortMachine.withdraw_of_inactive hm _) rfl

end Sys2Proof.Machine

end

section

namespace Sys2Proof.Machine

/-! ## The host's commands on a port's machine (R60 to R63) -/

section

variable {s : State} {p : Port} {b : Byte}

theorem onPort_eq (hb : portOf? b.toNat = some p) (f : Port → State → State) (s : State) : onPort b f s = f p s := by
  unfold onPort
  rw [hb]

/-- A command on one port that the part takes is carried out, and the access is counted. -/
theorem exec_onPort {c : Instr} {bytes : List Byte} {f : Port → State → State} (h : s.takesHost)
    (hb : portOf? b.toNat = some p) (hbytes : commandBytes c = some bytes)
    (hcarry : ∀ t, carryOut (decodeCommand s.page bytes) t = (onPort b f t).countAccess) :
    exec c s = .next (f p { s with transfer := none }).countAccess := by
  rw [exec_command hbytes, commandWrite_taken h, hcarry, onPort_eq hb]

theorem exec_park (h : s.takesHost) (hpage : s.page = false) (hb : portOf? b.toNat = some p) (extra : List Byte) :
    exec (.park (b :: extra)) s = .next (parkPort p { s with transfer := none }).countAccess :=
  exec_onPort h hb rfl fun _ => by rw [hpage]; rfl

theorem exec_unpark (h : s.takesHost) (hpage : s.page = false) (hb : portOf? b.toNat = some p) (extra : List Byte) :
    exec (.unpark (b :: extra)) s = .next (unparkPort p { s with transfer := none }).countAccess :=
  exec_onPort h hb rfl fun _ => by rw [hpage]; rfl

theorem exec_restart (h : s.takesHost) (hpage : s.page = false) (hb : portOf? b.toNat = some p) (extra : List Byte) :
    exec (.restart (b :: extra)) s = .next (restartPort p { s with transfer := none }).countAccess :=
  exec_onPort h hb rfl fun _ => by rw [hpage]; rfl

theorem exec_rearm (h : s.takesHost) (hpage : s.page = false) (hb : portOf? b.toNat = some p) (extra : List Byte) :
    exec (.rearm (b :: extra)) s = .next (rearmPort p { s with transfer := none }).countAccess :=
  exec_onPort h hb rfl fun _ => by rw [hpage]; rfl

/-- A command on the machine of a port that is accepted, by the event it makes. -/
theorem machineCommand_leaves {c : Instr} {writes : List TcField} {out : TcEffect} {m : PortMachine}
    {msgs : List Outbound}
    (he : exec c s = .next (({ s with transfer := none } : State).machineCommand p out).countAccess)
    (ho : out = (TcEffect.of m msgs).carrying writes) (hw : TcField.skew ∉ writes)
    (hs : m.f.skew = (s.port p).tc.f.skew) :
    ∃ u, exec c s = .next (u.withReply replyAccepted).countAccess
      ∧ EventLeaves true writes p { s.port p with tc := m } msgs { s with transfer := none } u := by
  subst ho
  exact ⟨_, he, State.carryingEvent_leaves { s with transfer := none } true p m msgs writes _ hw hs⟩

/-- As `machineCommand_leaves`, where the update carries nothing that the event does not change. -/
theorem plainCommand_leaves {c : Instr} {out : TcEffect} {m : PortMachine} {msgs : List Outbound}
    (he : exec c s = .next (({ s with transfer := none } : State).machineCommand p out).countAccess)
    (ho : out = .of m msgs) (hs : m.f.skew = (s.port p).tc.f.skew) :
    ∃ u, exec c s = .next (u.withReply replyAccepted).countAccess
      ∧ EventLeaves true [] p { s.port p with tc := m } msgs { s with transfer := none } u :=
  machineCommand_leaves he ho List.not_mem_nil hs

/-- A RESTART that the machine accepts. -/
theorem exec_restart_accepted {out : TcEffect} (h : s.takesHost) (hpage : s.page = false)
    (hb : portOf? b.toNat = some p) (extra : List Byte)
    (ho : (s.port p).tc.restart? (s.tcContext p) = some out) :
    exec (.restart (b :: extra)) s
      = .next (({ s with transfer := none } : State).machineCommand p out).countAccess := by
  rw [exec_restart h hpage hb]
  have hport : (({ s with transfer := none } : State).port p).tc.restart?
      (({ s with transfer := none } : State).tcContext p) = some out := ho
  simp only [restartPort, hport]

theorem exec_restart_refused (h : s.takesHost) (hpage : s.page = false) (hb : portOf? b.toNat = some p)
    (extra : List Byte) (ho : (s.port p).tc.restart? (s.tcContext p) = none) :
    exec (.restart (b :: extra)) s
      = .next (({ s with transfer := none } : State).refuse .notPermitted (some p)).countAccess := by
  rw [exec_restart h hpage hb]
  have hport : (({ s with transfer := none } : State).port p).tc.restart?
      (({ s with transfer := none } : State).tcContext p) = none := ho
  simp only [restartPort, hport]

end

/-- Settles O21, by the mode and the return mode the command finds. -/
theorem parkKeepsThePortOutAndUnparkReleasesIt : Obligations.ParkKeepsThePortOutAndUnparkReleasesIt := by
  refine ⟨fun b extra p s h hpage hb => ?_, fun b extra p s h hpage hb => ?_⟩
  · have he := exec_park h hpage hb extra
    refine ⟨fun hm => ?_, fun hm => ?_, fun hm => ?_⟩
    · exact machineCommand_leaves he (PortMachine.park_of_present hm) (by decide) rfl
    · exact plainCommand_leaves he (PortMachine.park_of_parked hm) rfl
    · exact plainCommand_leaves he (PortMachine.park_of_lent hm) rfl
  · have he := exec_unpark h hpage hb extra
    refine ⟨fun hm henergy => ?_, fun hm henergy => ?_, fun hm hr => ?_, fun ⟨hm, hr⟩ => ?_⟩
    · exact machineCommand_leaves he (PortMachine.unpark_of_energy hm henergy) (by decide)
        (PortMachine.advertised_skew _ _ _ _)
    · exact machineCommand_leaves he (PortMachine.unpark_of_no_energy hm henergy) (by decide) rfl
    · exact machineCommand_leaves he (PortMachine.unpark_of_lent_parked hm hr) (by decide) rfl
    · exact plainCommand_leaves he (PortMachine.unpark_elsewhere hm hr) rfl

/-- Settles O22, by the mode and the return mode the command finds. -/
theorem restartAndRearmBeginANewEpisode : Obligations.RestartAndRearmBeginANewEpisode := by
  refine ⟨fun b extra p s h hpage hb => ?_, fun b extra p s h hpage hb => ?_⟩
  · have he {out : TcEffect} := exec_restart_accepted (out := out) h hpage hb extra
    refine ⟨fun hm henergy => ?_, fun hm henergy => ?_, fun hm => ?_, fun hm => ?_⟩
    · exact machineCommand_leaves (he (PortMachine.restart?_of_energy hm henergy)) rfl (by decide)
        (PortMachine.advertised_skew _ _ _ _)
    · exact machineCommand_leaves (he (PortMachine.restart?_of_no_energy hm henergy)) rfl (by decide) rfl
    · exact machineCommand_leaves (he (PortMachine.restart?_of_dark hm)) rfl (by decide) rfl
    · exact exec_restart_refused h hpage hb extra (PortMachine.restart?_refused hm)
  · have he := exec_rearm h hpage hb extra
    refine ⟨fun hm henergy => ?_, fun hm henergy => ?_, fun hm hr => ?_, fun ⟨hm, hr⟩ => ?_⟩
    · exact machineCommand_leaves he (PortMachine.rearm_of_energy hm henergy) (by decide)
        (PortMachine.advertised_skew _ _ _ _)
    · exact machineCommand_leaves he (PortMachine.rearm_of_no_energy hm henergy) (by decide) rfl
    · exact machineCommand_leaves he (PortMachine.rearm_of_lent_held hm hr) (by decide) rfl
    · exact machineCommand_leaves he (PortMachine.rearm_elsewhere hm hr) (by decide) rfl

end Sys2Proof.Machine

end

section

namespace Sys2Proof.Machine

/-! ## No engine drives a powered pair (R75, R76, R89) -/

/-! ### Which machine functions keep the powered pairs: all but POWER (R7, R41) -/

namespace PortMachine

variable {m : PortMachine} {c : TcContext}

@[simp] theorem advertise_powered (halted : Bool) : (m.advertise c halted).1.f.powered = m.f.powered := by
  unfold advertise
  split <;> rfl

@[simp] theorem darkRule_powered (halted : Bool) : (m.darkRule c halted).1.f.powered = m.f.powered := by
  unfold darkRule
  split
  · exact advertise_powered halted
  · rfl

theorem takeEnergy_powered (present : Bool) : (m.takeEnergy c present).m.f.powered = m.f.powered := by
  unfold takeEnergy
  cases present with
  | true =>
    simp only [if_true]
    split
    · exact darkRule_powered false
    · rfl
  | false =>
    simp only [Bool.false_eq_true, if_false]
    split <;> rfl

theorem takeLost_powered : (m.takeLost c).m.f.powered = m.f.powered := by
  unfold takeLost
  split
  · split
    · exact advertise_powered true
    · rfl
  · rfl

theorem takeResultPass_powered (inverted : PairSet) (skew : PerPair Nat) (swap : Swap) :
    (m.takeResultPass inverted skew swap).m.f.powered = m.f.powered := by
  unfold takeResultPass
  split <;> rfl

theorem strike_powered (rate : Rate) : (m.strike c rate).m.f.powered = m.f.powered := by
  unfold strike
  dsimp only [TcEffect.of]
  split
  · rfl
  · exact advertise_powered false

theorem failAttempt_powered : (m.failAttempt c).m.f.powered = m.f.powered := by
  unfold failAttempt
  split
  · split
    · rfl
    · split
      · exact strike_powered _
      · rfl
  · rfl

theorem takePage_powered (rates : RateSet) : (m.takePage c rates).m.f.powered = m.f.powered := by
  unfold takePage
  dsimp only
  split
  case h_1 => split <;> rfl
  case h_2 | h_3 =>
    split
    · rfl
    · exact advertise_powered _
  case h_4 => rfl

theorem lend_powered : m.lend.m.f.powered = m.f.powered := by
  unfold lend
  dsimp only
  split <;> rfl

theorem returnPort_powered (outcome : Ending) : (m.returnPort c outcome).m.f.powered = m.f.powered := by
  unfold returnPort
  split
  · dsimp only
    split
    · exact darkRule_powered false
    · rfl
  · rfl

theorem withdraw_powered (cause : HeldCause) : (m.withdraw cause).m.f.powered = m.f.powered := by
  unfold withdraw
  dsimp only
  split
  case h_5 => split <;> rfl
  all_goals rfl

theorem park_powered : m.park.m.f.powered = m.f.powered := by
  unfold park
  dsimp only
  split <;> rfl

theorem unpark_powered : (m.unpark c).m.f.powered = m.f.powered := by
  unfold unpark
  split
  · exact darkRule_powered false
  · split <;> rfl
  · rfl

theorem restart?_powered {out : TcEffect} (ho : m.restart? c = some out) : out.m.f.powered = m.f.powered := by
  unfold restart? at ho
  dsimp only at ho
  split at ho
  case h_1 | h_2 | h_3 =>
    cases ho
    exact darkRule_powered true
  case h_4 => cases ho; rfl
  case h_5 => cases ho

theorem rearm_powered : (m.rearm c).m.f.powered = m.f.powered := by
  unfold rearm
  dsimp only
  split
  · exact darkRule_powered false
  · split <;> rfl
  · rfl

end PortMachine

theorem State.MachineCommand.powered {s : State} {p : Port} {out : TcEffect} (h : s.MachineCommand p out) :
    out.m.f.powered = (s.port p).tc.f.powered := by
  rcases h with rfl | rfl | ho | rfl
  · exact PortMachine.park_powered
  · exact PortMachine.unpark_powered
  · exact PortMachine.restart?_powered ho
  · exact PortMachine.rearm_powered

/-! ### What keeps an engine's driven pair unpowered -/

/-- The pairs each port's latest POWER message reported as powered. -/
def State.powered (s : State) (p : Port) : PairSet := (s.port p).tc.f.powered

/-- In ATTACHING and SWEEPING the engine sweeps no powered pair, and the current pair is one of those to sweep. -/
def Engine.unpowered (powered : Port → PairSet) : Engine → Prop
  | .attaching r _ => r.toSweep &&& powered r.port = 0
  | .sweeping r q _ _ _ => r.toSweep &&& powered r.port = 0 ∧ pairIn q r.toSweep = true
  | _ => True

/-- Every engine sweeps unpowered pairs alone. -/
structure State.SweepsUnpowered (s : State) : Prop where
  engines : ∀ e, (s.engine e).unpowered s.powered

theorem State.powerOk_iff {s : State} : s.powerOk ↔ s.SweepsUnpowered := by
  have h : s.powerOk ↔ ∀ e, (s.engine e).unpowered s.powered := by
    refine forall_congr' fun e => ?_
    cases s.engine e <;> rfl
  exact h.trans ⟨fun h => ⟨h⟩, fun h => h.engines⟩

namespace Engine

variable {powered powered' : Port → PairSet} {x : Engine}

/-- Where the powered pairs of its port are as they were, or none, an engine goes on. -/
theorem unpowered.mono (h : x.unpowered powered)
    (hp : ∀ r, x.run? = some r → powered' r.port = powered r.port ∨ powered' r.port = 0) : x.unpowered powered' := by
  have key {r : Run} (hr : x.run? = some r) (h : r.toSweep &&& powered r.port = 0) :
      r.toSweep &&& powered' r.port = 0 := by
    rcases hp r hr with hp | hp
    · rw [hp, h]
    · rw [hp]
      exact BitVec.and_zero
  cases x with
  | attaching r wait => exact key rfl h
  | sweeping r q n left table => exact ⟨key rfl h.1, h.2⟩
  | idle | closing _ _ => trivial

theorem stop_unpowered (ending : Ending) (x : Engine) : (x.stop ending).unpowered powered := by
  cases x <;> trivial

theorem resetRun_unpowered (x : Engine) : x.resetRun.unpowered powered := by
  cases x <;> trivial

end Engine

theorem Run.nextPair_unpowered {powered : Port → PairSet} {r : Run} (h : r.toSweep &&& powered r.port = 0) :
    r.nextPair.unpowered powered := by
  unfold Run.nextPair
  split
  · next q hq =>
    have hfound := List.find?_some hq
    simp only [Bool.and_eq_true] at hfound
    exact ⟨h, hfound.1⟩
  · trivial

namespace Engine

variable {powered : Port → PairSet} {x : Engine}

theorem unpowered.detached (h : x.unpowered powered) : x.detached.unpowered powered := by
  cases x with
  | attaching r wait => exact Run.nextPair_unpowered h
  | _ => exact h

theorem unpowered.completeSweep (h : x.unpowered powered) (echoes : List Echo) :
    (x.completeSweep echoes).unpowered powered := by
  cases x with
  | sweeping r q n left table =>
    unfold Engine.completeSweep
    dsimp only
    split
    · exact h
    · exact Run.nextPair_unpowered h.1
  | _ => exact h

theorem unpowered.tick (h : x.unpowered powered) : x.tick.unpowered powered := by
  cases x <;> exact h

end Engine

/-- A set of pairs without the powered ones has no powered one. -/
theorem PairSet.and_not_and_self (a b : PairSet) : a &&& ~~~b &&& b = 0 := by
  ext i
  simp

theorem State.freshRun_unpowered (s : State) (x : Entry) :
    (s.freshRun x).toSweep &&& s.powered (s.freshRun x).port = 0 := PairSet.and_not_and_self _ _

theorem State.resumedRun_unpowered (s : State) (x : Entry) (ctx : Suspended) :
    (s.resumedRun x ctx).toSweep &&& s.powered (s.resumedRun x ctx).port = 0 := PairSet.and_not_and_self _ _

/-! ### The shared operations -/

theorem State.engine_stopOnPower_ne (s : State) (p : Port) {e f : EngineId} (hf : f ≠ e) :
    (s.stopOnPower p e).engine f = s.engine f := by
  unfold State.stopOnPower
  split
  · rw [State.engine_report, State.engine_setEngine, if_neg hf]
  · rfl

theorem State.stopOnPower_running_self (s : State) (p : Port) (e : EngineId) :
    ((s.stopOnPower p e).engine e).running = false := by
  unfold State.stopOnPower
  split
  · rw [State.engine_report, State.engine_setEngine_self]
    cases s.engine e <;> rfl
  · next h => simpa using h

namespace State.SweepsUnpowered

variable {s t : State}

/-- The powered pairs and the engines are as they were. -/
theorem of_same (hs : s.SweepsUnpowered) (hp : ∀ p, t.powered p = s.powered p) (he : ∀ e, t.engine e = s.engine e) :
    t.SweepsUnpowered := by
  refine ⟨fun e => ?_⟩
  rw [he, funext hp]
  exact hs.engines e

theorem elsewhere (hs : s.SweepsUnpowered) (ports : t.ports = s.ports := by rfl)
    (engines : t.engines = s.engines := by rfl) : t.SweepsUnpowered :=
  hs.of_same (fun p => by rw [State.powered, State.port_of_ports ports]; rfl) fun e => by
    simp only [State.engine, engines]

theorem onlyPort {p : Port} (hs : s.SweepsUnpowered) (h : OnlyPort p s t)
    (hp : (t.port p).tc.f.powered = (s.port p).tc.f.powered) : t.SweepsUnpowered :=
  hs.of_same (h.forall_port (P := fun q a => a.tc.f.powered = s.powered q) hp fun _ _ => rfl)
    fun e => by simp only [State.engine, h.1.engines]

theorem modPort {p : Port} {f : PortState → PortState} (hs : s.SweepsUnpowered)
    (hf : (f (s.port p)).tc.f.powered = (s.port p).tc.f.powered := by rfl) : (s.modPort p f).SweepsUnpowered :=
  hs.onlyPort (OnlyPort.modPort s p f) (by rwa [State.port_modPort_self])

theorem setInbox {p : Port} {box : Inbox} (hs : s.SweepsUnpowered) : (s.setInbox p box).SweepsUnpowered := hs.modPort

theorem commit {p : Port} {r : LineRecord} (hs : s.SweepsUnpowered) : (s.commit p r).SweepsUnpowered :=
  hs.onlyPort (State.commit_onlyPort s p r) (by rw [State.commit_tc])

theorem submit {host : Bool} {p : Port} {u : Update} (hs : s.SweepsUnpowered) : (s.submit host p u).SweepsUnpowered :=
  hs.onlyPort (State.submit_onlyPort s host p u) (by rw [State.submit_tc])

theorem event {host : Bool} {p : Port} {out : TcEffect} {sched : SchedFields} (hs : s.SweepsUnpowered)
    (ho : out.m.f.powered = (s.port p).tc.f.powered) : (s.event host p out sched).SweepsUnpowered :=
  hs.onlyPort (State.event_onlyPort s host p out sched) (by rwa [State.event_tc])

theorem tcEvent {host : Bool} {p : Port} {out : TcEffect} (hs : s.SweepsUnpowered)
    (ho : out.m.f.powered = (s.port p).tc.f.powered) : (s.tcEvent host p out).SweepsUnpowered := hs.event ho

theorem schedEvent {host : Bool} {p : Port} {sched : SchedFields} (hs : s.SweepsUnpowered) :
    (s.schedEvent host p sched).SweepsUnpowered := hs.event rfl

theorem foldl {α : Type} {f : State → α → State} (hf : ∀ {t : State} a, t.SweepsUnpowered → (f t a).SweepsUnpowered)
    (l : List α) (hs : s.SweepsUnpowered) : (l.foldl f s).SweepsUnpowered := by
  induction l generalizing s with
  | nil => exact hs
  | cons a l ih => exact ih (hf a hs)

theorem setEngine {e : EngineId} {x : Engine} (hs : s.SweepsUnpowered) (hx : x.unpowered s.powered) :
    (s.setEngine e x).SweepsUnpowered := by
  refine ⟨fun f => ?_⟩
  rw [State.engine_setEngine]
  split
  · exact hx
  · exact hs.engines f

theorem assignEngine {e : EngineId} {x : Engine} (hs : s.SweepsUnpowered) (hx : x.unpowered s.powered) :
    (s.assignEngine e x).SweepsUnpowered := (hs.setEngine hx).elsewhere

theorem releaseEngine {e : EngineId} (hs : s.SweepsUnpowered) : (s.releaseEngine e).SweepsUnpowered :=
  (hs.setEngine (x := .idle) trivial).elsewhere

theorem offerPlace {host : Bool} (hs : s.SweepsUnpowered) : (s.offerPlace host).SweepsUnpowered := by
  obtain ⟨hsame, htc, -⟩ := State.offerPlaceTo_cases host allPorts s
  refine hs.of_same (fun p => ?_) fun e => ?_
  · simp only [State.powered, State.offerPlace, htc]
  · simp only [State.engine, State.offerPlace, hsame.engines]

theorem endSuspended {host : Bool} {p : Port} {cause : Ending} {ctx : Suspended} (hs : s.SweepsUnpowered) :
    (s.endSuspended host p cause ctx).SweepsUnpowered :=
  offerPlace (event (hs.elsewhere (t := s.dropEntry p)) (PortMachine.returnPort_powered cause))

theorem stopOnPower {p : Port} {e : EngineId} (hs : s.SweepsUnpowered) : (s.stopOnPower p e).SweepsUnpowered := by
  unfold State.stopOnPower
  split
  · exact elsewhere (hs.setEngine (Engine.stop_unpowered .power (s.engine e)))
  · exact hs

theorem lendTo {e : EngineId} {r : Run} (hs : s.SweepsUnpowered) (hr : r.toSweep &&& s.powered r.port = 0) :
    (s.lendTo e r).SweepsUnpowered := by
  refine event (modPort (hs.assignEngine (x := .attaching r detachWait) hr)) ?_
  rw [State.port_modPort_self]
  exact PortMachine.lend_powered

theorem abortPowered {r : Run} (hs : s.SweepsUnpowered) : (s.abortPowered r).SweepsUnpowered := offerPlace hs.schedEvent

theorem takeWithdraw {p : Port} {src : GuardSource} (hs : s.SweepsUnpowered) : (s.takeWithdraw p src).SweepsUnpowered :=
  hs.tcEvent (PortMachine.withdraw_powered _)

theorem recordSource {p : Port} {f : Firing} (hs : s.SweepsUnpowered) : (s.recordSource p f).SweepsUnpowered := by
  unfold State.recordSource
  split
  · exact hs
  · split
    · exact hs
    · exact submit hs.modPort

theorem reconcile {p : Port} {completed : List PairResult} (hs : s.SweepsUnpowered) :
    (s.reconcile p completed).SweepsUnpowered := by
  unfold State.reconcile
  dsimp only
  split
  · exact hs.commit.elsewhere
  · exact hs.commit

theorem takeRunEdges {p : Port} {edges : List GuardSource} (hs : s.SweepsUnpowered) :
    (s.takeRunEdges p edges).SweepsUnpowered := by
  unfold State.takeRunEdges
  split
  · exact hs.recordSource.takeWithdraw
  · exact hs.recordSource

theorem completePortReset {p : Port} {aborted : Bool} (hs : s.SweepsUnpowered) :
    (s.completePortReset p aborted).SweepsUnpowered := by
  obtain ⟨honly, -, heq⟩ := State.portResetUpdate_leaves s p aborted
  refine elsewhere (s := s.portResetUpdate p aborted) (hs.onlyPort honly ?_)
  rw [heq]

theorem bindEnded (hs : s.SweepsUnpowered) : s.bindEnded.SweepsUnpowered := by
  refine hs.of_same (fun p => ?_) fun e => State.engine_bindEnded s e
  rw [State.powered, State.port_bindEnded, PortState.applyWaiting_rest]
  rfl

theorem endBind (hs : s.SweepsUnpowered) : s.endBind.SweepsUnpowered := by
  rw [State.endBind_eq]
  unfold State.finishSuspendedReset
  split
  · exact hs.bindEnded.completePortReset
  · exact hs.bindEnded

/-- With every engine idle nothing is driven. -/
theorem of_reset (h : t.engines = State.reset.engines) : t.SweepsUnpowered := by
  refine ⟨fun e => ?_⟩
  have : t.engine e = .idle := by
    rw [← State.reset_engine e]
    simp only [State.engine, h]
  rw [this]
  trivial

/-- An event that changes the powered pairs of a port that no engine sweeps, or leaves it none. -/
theorem powerEvent {p : Port} {out : TcEffect} (hs : s.SweepsUnpowered)
    (h : ∀ e, (s.engine e).view p ≠ none → (s.engine e).running = true → out.m.f.powered = 0) :
    (s.tcEvent false p out).SweepsUnpowered := by
  refine ⟨fun e => ?_⟩
  have he : (s.tcEvent false p out).engine e = s.engine e := State.engine_event _ _ _ _ _ _
  have honly := State.event_onlyPort s false p out (s.port p).sched
  rw [he]
  cases hr : (s.engine e).running with
  | false => cases hx : s.engine e <;> simp_all [Engine.running, Engine.unpowered]
  | true =>
    refine (hs.engines e).mono fun r hrun => ?_
    by_cases hp : r.port = p
    · right
      rw [hp, State.powered, State.tcEvent, State.event_tc]
      exact h e (Engine.view_ne_none.2 ⟨r, hrun, hp⟩) hr
    · left
      simp only [State.powered, State.tcEvent, honly.2 _ hp]

/-! ### The Line Signal Link -/

theorem receiveFrame (hs : s.SweepsUnpowered) (g : Group) (bytes : List Byte) :
    (receiveFrame g bytes s).SweepsUnpowered := by
  have hear : (s.hear g).SweepsUnpowered := by
    unfold State.hear
    split
    · exact hs.elsewhere
    · exact foldl (fun _ h => h.modPort) _ hs.elsewhere
  unfold Machine.receiveFrame
  split
  · exact hs
  · split
    · exact hear
    · exact hear.modPort

theorem silenceExpiryOf (hs : s.SweepsUnpowered) (g : Group) : (silenceExpiryOf g s).SweepsUnpowered := by
  unfold Machine.silenceExpiryOf
  split
  · exact foldl (fun _ h => h.modPort) _ hs.elsewhere
  · exact hs

theorem idleFrameSendOf (hs : s.SweepsUnpowered) (g : Group) : (idleFrameSendOf g s).SweepsUnpowered := by
  unfold Machine.idleFrameSendOf
  split
  · exact hs.elsewhere
  · exact hs

theorem transmitMessageOf (hs : s.SweepsUnpowered) (g : Group) : (transmitMessageOf g s).SweepsUnpowered := by
  have taken {p : Port} {l : List Outbound} {x : GroupLink} :
      ((s.modPort p fun ps => { ps with transmit := l }).setGroup g x).SweepsUnpowered :=
    elsewhere (s := s.modPort p fun ps => { ps with transmit := l }) hs.modPort
  unfold Machine.transmitMessageOf
  split
  · exact hs
  · split
    · exact hs
    · split
      · exact hs
      · exact taken

/-! ### The Training Controller and the Line Guard -/

/-- A message of the inbox other than POWER. -/
theorem message {p : Port} {box : Inbox} {out : TcEffect} (hs : s.SweepsUnpowered)
    (ho : out.m.f.powered = (s.port p).tc.f.powered) : ((s.setInbox p box).tcEvent false p out).SweepsUnpowered :=
  hs.setInbox.tcEvent (by rwa [Acts.tc_setInbox])

/-- POWER: the engine that holds the port stops in the event that takes the message, and no other holds it (R89). -/
theorem takePowerAt (hs : s.SweepsUnpowered) (hok : s.schedulerOk) (p : Port) : (takePowerAt p s).SweepsUnpowered := by
  unfold Machine.takePowerAt
  split
  · split
    · next pairs fault _ =>
      dsimp only
      split
      · next e _ he =>
        obtain ⟨v, hv⟩ := State.view_of_engineHolding he
        obtain ⟨-, -, -, others, -⟩ := (hok.stands p).of_view hv
        refine powerEvent hs.setInbox.stopOnPower fun f hf hrun => ?_
        by_cases hfe : f = e
        · rw [hfe, State.stopOnPower_running_self] at hrun
          cases hrun
        · rw [State.engine_stopOnPower_ne _ _ hfe] at hf
          exact absurd (others f hfe) hf
      · next hout =>
        refine powerEvent hs.setInbox fun f hf _ => ?_
        obtain ⟨v, hv⟩ := Option.ne_none_iff_exists'.1 hf
        obtain ⟨-, hlent, -⟩ := (hok.stands p).of_view hv
        obtain ⟨e, he⟩ := Option.ne_none_iff_exists'.1 fun hn => hf (State.view_of_no_engineHolding hn f)
        by_contra hpairs
        refine hout e ?_ he
        rw [PortMachine.takePower_notice, decide_eq_true hlent, Bool.true_and, decide_eq_true]
        exact hpairs
    · exact hs
  · exact hs

theorem takeDetachedAt (hs : s.SweepsUnpowered) (p : Port) : (takeDetachedAt p s).SweepsUnpowered := by
  have hbox {box : Inbox} : (s.setInbox p box).SweepsUnpowered := hs.setInbox
  unfold Machine.takeDetachedAt
  split
  · dsimp only
    split
    · split
      · next e _ => exact hbox.setEngine (hbox.engines e).detached
      · exact hbox
    · exact hbox
  · exact hs

theorem takeEnergyAt (hs : s.SweepsUnpowered) (p : Port) : (takeEnergyAt p s).SweepsUnpowered := by
  unfold Machine.takeEnergyAt
  split
  · split
    · exact hs.message (PortMachine.takeEnergy_powered _)
    · exact hs
  · exact hs

theorem takeLostAt (hs : s.SweepsUnpowered) (p : Port) : (takeLostAt p s).SweepsUnpowered := by
  unfold Machine.takeLostAt
  split
  · exact hs.message PortMachine.takeLost_powered
  · exact hs

theorem takeResultPassAt (hs : s.SweepsUnpowered) (p : Port) : (takeResultPassAt p s).SweepsUnpowered := by
  unfold Machine.takeResultPassAt
  split
  · split
    · exact hs.message (PortMachine.takeResultPass_powered _ _ _)
    · exact hs
  · exact hs

theorem takeResultFailAt (hs : s.SweepsUnpowered) (p : Port) : (takeResultFailAt p s).SweepsUnpowered := by
  unfold Machine.takeResultFailAt
  split
  · split
    · exact hs.message PortMachine.failAttempt_powered
    · exact hs
  · exact hs

theorem takePageAt (hs : s.SweepsUnpowered) (p : Port) : (takePageAt p s).SweepsUnpowered := by
  unfold Machine.takePageAt
  split
  · split
    · exact hs.message (PortMachine.takePage_powered _)
    · exact hs
  · exact hs

theorem listenExpiryAt (hs : s.SweepsUnpowered) (p : Port) : (listenExpiryAt p s).SweepsUnpowered := by
  unfold Machine.listenExpiryAt
  split
  · exact hs.tcEvent (PortMachine.advertise_powered false)
  · exact hs

theorem trainExpiryAt (hs : s.SweepsUnpowered) (p : Port) : (trainExpiryAt p s).SweepsUnpowered := by
  unfold Machine.trainExpiryAt
  split
  · exact hs.tcEvent PortMachine.failAttempt_powered
  · exact hs

theorem takeWithdrawAt (hs : s.SweepsUnpowered) (p : Port) : (takeWithdrawAt p s).SweepsUnpowered := by
  unfold Machine.takeWithdrawAt
  split
  · exact takeWithdraw hs.modPort
  · exact hs

theorem guardFiringAt (hs : s.SweepsUnpowered) (p : Port) : (guardFiringAt p s).SweepsUnpowered := by
  unfold Machine.guardFiringAt
  split
  · unfold State.takeFiring
    split
    · exact recordSource hs.modPort
    · exact modPort (recordSource hs.modPort)
  · exact hs

/-! ### The Probe Scheduler and the engines -/

theorem autoProbeRequestAt (hs : s.SweepsUnpowered) (p : Port) : (autoProbeRequestAt p s).SweepsUnpowered := by
  have taken : (s.modPort p fun ps => { ps with autoRequests := ps.autoRequests - 1 }).SweepsUnpowered := hs.modPort
  unfold Machine.autoProbeRequestAt
  split
  · exact hs
  · unfold State.takeAutoProbe
    dsimp only
    split
    · exact taken
    · split
      · exact taken.elsewhere
      · split
        · exact taken
        · split
          · exact schedEvent taken.elsewhere
          · exact taken.schedEvent

theorem powerNoticeAt (hs : s.SweepsUnpowered) (p : Port) : (powerNoticeAt p s).SweepsUnpowered := by
  have taken : (s.modPort p fun ps => { ps with powerNotice := false }).SweepsUnpowered := hs.modPort
  unfold Machine.powerNoticeAt
  split
  · dsimp only
    split
    · unfold State.takePowerNotice
      split
      · exact taken.stopOnPower
      · split
        · split
          · exact endSuspended taken.elsewhere
          · exact taken
        · exact taken
    · exact taken
  · exact hs

/-- The head's run sweeps none of the pairs that are powered at its dispatch (R75). -/
theorem dispatchHead (hs : s.SweepsUnpowered) : (dispatchHead s).SweepsUnpowered := by
  unfold Machine.dispatchHead
  split
  · exact hs
  · split
    · next e x rest _ _ =>
      split
      · exact hs
      · dsimp only
        split
        · exact abortPowered hs.elsewhere
        · exact offerPlace (lendTo hs.elsewhere (s.freshRun_unpowered x))
    · exact hs

/-- A resumed run sweeps none of the pairs that are powered at its resumption (R76). -/
theorem resumeHead (hs : s.SweepsUnpowered) : (resumeHead s).SweepsUnpowered := by
  unfold Machine.resumeHead
  split
  · exact hs
  · split
    · next e x rest _ _ =>
      split
      · exact hs
      · next ctx _ =>
        split
        · exact hs
        · exact schedEvent (assignEngine hs.elsewhere (Run.nextPair_unpowered (s.resumedRun_unpowered x ctx)))
    · exact hs

theorem preemptForHead (hs : s.SweepsUnpowered) : (preemptForHead s).SweepsUnpowered := by
  unfold Machine.preemptForHead
  split
  · exact hs
  · split
    · next x rest e _ _ =>
      split
      · exact hs
      · split
        · exact hs
        · dsimp only
          split
          · exact abortPowered hs.elsewhere
          · exact schedEvent (lendTo hs.elsewhere (s.freshRun_unpowered x))
    · exact hs

theorem waitExpiryOf (hs : s.SweepsUnpowered) (e : EngineId) : (waitExpiryOf e s).SweepsUnpowered := by
  unfold Machine.waitExpiryOf
  split
  · exact elsewhere (hs.setEngine (Engine.stop_unpowered .noDetach (s.engine e)))
  · exact hs

theorem sweepCompletionOf (hs : s.SweepsUnpowered) (e : EngineId) (echoes : List Echo) :
    (sweepCompletionOf e echoes s).SweepsUnpowered := by
  unfold Machine.sweepCompletionOf
  split
  · exact hs.setEngine ((hs.engines e).completeSweep echoes)
  · exact hs

/-! ### Endings -/

theorem takeEndingCompleteOf (hs : s.SweepsUnpowered) (e : EngineId) : (takeEndingCompleteOf e s).SweepsUnpowered := by
  unfold Machine.takeEndingCompleteOf
  split
  · split
    · exact hs
    · exact event hs.reconcile.takeRunEdges.releaseEngine (PortMachine.returnPort_powered _)
  · exact hs

theorem takeEndingAbortedOf (hs : s.SweepsUnpowered) (e : EngineId) : (takeEndingAbortedOf e s).SweepsUnpowered := by
  unfold Machine.takeEndingAbortedOf
  split
  · split
    · exact hs
    · exact hs
    · split
      · exact hs
      · exact event hs.releaseEngine (PortMachine.returnPort_powered _)
  · exact hs

theorem takeEndingResetOf (hs : s.SweepsUnpowered) (e : EngineId) : (takeEndingResetOf e s).SweepsUnpowered := by
  rcases takeEndingResetOf_cases e s with h | ⟨r, -, -, h⟩ <;> rw [h]
  · exact hs
  · exact hs.releaseEngine.completePortReset

/-! ### The host, the end of a bind and the resets -/

theorem probePort (hs : s.SweepsUnpowered) (p : Port) (pairs : PairSet) (cls : ReqClass) :
    (probePort p pairs cls s).SweepsUnpowered := by
  have refuse (c : Cause) (q : Option Port) : (s.refuse c q).SweepsUnpowered := hs.elsewhere
  have queued {l : List Entry} {sched : SchedFields} {r : Vector Byte 8} :
      ((State.schedEvent { s with queue := l } true p sched).withReply r).SweepsUnpowered :=
    elsewhere (schedEvent (s := { s with queue := l }) hs.elsewhere)
  unfold Machine.probePort
  dsimp only
  split
  · exact refuse _ _
  · split
    · exact refuse _ _
    · split
      · exact refuse _ _
      · split
        · exact hs.elsewhere
        · split
          · exact refuse _ _
          · split <;> exact queued

theorem cancelPort (hs : s.SweepsUnpowered) (p : Port) : (cancelPort p s).SweepsUnpowered := by
  have replied {u : State} (hu : u.SweepsUnpowered) : (u.withReply replyAccepted).SweepsUnpowered := hu.elsewhere
  unfold Machine.cancelPort
  refine replied ?_
  split
  · exact hs.setEngine (Engine.stop_unpowered _ _)
  · split
    · split
      · exact hs.endSuspended
      · exact offerPlace (schedEvent (hs.elsewhere (t := s.dropEntry p)))
    · split
      · exact hs.schedEvent
      · exact hs

theorem resetScheduling (hs : s.SweepsUnpowered) (p : Port) : (s.resetScheduling p).SweepsUnpowered := by
  have cleared : (s.modPort p PortState.clearWanted).SweepsUnpowered := hs.modPort (by rw [PortState.clearWanted_tc])
  unfold State.resetScheduling
  dsimp only
  split
  · exact cleared.setEngine (Engine.resetRun_unpowered _)
  · split
    · exact offerPlace (cleared.elsewhere (t := (s.modPort p PortState.clearWanted).dropEntry p))
    · exact cleared

theorem portResetPort (hs : s.SweepsUnpowered) (p : Port) : (portResetPort p s).SweepsUnpowered := by
  rcases portResetPort_cases p s with ⟨b, h⟩ | ⟨b, h⟩ <;> rw [h]
  · exact (hs.resetScheduling p).completePortReset
  · exact elsewhere (s := (s.resetScheduling p).modPort p PortState.discardWaiting) (hs.resetScheduling p).modPort

theorem bindExpiryOf (hs : s.SweepsUnpowered) : (bindExpiryOf s).SweepsUnpowered := by
  unfold Machine.bindExpiryOf
  split
  · split
    · exact endBind hs.elsewhere
    · exact hs
  · exact hs

theorem resetnFalls (hs : s.SweepsUnpowered) : (resetnFalls s).SweepsUnpowered := by
  unfold Machine.resetnFalls
  split
  · exact of_reset rfl
  · exact hs

theorem deviceResetCompletes (hs : s.SweepsUnpowered) : (deviceResetCompletes s).SweepsUnpowered := by
  unfold Machine.deviceResetCompletes
  split
  · exact of_reset rfl
  · exact hs

theorem tick (hs : s.SweepsUnpowered) : (tick s).SweepsUnpowered := by
  refine ⟨fun e => ?_⟩
  rw [engine_tick]
  refine (hs.engines e).tick.mono fun r _ => .inl ?_
  rw [State.powered, port_tick]
  rfl

end State.SweepsUnpowered

/-! ### Every command -/

theorem hostKeeps_sweepsUnpowered : HostKeeps State.SweepsUnpowered where
  quiet h hs := hs.of_same (fun p => by rw [State.powered, (h.blocks p).tc]; rfl) fun e => by
    simp only [State.engine, h.engines]
  setting _ hs := hs.elsewhere
  template _ hs := hs.elsewhere
  store _ hs := hs.commit
  deviceReset _ := .of_reset rfl
  endBind hs := hs.endBind
  machine h hs := hs.tcEvent h.powered
  portReset p _ hs := hs.portResetPort p
  probe p pairs cls _ _ hs := hs.probePort p pairs cls
  cancel p _ hs := hs.cancelPort p

/-- The commands that are not the host's. -/
theorem exec_sweepsUnpowered_of_not_host {c : Instr} {s t : State} (hhost : isHost c = false) (he : exec c s = .next t)
    (hok : s.schedulerOk) (hs : s.SweepsUnpowered) : t.SweepsUnpowered := by
  cases c <;> simp only [isHost, Bool.true_eq_false] at hhost <;> cases he
  case frameReceive => exact hs.receiveFrame _ _
  case silenceExpiry => exact hs.silenceExpiryOf _
  case idleFrameSend => exact hs.idleFrameSendOf _
  case transmitMessage => exact hs.transmitMessageOf _
  case takePower => exact hs.takePowerAt hok _
  case takeDetached => exact hs.takeDetachedAt _
  case takeEnergy => exact hs.takeEnergyAt _
  case takeLost => exact hs.takeLostAt _
  case takeResultPass => exact hs.takeResultPassAt _
  case takeResultFail => exact hs.takeResultFailAt _
  case takePage => exact hs.takePageAt _
  case listenExpiry => exact hs.listenExpiryAt _
  case trainExpiry => exact hs.trainExpiryAt _
  case takeWithdraw => exact hs.takeWithdrawAt _
  case guardFiring => exact hs.guardFiringAt _
  case waitExpiry => exact hs.waitExpiryOf _
  case sweepCompletion => exact hs.sweepCompletionOf _ _
  case scanExamineRecord => exact hostKeeps_sweepsUnpowered.quiet (scanExamine_hostQuiet s) hs
  case searchComplete => exact hostKeeps_sweepsUnpowered.quiet (searchCompleteOf_hostQuiet s) hs
  case resetnRelease => exact hs.elsewhere
  case autoProbeRequest => exact hs.autoProbeRequestAt _
  case powerNotice => exact hs.powerNoticeAt _
  case dispatch => exact hs.dispatchHead
  case resumption => exact hs.resumeHead
  case preemption => exact hs.preemptForHead
  case takeEndingComplete => exact hs.takeEndingCompleteOf _
  case takeEndingAborted => exact hs.takeEndingAbortedOf _
  case takeEndingReset => exact hs.takeEndingResetOf _
  case bindExpiry => exact hs.bindExpiryOf
  case resetnAssert => exact hs.resetnFalls
  case powerUp => exact .of_reset rfl
  case deviceResetComplete => exact hs.deviceResetCompletes

theorem exec_sweepsUnpowered {c : Instr} {s t : State} (he : exec c s = .next t) (hok : s.schedulerOk)
    (hs : s.SweepsUnpowered) : t.SweepsUnpowered := by
  cases hhost : isHost c with
  | true => exact hostKeeps_sweepsUnpowered.exec hhost he hs
  | false => exact exec_sweepsUnpowered_of_not_host hhost he hok hs

/-- The pair an engine drives is one its run sweeps, and so none that is powered. -/
theorem State.SweepsUnpowered.drives {s : State} (hs : s.SweepsUnpowered) {e : EngineId} {p : Port} {q : Pair}
    (hd : s.drives e = some (p, q)) : (s.port p).tc.f.powered.getLsbD q.index = false := by
  have he := hs.engines e
  unfold State.drives at hd
  split at hd
  · next r q' n left table hx =>
    cases hd
    rw [hx] at he
    obtain ⟨hclear, hq⟩ := he
    have hbit := congrArg (fun a : PairSet => a.getLsbD q.index) hclear
    have hq : r.toSweep.getLsbD q.index = true := hq
    simpa [hq, State.powered] using hbit
  · cases hd

/-- Settles O58: a run is given only pairs that are not powered, and POWER stops the engine that holds its port. -/
theorem noEngineDrivesAPoweredPair : Obligations.NoEngineDrivesAPoweredPair := by
  refine ⟨fun s t hok hs h => ?_, fun s e p q hs hd => (State.powerOk_iff.1 hs).drives hd⟩
  rw [State.powerOk_iff] at hs ⊢
  unfold step at h
  split at h
  · next c rest _ => exact exec_sweepsUnpowered (s := { s with pending := rest }) h hok hs.elsewhere
  · cases h
    exact hs.tick

end Sys2Proof.Machine

end

section

namespace Sys2Proof.Machine

/-! ## DISPATCH (R74, R75, R90) -/

section

variable {s : State}

theorem State.bound_eq_false (h : s.bind = none) : s.bound = false := by
  simp [State.bound, h]

/-- A head with no pair to sweep leaves with status ABORTED and outcome POWER, and its place is offered (R75). -/
theorem State.abortPowered_leaves (s : State) (r : Run) :
    ∃ u,
      EventLeaves false [] r.port
        { s.port r.port with
          sched := { status := .aborted, outcome := some { cause := .power, skipped := r.skipped } } }
        [] s u
      ∧ s.abortPowered r = u.offerPlace false :=
  ⟨_, State.schedEvent_leaves s false r.port _, rfl⟩

theorem dispatchHead_of_bound (h : s.bind ≠ none) : dispatchHead s = s := by
  unfold dispatchHead
  rw [if_pos (State.bound_iff.2 h)]

/-- The dispatch of a queued head, with an engine IDLE and no bind open. -/
theorem dispatchHead_of_queued {e : EngineId} {x : Entry} {rest : List Entry} (hb : s.bind = none)
    (he : s.idleEngine = some e) (hq : s.queue = x :: rest) (hx : x.suspended = none)
    (hm : (s.port x.port).tc.f.mode ≠ .lent) :
    dispatchHead s =
      if (s.freshRun x).toSweep = 0 then ({ s with queue := rest } : State).abortPowered (s.freshRun x)
      else (({ s with queue := rest } : State).lendTo e (s.freshRun x)).offerPlace false := by
  simp only [dispatchHead, State.bound_eq_false hb, he, hq, hx, Option.isSome_none, decide_eq_false hm, Bool.or_self,
    Bool.false_eq_true, if_false]

end

/-- Settles O41, by whether the head has a pair to sweep. -/
theorem dispatchLendsThePort : Obligations.DispatchLendsThePort := by
  intro e x rest s he hl hq hx
  refine ⟨fun hb => congrArg Host.Outcome.next (dispatchHead_of_bound hb), fun hb hm => ?_⟩
  have hexec : exec .dispatch s = .next (dispatchHead s) := rfl
  rw [hexec, dispatchHead_of_queued hb (State.idleEngine_of he hl) hq hx hm]
  refine ⟨fun hr => ?_, fun hr => ?_⟩
  · obtain ⟨u, hu, ht⟩ := State.abortPowered_leaves { s with queue := rest } (s.freshRun x)
    exact ⟨u, hu, congrArg Host.Outcome.next ((if_pos hr).trans ht)⟩
  · exact ⟨_, State.lendTo_leaves { s with queue := rest } e (s.freshRun x) hm, congrArg Host.Outcome.next (if_neg hr)⟩

/-! ## RESUMPTION (R76, R93) -/

section

variable {s : State}

theorem resumeHead_of_bound (h : s.bind ≠ none) : resumeHead s = s := by
  unfold resumeHead
  rw [if_pos (State.bound_iff.2 h)]

/-- The resumption of a suspended head, with an engine IDLE, no bind open and no power notice of its port out. -/
theorem resumeHead_of_suspended {e : EngineId} {x : Entry} {ctx : Suspended} {rest : List Entry} (hb : s.bind = none)
    (he : s.idleEngine = some e) (hq : s.queue = x :: rest) (hx : x.suspended = some ctx)
    (hn : (s.port x.port).powerNotice = false) :
    resumeHead s =
      (({ s with queue := rest } : State).assignEngine e (s.resumedRun x ctx).nextPair).schedEvent false x.port
        { (s.port x.port).sched with status := .running } := by
  simp only [resumeHead, State.bound_eq_false hb, he, hq, hx, hn, Bool.false_eq_true, if_false]

theorem pairIndex_lt (q : Pair) : q.index < 4 := by
  cases q <;> decide

/-- The run a suspended entry becomes, by the pairs it is still to sweep and those it skips. -/
theorem State.resumedRun_eq (s : State) {x : Entry} {ctx : Suspended} {toSweep skipped : PairSet}
    (hsweep : ∀ q : Pair, toSweep.getLsbD q.index = true ↔
      x.pairs.getLsbD q.index = true ∧ (¬ ∃ y ∈ ctx.completed, y.pair = q)
        ∧ (s.port x.port).tc.f.powered.getLsbD q.index = false)
    (hskip : ∀ q : Pair, skipped.getLsbD q.index = true ↔
      ctx.skipped.getLsbD q.index = true
        ∨ (x.pairs.getLsbD q.index = true ∧ (¬ ∃ y ∈ ctx.completed, y.pair = q)
          ∧ (s.port x.port).tc.f.powered.getLsbD q.index = true)) :
    s.resumedRun x ctx =
      { port := x.port, cls := x.cls, requested := x.pairs, toSweep := toSweep, skipped := skipped
        latched := ctx.latched, completed := ctx.completed } := by
  have hleft (q : Pair) : (x.pairs &&& ~~~completedSet ctx.completed).getLsbD q.index = true ↔
      x.pairs.getLsbD q.index = true ∧ ¬ ∃ y ∈ ctx.completed, y.pair = q := by
    rw [← completedSet_mem]
    simp [pairIndex_lt]
  have h1 : (s.resumedRun x ctx).toSweep = toSweep := pairSet_ext fun q => by
    rw [hsweep, ← and_assoc, ← hleft]
    simp [State.resumedRun, pairIndex_lt]
  have h2 : (s.resumedRun x ctx).skipped = skipped := pairSet_ext fun q => by
    rw [hskip, ← and_assoc, ← hleft]
    simp [State.resumedRun, pairIndex_lt]
  rw [← h1, ← h2]
  rfl

end

/-- Settles O42, by the first of the pairs still to sweep. -/
theorem resumptionContinuesASuspendedRun : Obligations.ResumptionContinuesASuspendedRun := by
  intro e x ctx rest s he hl hq hx
  refine ⟨fun hb => congrArg Host.Outcome.next (resumeHead_of_bound hb), fun hb hn toSweep skipped hsweep hskip => ?_⟩
  have hresume := resumeHead_of_suspended hb (State.idleEngine_of he hl) hq hx hn
  rw [State.resumedRun_eq s hsweep hskip] at hresume
  refine ⟨fun q hfirst hlower => ?_, fun hnone => ?_⟩
  · rw [Run.nextPair_eq (k := q)] at hresume
    · exact ⟨_, congrArg Host.Outcome.next hresume, State.schedEvent_leaves _ _ _ _⟩
    · obtain ⟨-, hopen, -⟩ := (hsweep q).1 hfirst
      exact ⟨hfirst, fun y hy hp => hopen ⟨y, hy, hp⟩⟩
    · rintro j hj ⟨hin, -⟩
      exact Bool.false_ne_true ((hlower j hj).symm.trans hin)
  · rw [Run.nextPair_none] at hresume
    · exact ⟨_, congrArg Host.Outcome.next hresume, State.schedEvent_leaves _ _ _ _⟩
    · rintro j ⟨hin, -⟩
      simp [pairIn, hnone] at hin

/-! ## PREEMPTION (R77 to R79, R102) -/

section

variable {s : State}

theorem preemptForHead_of_bound (h : s.bind ≠ none) : preemptForHead s = s := by
  unfold preemptForHead
  rw [State.bound_iff.2 h, Bool.true_or, if_pos rfl]

theorem State.idleEngine_none (h : ∀ f, s.engine f ≠ .idle) : s.idleEngine = none := by
  refine List.find?_eq_none.2 fun f _ => ?_
  have := h f
  cases hx : s.engine f <;> simp_all [Engine.isIdle]

/-- The latest of the SWEEPING ROUTINE runs, all dispatched behind it being URGENT where they are SWEEPING (R77). -/
theorem State.victim_eq {e : EngineId} {r : Run} {q : Pair} {n left : Nat} {table : List Candidate}
    {later earlier : List EngineId} (horder : s.order = later ++ e :: earlier)
    (he : s.engine e = .sweeping r q n left table) (hr : r.cls = .routine)
    (hlater : ∀ f ∈ later, ∀ r q k l c, s.engine f = .sweeping r q k l c → r.cls = .urgent) : s.victim = some e := by
  have hnone : later.find? (fun f => (s.engine f).preemptible) = none := by
    refine List.find?_eq_none.2 fun f hf => ?_
    cases hx : s.engine f with
    | sweeping r' q' k l c => simp [Engine.preemptible, hlater f hf _ _ _ _ _ hx]
    | _ => simp [Engine.preemptible]
  have hpre : (s.engine e).preemptible = true := by
    simp [he, Engine.preemptible, hr]
  rw [State.victim, horder, List.find?_append, hnone, Option.none_or]
  exact List.find?_cons_of_pos (p := fun f => (s.engine f).preemptible) hpre

/-- The preemption for an URGENT head, by the run of the victim. -/
theorem preemptForHead_of_urgent {e : EngineId} {old : Run} {x : Entry} {rest : List Entry} (hb : s.bind = none)
    (hi : s.idleEngine = none) (hq : s.queue = x :: rest) (hv : s.victim = some e) (hold : (s.engine e).run? = some old)
    (hc : x.cls = .urgent) (hx : x.suspended = none) (hm : (s.port x.port).tc.f.mode ≠ .lent) :
    preemptForHead s =
      if (s.freshRun x).toSweep = 0 then ({ s with queue := rest } : State).abortPowered (s.freshRun x)
      else
        (({ s with queue := joinFrontOfRoutine rest old.suspend } : State).lendTo e (s.freshRun x)).schedEvent false
          old.port { (s.port old.port).sched with status := .suspended } := by
  simp only [preemptForHead, State.bound_eq_false hb, hi, hq, hv, hold, hc, hx, Option.isSome_none, decide_eq_false hm,
    ne_eq, not_true_eq_false, decide_false, Bool.or_self, Bool.false_eq_true, if_false]

/-- The lending changes the status of its own port alone. -/
theorem State.sched_lendTo_suspended (s : State) (e : EngineId) (r : Run) (p : Port) :
    { ((s.lendTo e r).port p).sched with status := .suspended } = { (s.port p).sched with status := .suspended } := by
  by_cases hp : p = r.port
  · rw [hp, State.sched_lendTo]
  · rw [State.port_lendTo_ne s e hp]

end

/-- Settles O43, by whether the head has a pair to sweep. -/
theorem preemptionSuspendsTheLatestRoutineRun : Obligations.PreemptionSuspendsTheLatestRoutineRun := by
  refine ⟨fun s hb => congrArg Host.Outcome.next (preemptForHead_of_bound hb), ?_⟩
  intro e old pair n left table later earlier x rest urgent routine s hb hi hq hc hx hm horder he hold hlater hrest hu
    hr
  have hexec : exec .preemption s = .next (preemptForHead s) := rfl
  rw [hexec, preemptForHead_of_urgent hb (State.idleEngine_none hi) hq (State.victim_eq horder he hold hlater)
    (by rw [he]; rfl) hc hx hm]
  refine ⟨fun hsweep => ?_, fun hsweep => ?_⟩
  · have hqueue : joinFrontOfRoutine rest old.suspend = urgent ++ old.suspend :: routine := by
      obtain ⟨h1, h2⟩ := urgentPart_append hu hr
      rw [joinFrontOfRoutine, hrest, h1, h2]
    rw [hqueue]
    refine ⟨_, _, congrArg Host.Outcome.next (if_neg hsweep),
      State.lendTo_leaves { s with queue := urgent ++ old.suspend :: routine } e (s.freshRun x) hm, ?_⟩
    rw [State.sched_lendTo_suspended]
    exact State.schedEvent_leaves _ _ _ _
  · obtain ⟨u, hu, ht⟩ := State.abortPowered_leaves { s with queue := rest } (s.freshRun x)
    exact ⟨u, hu, congrArg Host.Outcome.next ((if_pos hsweep).trans ht)⟩

/-! ## POWER_NOTICE (R83, R101) -/

section

variable {s : State} {p : Port}

/-- A suspended run ends: its port is returned as one update with status ABORTED, and the freed place is offered (R80,
R82, R83). -/
theorem State.endSuspended_leaves (s : State) (host : Bool) (p : Port) {cause : Ending} (ctx : Suspended)
    (hm : (s.port p).tc.f.mode = .lent) (hc : cause ≠ .complete) :
    ∃ u,
      EventLeaves host (if host then modeFields else []) p
        { s.port p with
          tc := ((s.port p).tc.returned false (s.port p).record.offer (s.port p).record.ceiling s.settings.listen).1
          sched := { status := .aborted, outcome := some { cause := cause, skipped := ctx.skipped } } }
        ((s.port p).tc.returned false (s.port p).record.offer (s.port p).record.ceiling s.settings.listen).2
        (s.dropEntry p) u
      ∧ s.endSuspended host p cause ctx = u.offerPlace host :=
  ⟨_, State.endAborted_leaves (s.dropEntry p) host p cause ctx.skipped hm hc, rfl⟩

theorem State.takePowerNotice_of_engine {e : EngineId} (he : s.engineHolding p = some e) :
    s.takePowerNotice p = s.stopOnPower p e := by
  simp only [State.takePowerNotice, he]

theorem State.takePowerNotice_of_suspended {x : Entry} {ctx : Suspended} (he : s.engineHolding p = none)
    (hx : s.entryOf p = some x) (hctx : x.suspended = some ctx) :
    s.takePowerNotice p = (s.report .powerAbort .event (some p)).endSuspended false p .power ctx := by
  simp only [State.takePowerNotice, he, hx, hctx]

/-- A notice that is out is taken. -/
theorem powerNoticeAt_eq (hn : (s.port p).powerNotice = true) :
    powerNoticeAt p s =
      if (s.port p).tc.f.mode = .lent then (s.setPort p { s.port p with powerNotice := false }).takePowerNotice p
      else s.setPort p { s.port p with powerNotice := false } := by
  unfold powerNoticeAt
  rw [if_pos hn]
  rfl

end

/-- Settles O44, by where the port's run stands. -/
theorem powerNoticeAbortsTheRun : Obligations.PowerNoticeAbortsTheRun := by
  intro p s hn
  have hexec : exec (.powerNotice p) s = .next (powerNoticeAt p s) := rfl
  dsimp only
  rw [hexec, powerNoticeAt_eq hn]
  refine ⟨fun hm => congrArg Host.Outcome.next (if_neg hm), fun hm => ?_⟩
  rw [if_pos hm]
  refine ⟨fun e r he => ?_, fun x ctx he hx hctx => ?_⟩
  · rw [State.takePowerNotice_of_engine (s := s.setPort p _) he]
    refine ⟨fun hrun => congrArg Host.Outcome.next ?_, fun ending hclosing => congrArg Host.Outcome.next ?_⟩
    · exact State.stopOnPower_running _ p hrun
    · exact State.stopOnPower_closing _ p hclosing
  · rw [State.takePowerNotice_of_suspended (s := s.setPort p _) he hx hctx]
    obtain ⟨u, hu, ht⟩ := State.endSuspended_leaves
      ((s.setPort p { s.port p with powerNotice := false }).report .powerAbort .event (some p)) false p
      (cause := .power) ctx (by rw [State.port_report, State.port_setPort_self]; exact hm) (by decide)
    rw [State.port_report, State.port_setPort_self] at hu
    exact ⟨u, hu, congrArg Host.Outcome.next ht⟩

end Sys2Proof.Machine

end

section

namespace Sys2Proof.Machine

/-! ## PROBE (R69 to R71, R73) -/

section

variable {s : State} {p : Port} {pb qb cb : Byte} {cls : ReqClass}

/-- A PROBE that the part takes on page 1 is carried out and counted. -/
theorem exec_probe (h : s.takesHost) (hpage : s.page = true) (extra : List Byte) :
    exec (.probe (pb :: qb :: cb :: extra)) s =
      .next (probeCommand pb qb cb { s with transfer := none }).countAccess := by
  have hdecode : decodeCommand s.page (0x10#8 :: pb :: qb :: cb :: extra) = .taken (.probe pb qb cb) := by
    rw [hpage]
    rfl
  rw [exec_command (bytes := 0x10#8 :: pb :: qb :: cb :: extra) rfl, commandWrite_taken h, hdecode]
  rfl

theorem classOf?_code (cls : ReqClass) : classOf? cls.code = some cls := by
  cases cls <;> rfl

/-- The codes that name no class. -/
theorem classOf?_none {n : Nat} (h : n = 0 ∨ 3 ≤ n) : classOf? n = none := by
  unfold classOf?
  split
  · omega
  · omega
  · rfl

/-! ### The checks before those of the port -/

theorem probeCommand_badPort (h : 48 ≤ pb.toNat) : probeCommand pb qb cb s = s.refuse .badPort none := by
  simp only [probeCommand, portOf?_none h]

theorem probeCommand_badArg (hp : pb.toNat = p.val)
    (h : cb.toNat = 0 ∨ 3 ≤ cb.toNat ∨ qb.toNat = 0 ∨ 16 ≤ qb.toNat) :
    probeCommand pb qb cb s = s.refuse .badArg (some p) := by
  simp only [probeCommand, portOf?_eq_of_val hp]
  split
  · rfl
  · next hcls =>
    rw [if_pos]
    by_contra hpairs
    rw [classOf?_none (by omega)] at hcls
    cases hcls

theorem probeCommand_inRange (hp : pb.toNat = p.val) (hc : cb.toNat = cls.code) (h1 : 1 ≤ qb.toNat)
    (h2 : qb.toNat ≤ 15) : probeCommand pb qb cb s = probePort p (qb.setWidth 4) cls s := by
  simp only [probeCommand, portOf?_eq_of_val hp, hc, classOf?_code]
  exact if_neg (by omega)

/-! ### The checks of the port, in their order (R69) -/

/-- The right that a probe needs in the port's mode (R69, check 3). -/
theorem PortState.mayProbe_iff {ps : PortState} : ps.mayProbe = true ↔
    ps.tc.f.mode = .lent ∨ (ps.tc.f.mode = .up ∧ ps.record.rights.getLsbD 1 = true)
      ∨ (ps.tc.f.mode ≠ .up ∧ ps.record.rights.getLsbD 0 = true) := by
  unfold PortState.mayProbe
  split
  · next h => simp [h, mayProbeLive]
  · next h => simp [h]
  · next hup hlent =>
    have hup : ps.tc.f.mode ≠ .up := hup
    have hlent : ps.tc.f.mode ≠ .lent := hlent
    simp [hup, hlent, mayProbeIdle]

/-- The port has a run, or is LENT (R69, check 5). -/
def PortState.probeActive (ps : PortState) : Bool := ps.sched.hasRun || decide (ps.tc.f.mode = .lent)

theorem PortState.probeActive_iff {ps : PortState} : ps.probeActive = true ↔
    ps.sched.status = .running ∨ ps.sched.status = .suspended ∨ ps.tc.f.mode = .lent := by
  simp [PortState.probeActive, SchedFields.hasRun, or_assoc]

variable {pairs : PairSet}

theorem probePort_notPermitted (h : ¬ (s.port p).mayProbe = true) :
    probePort p pairs cls s = s.refuse .notPermitted (some p) := by
  unfold probePort
  exact if_pos (by simpa using h)

theorem probePort_powered (h : (s.port p).mayProbe = true) (hpairs : pairs &&& ~~~(s.port p).tc.f.powered = 0) :
    probePort p pairs cls s = s.refuse .powered (some p) := by
  unfold probePort
  exact (if_neg (by simp [h])).trans (if_pos hpairs)

theorem probePort_probeActive (h : (s.port p).mayProbe = true) (hpairs : pairs &&& ~~~(s.port p).tc.f.powered ≠ 0)
    (ha : (s.port p).probeActive = true) : probePort p pairs cls s = s.refuse .probeActive (some p) := by
  unfold probePort
  exact (if_neg (by simp [h])).trans ((if_neg hpairs).trans (if_pos ha))

/-- A PROBE that passes the checks is merged into the entry of its port (R71). -/
theorem probePort_merges {x : Entry} (h : (s.port p).mayProbe = true)
    (hpairs : pairs &&& ~~~(s.port p).tc.f.powered ≠ 0) (ha : (s.port p).probeActive = false)
    (hx : s.entryOf p = some x) :
    probePort p pairs cls s = ({ s with queue := mergeEntry s.queue p pairs cls } : State).withReply replyMerged := by
  unfold PortState.probeActive at ha
  simp only [probePort, h, hpairs, ha, hx, Bool.not_true, Bool.false_eq_true, if_false]

theorem probePort_queueFull (h : (s.port p).mayProbe = true) (hpairs : pairs &&& ~~~(s.port p).tc.f.powered ≠ 0)
    (ha : (s.port p).probeActive = false) (hx : s.entryOf p = none) (hl : 16 ≤ s.queue.length) :
    probePort p pairs cls s = s.refuse .queueFull (some p) := by
  unfold PortState.probeActive at ha
  simp only [probePort, h, hpairs, ha, hx, Bool.not_true, Bool.false_eq_true, if_false]
  exact if_pos hl

/-- A PROBE that passes the checks for a port without an entry joins the queue, for all four pairs where the port was
WANTED (R70, R73). -/
theorem probePort_joins (h : (s.port p).mayProbe = true) (hpairs : pairs &&& ~~~(s.port p).tc.f.powered ≠ 0)
    (ha : (s.port p).probeActive = false) (hx : s.entryOf p = none) (hl : s.queue.length < 16) :
    let wanted := decide ((s.port p).sched.status = .wanted)
    let new : Entry := { port := p, cls := cls, pairs := if wanted then 0xF#4 else pairs, suspended := none }
    probePort p pairs cls s =
      (State.schedEvent { s with queue := joinTail s.queue new } true p
        { (s.port p).sched with status := .queued }).withReply (if wanted then replyMerged else replyAccepted) := by
  unfold PortState.probeActive at ha
  have hroom : ¬ Config.queueSize ≤ s.queue.length := not_le.2 hl
  by_cases hw : (s.port p).sched.status = .wanted <;>
    simp only [probePort, h, hpairs, ha, hx, hroom, hw, Bool.not_true, Bool.false_eq_true, if_false, if_true,
      decide_true, decide_false]

/-! ### The queue -/

/-- The tail of a class in a queue taken apart (R68). -/
theorem joinTail_append {u r : List Entry} (hu : ∀ x ∈ u, x.cls = .urgent) (hr : ∀ x ∈ r, x.cls = .routine)
    (x : Entry) : joinTail (u ++ r) x = if x.cls = .urgent then u ++ x :: r else u ++ r ++ [x] := by
  obtain ⟨h1, h2⟩ := urgentPart_append hu hr
  unfold joinTail
  cases hc : x.cls with
  | urgent => rw [if_pos rfl, h1, h2]
  | routine => rw [if_neg (by decide)]

variable {before after : List Entry} {x : Entry}

/-- A merged entry that keeps its class keeps its place (R71). -/
theorem mergeEntry_keeps (hx : x.port = p) (h : ∀ y ∈ before ++ after, y.port ≠ p)
    (hc : cls = .routine ∨ x.cls = .urgent) :
    mergeEntry (before ++ x :: after) p pairs cls = before ++ { x with pairs := x.pairs ||| pairs } :: after := by
  have hmap := map_entry (fun _ => { x with pairs := x.pairs ||| pairs }) hx h
  simp only [mergeEntry, find_entry hx h]
  split
  · next hroutine => rcases hc with hc | hc <;> simp_all
  · exact hmap

/-- A ROUTINE entry that an URGENT request is merged into moves to the tail of the URGENT class (R71). -/
theorem mergeEntry_moves (hx : x.port = p) (h : ∀ y ∈ before ++ after, y.port ≠ p) (hc : x.cls = .routine)
    {u r : List Entry} (hur : before ++ after = u ++ r) (hu : ∀ y ∈ u, y.cls = .urgent)
    (hr : ∀ y ∈ r, y.cls = .routine) :
    mergeEntry (before ++ x :: after) p pairs .urgent =
      u ++ { x with cls := .urgent, pairs := x.pairs ||| pairs } :: r := by
  have hrest : (before ++ x :: after).filter (fun z => decide (z.port ≠ p)) = u ++ r := by
    rw [List.filter_append, List.filter_cons_of_neg (by simpa using hx), ← List.filter_append, ← hur,
      List.filter_eq_self.2 fun y hy => by simpa using h y hy]
  simp only [mergeEntry, find_entry hx h, hc, hrest]
  rw [joinTail_append hu hr, if_pos rfl]

end

/-- Settles O38: the checks one by one, and what a PROBE that passes them does to the queue. -/
theorem probeIsCheckedInOrderAndJoinsOrMerges : Obligations.ProbeIsCheckedInOrderAndJoinsOrMerges := by
  refine ⟨fun pb qb cb extra s h hpage => ?_, ?_⟩
  · dsimp only
    simp only [exec_probe h hpage]
    refine ⟨fun hp => ?_, fun p hp => ⟨fun hargs => ?_, fun cls hc h1 h2 => ?_⟩⟩
    · rw [probeCommand_badPort hp]
    · rw [probeCommand_badArg hp hargs]
    · rw [probeCommand_inRange hp hc h1 h2, ← PortState.mayProbe_iff, ← PortState.probeActive_iff]
      refine ⟨fun hright => ?_, fun hright hpairs => ?_, fun hright hpairs ha => ?_, fun hright hpairs ha hx => ?_⟩
      · rw [probePort_notPermitted (s := { s with transfer := none }) hright]
      · rw [probePort_powered (s := { s with transfer := none }) hright (not_not.1 hpairs)]
      · rw [probePort_probeActive (s := { s with transfer := none }) hright hpairs ha]
      · have ha := Bool.eq_false_iff.2 ha
        have hentry : State.entryOf { s with transfer := none } p = none := State.entryOf_none hx
        refine ⟨fun hl => ?_, fun hl urgent routine hqueue hu hr => ?_⟩
        · rw [probePort_queueFull (s := { s with transfer := none }) hright hpairs ha hentry hl]
        · rw [probePort_joins (s := { s with transfer := none }) hright hpairs ha hentry hl]
          refine ⟨_, ?_, rfl⟩
          have hleaves := State.schedEvent_leaves
            { s with
              transfer := none
              queue := joinTail s.queue
                { port := p, cls := cls
                  pairs := if decide ((s.port p).sched.status = .wanted) then 0xF#4 else qb.setWidth 4
                  suspended := none } }
            true p { (s.port p).sched with status := .queued }
          rw [hqueue, joinTail_append hu hr] at hleaves ⊢
          exact hleaves
  · intro p pb qb cb extra cls before after x s h hpage hp hc h1 h2 hqueue hx hother
    dsimp only
    intro hlent hstatus hright hpairs
    have hmay : (s.port p).mayProbe = true := PortState.mayProbe_iff.2 (.inr hright)
    have ha : (s.port p).probeActive = false := by
      simp [PortState.probeActive, SchedFields.hasRun, hstatus, hlent]
    have hentry : State.entryOf { s with transfer := none } p = some x := by
      simp only [State.entryOf, hqueue]
      exact find_entry hx hother
    rw [exec_probe h hpage, probeCommand_inRange hp hc h1 h2,
      probePort_merges (s := { s with transfer := none }) hmay hpairs ha hentry]
    dsimp only
    rw [hqueue]
    refine ⟨fun hkeep => ?_, fun hurgent hroutine urgent routine hparts hu hr => ?_⟩
    · rw [mergeEntry_keeps hx hother hkeep]
    · rw [hurgent, mergeEntry_moves hx hother hroutine hparts hu hr]

end Sys2Proof.Machine

end

section

namespace Sys2Proof.Machine

/-! ## Auto-probe requests (R72) -/

section

variable {s : State} {p : Port}

/-- A request that waits is counted off, and taken. -/
theorem autoProbeRequestAt_eq {n : Nat} (h : (s.port p).autoRequests = n + 1) :
    autoProbeRequestAt p s = (s.setPort p { s.port p with autoRequests := n }).takeAutoProbe p := by
  unfold autoProbeRequestAt
  rw [if_neg (by omega)]
  simp only [State.modPort, h, Nat.add_sub_cancel]

theorem SchedFields.hasRun_iff {f : SchedFields} : f.hasRun = true ↔ f.status = .running ∨ f.status = .suspended := by
  simp [SchedFields.hasRun]

theorem State.takeAutoProbe_of_run (h : (s.port p).sched.hasRun = true) : s.takeAutoProbe p = s := by
  simp only [State.takeAutoProbe, h, if_true]

/-- The request is merged into the entry of its port. -/
theorem State.takeAutoProbe_of_entry {before after : List Entry} {x : Entry} (hr : (s.port p).sched.hasRun = false)
    (hq : s.queue = before ++ x :: after) (hx : x.port = p) (h : ∀ y ∈ before ++ after, y.port ≠ p) :
    s.takeAutoProbe p = { s with queue := before ++ { x with pairs := 0xF#4 } :: after } := by
  have hentry : s.entryOf p = some x := by
    rw [State.entryOf, hq]
    exact find_entry hx h
  simp only [State.takeAutoProbe, hr, hentry, Bool.false_eq_true, if_false]
  rw [hq, map_entry (fun z => { z with pairs := 0xF#4 }) hx h]

theorem State.takeAutoProbe_of_wanted (hr : (s.port p).sched.hasRun = false) (hx : s.entryOf p = none)
    (hw : (s.port p).sched.status = .wanted) : s.takeAutoProbe p = s := by
  simp only [State.takeAutoProbe, hr, hx, hw, Bool.false_eq_true, if_false, if_true]

/-- The request is queued where there is room. -/
theorem State.takeAutoProbe_queues (hr : (s.port p).sched.hasRun = false) (hx : s.entryOf p = none)
    (hw : (s.port p).sched.status ≠ .wanted) (hl : s.queue.length < 16) :
    s.takeAutoProbe p =
      State.schedEvent { s with queue := s.queue ++ [routineEntry p] } false p
        { (s.port p).sched with status := .queued } := by
  have hroom : s.queue.length < Config.queueSize := hl
  simp only [State.takeAutoProbe, hr, hx, hw, hroom, Bool.false_eq_true, if_false, if_true]
  rfl

/-- The port is WANTED where there is none. -/
theorem State.takeAutoProbe_wants (hr : (s.port p).sched.hasRun = false) (hx : s.entryOf p = none)
    (hw : (s.port p).sched.status ≠ .wanted) (hl : 16 ≤ s.queue.length) :
    s.takeAutoProbe p = s.schedEvent false p { (s.port p).sched with status := .wanted } := by
  have hroom : ¬ s.queue.length < Config.queueSize := not_lt.2 hl
  simp only [State.takeAutoProbe, hr, hx, hw, hroom, Bool.false_eq_true, if_false]

end

/-! ## A freed place (R73) -/

section

variable {s : State} {host : Bool} {p : Port}

/-- Ports that are not WANTED are passed over. -/
theorem State.offerPlaceTo_append {before : List Port} (h : ∀ q ∈ before, (s.port q).sched.status ≠ .wanted)
    (l : List Port) : s.offerPlaceTo host (before ++ l) = s.offerPlaceTo host l := by
  induction before with
  | nil => rfl
  | cons q rest ih =>
    rw [List.cons_append, State.offerPlaceTo, if_neg (h q List.mem_cons_self)]
    exact ih fun q' hq' => h q' (List.mem_cons_of_mem q hq')

theorem State.offerPlace_of_none_wanted (h : ∀ q, (s.port q).sched.status ≠ .wanted) : s.offerPlace host = s := by
  have hall := State.offerPlaceTo_append (host := host) (before := allPorts) (fun q _ => h q) []
  rwa [List.append_nil] at hall

/-- The ports below `p` stand before it in the list of all ports. -/
theorem allPorts_split (p : Port) : ∃ before after, allPorts = before ++ p :: after ∧ ∀ q ∈ before, q < p := by
  obtain ⟨before, after, heq⟩ := List.append_of_mem (mem_allPorts p)
  have hsorted : allPorts.Pairwise (· < ·) := by
    rw [allPorts_eq]
    decide
  rw [heq, List.pairwise_append] at hsorted
  obtain ⟨-, -, hbefore⟩ := hsorted
  exact ⟨before, after, heq, fun q hq => hbefore q hq p List.mem_cons_self⟩

/-- The rights with which a WANTED port is promoted (R73). -/
theorem PortState.promotable_iff {ps : PortState} : ps.promotable = true ↔
    ps.record.rights.getLsbD 2 = true ∧ (ps.tc.f.mode = .up → ps.record.rights.getLsbD 1 = true) := by
  simp only [PortState.promotable, mayAuto, mayProbeLive, Bool.and_eq_true, Bool.or_eq_true, decide_eq_true_eq]
  tauto

/-- The lowest-numbered WANTED port is promoted, or it is WANTED no longer and the place is offered on. -/
theorem State.offerPlace_of_lowest_wanted (hw : (s.port p).sched.status = .wanted)
    (hl : ∀ q : Port, q < p → (s.port q).sched.status ≠ .wanted) :
    s.offerPlace host =
      if (s.port p).promotable then
        State.schedEvent { s with queue := s.queue ++ [routineEntry p] } host p
          { (s.port p).sched with status := .queued }
      else (s.schedEvent host p { (s.port p).sched with status := .none }).offerPlace host := by
  obtain ⟨before, after, heq, hlower⟩ := allPorts_split p
  have hs : s.offerPlace host = s.offerPlaceTo host (p :: after) := by
    rw [State.offerPlace, heq]
    exact State.offerPlaceTo_append (fun q hq => hl q (hlower q hq)) _
  have hu : (s.schedEvent host p { (s.port p).sched with status := .none }).offerPlace host
      = (s.schedEvent host p { (s.port p).sched with status := .none }).offerPlaceTo host after := by
    have happend : allPorts = (before ++ [p]) ++ after := by
      rw [heq, List.append_assoc, List.singleton_append]
    rw [State.offerPlace, happend]
    refine State.offerPlaceTo_append (fun q hq => ?_) _
    rw [State.schedEvent_sched]
    split
    · exact fun h => nomatch h
    · next hne =>
      exact hl q (hlower q ((List.mem_append.1 hq).resolve_right fun h => hne (List.mem_singleton.1 h)))
  rw [hs, hu, State.offerPlaceTo, if_pos hw]
  rfl

end

/-- Settles O39: the request by where its port stands, and the freed place by the rights of the lowest WANTED port. -/
theorem autoProbeRequestsQueueWaitOrArePromoted : Obligations.AutoProbeRequestsQueueWaitOrArePromoted := by
  refine ⟨fun p n s hn => ?_, fun host s => ⟨State.offerPlace_of_none_wanted, fun p hw hl => ?_⟩⟩
  · have hexec : exec (.autoProbeRequest p) s = .next (autoProbeRequestAt p s) := rfl
    have hport : (s.setPort p { s.port p with autoRequests := n }).port p = { s.port p with autoRequests := n } :=
      State.port_setPort_self _ _ _
    dsimp only
    rw [hexec, autoProbeRequestAt_eq hn]
    refine ⟨fun hrun => ?_, fun h1 h2 => ?_⟩
    · rw [State.takeAutoProbe_of_run (by rw [hport]; exact SchedFields.hasRun_iff.2 hrun)]
    · have hr : ((s.setPort p { s.port p with autoRequests := n }).port p).sched.hasRun = false := by
        rw [hport, Bool.eq_false_iff, ne_eq, SchedFields.hasRun_iff]
        exact not_or.2 ⟨h1, h2⟩
      refine ⟨fun before x after hq hx h => ?_, fun h => ?_⟩
      · rw [State.takeAutoProbe_of_entry hr hq hx h]
      · have hx : (s.setPort p { s.port p with autoRequests := n }).entryOf p = none := State.entryOf_none h
        refine ⟨fun hw => ?_, fun hw hl => ?_, fun hw hl => ?_⟩
        · rw [State.takeAutoProbe_of_wanted hr hx (by rw [hport]; exact hw)]
        · refine ⟨_, congrArg Host.Outcome.next (State.takeAutoProbe_queues hr hx (by rw [hport]; exact hw) hl), ?_⟩
          have hleaves := State.schedEvent_leaves
            { s.setPort p { s.port p with autoRequests := n } with queue := s.queue ++ [routineEntry p] } false p
            { (s.port p).sched with status := .queued }
          rw [State.port_mk, hport] at hleaves
          rw [hport]
          exact hleaves
        · refine ⟨_, congrArg Host.Outcome.next (State.takeAutoProbe_wants hr hx (by rw [hport]; exact hw) hl), ?_⟩
          have hleaves := State.schedEvent_leaves (s.setPort p { s.port p with autoRequests := n }) false p
            { (s.port p).sched with status := .wanted }
          rw [hport] at hleaves ⊢
          exact hleaves
  · dsimp only
    rw [State.offerPlace_of_lowest_wanted hw hl, ← PortState.promotable_iff]
    refine ⟨fun hp => ?_, fun hp => ?_⟩
    · rw [if_pos hp]
      exact State.schedEvent_leaves { s with queue := s.queue ++ [routineEntry p] } host p _
    · rw [if_neg hp]
      exact ⟨_, State.schedEvent_leaves s host p _, rfl⟩

/-! ## CANCEL (R80) -/

section

variable {s : State} {p : Port}

/-- A CANCEL that the part takes on page 1 is carried out and counted. -/
theorem exec_cancel (h : s.takesHost) (hpage : s.page = true) {b : Byte} (hb : b.toNat = p.val) (extra : List Byte) :
    exec (.cancel (b :: extra)) s = .next (cancelPort p { s with transfer := none }).countAccess :=
  exec_onPort h (portOf?_eq_of_val hb) rfl fun _ => by rw [hpage]; rfl

theorem cancelPort_of_engine {e : EngineId} (he : s.engineHolding p = some e) :
    cancelPort p s = (s.setEngine e ((s.engine e).stop .cancelled)).withReply replyAccepted := by
  simp only [cancelPort, he]

theorem cancelPort_of_queued {x : Entry} (he : s.engineHolding p = none) (hx : s.entryOf p = some x)
    (hsusp : x.suspended = none) :
    cancelPort p s =
      (((s.dropEntry p).schedEvent true p { (s.port p).sched with status := .none }).offerPlace true).withReply
        replyAccepted := by
  simp only [cancelPort, he, hx, hsusp]

theorem cancelPort_of_suspended {x : Entry} {ctx : Suspended} (he : s.engineHolding p = none)
    (hx : s.entryOf p = some x) (hsusp : x.suspended = some ctx) :
    cancelPort p s = (s.endSuspended true p .cancelled ctx).withReply replyAccepted := by
  simp only [cancelPort, he, hx, hsusp]

/-- The CANCEL of a port that is on no list. -/
theorem cancelPort_of_unlisted (he : s.engineHolding p = none) (hx : s.entryOf p = none) :
    cancelPort p s =
      (if (s.port p).sched.status = .wanted then s.schedEvent true p { (s.port p).sched with status := .none }
        else s).withReply replyAccepted := by
  simp only [cancelPort, he, hx]

/-- An engine in ATTACHING or SWEEPING stops with nothing kept (R100). -/
theorem Engine.stop_of_running {x : Engine} {r : Run} (ending : Ending)
    (h : (∃ wait, x = .attaching r wait) ∨ ∃ q n left table, x = .sweeping r q n left table) :
    x.stop ending = .closing { r with completed := [] } ending := by
  rcases h with ⟨wait, rfl⟩ | ⟨q, n, left, table, rfl⟩ <;> rfl

end

/-- Settles O40, by where the port stands. -/
theorem cancelByStanding : Obligations.CancelByStanding := by
  intro b extra p s h hpage hb
  dsimp only
  rw [exec_cancel h hpage hb]
  refine ⟨fun e r he => ⟨fun hrun => ?_, fun ending hclosing => ?_⟩,
    fun he => ⟨fun x hx hsusp => ?_, fun x ctx hx hsusp hm => ?_, fun hx hw => ?_, fun hx hw => ?_⟩⟩
  · rw [cancelPort_of_engine (s := { s with transfer := none }) he, State.engine_mk, Engine.stop_of_running _ hrun]
  · have hsame : (s.engine e).stop .cancelled = s.engine e := by rw [hclosing]; rfl
    rw [cancelPort_of_engine (s := { s with transfer := none }) he, State.engine_mk, hsame]
    exact congrArg (fun u : State => Host.Outcome.next (u.withReply replyAccepted).countAccess)
      (State.setEngine_engine { s with transfer := none } e)
  · rw [cancelPort_of_queued (s := { s with transfer := none }) he hx hsusp]
    exact ⟨_, State.schedEvent_leaves (State.dropEntry { s with transfer := none } p) true p _, rfl⟩
  · obtain ⟨u, hu, ht⟩ := State.endSuspended_leaves { s with transfer := none } true p (cause := .cancelled) ctx hm
      (by decide)
    rw [cancelPort_of_suspended (s := { s with transfer := none }) he hx hsusp, ht]
    exact ⟨u, hu, rfl⟩
  · rw [cancelPort_of_unlisted (s := { s with transfer := none }) he hx]
    refine ⟨_, State.schedEvent_leaves { s with transfer := none } true p _, ?_⟩
    rw [State.port_mk, if_pos hw]
  · rw [cancelPort_of_unlisted (s := { s with transfer := none }) he hx, State.port_mk, if_neg hw]

end Sys2Proof.Machine

end

section

namespace Sys2Proof.Machine

/-! ## TAKE_ENDING (R81, R82, R129, R133) -/

/-! ### The edges of a reconciliation -/

section

variable {before after : LineRecord}

theorem verdictEdges_eq (before after : LineRecord) :
    verdictEdges before after = Pair.all.filterMap fun q =>
      if (after.pairs.get q).verdict = (before.pairs.get q).verdict then none
      else (after.pairs.get q).verdict.source? := by
  refine List.filterMap_congr fun q _ => ?_
  simp only [edgeAt, LineRecord.verdicts, PerPair.get_build]

theorem Verdict.source?_ne_downshift (v : Verdict) : v.source? ≠ some .downshift := by
  cases v <;> decide

theorem ne_downshift_of_mem_verdictEdges {x : GuardSource} (h : x ∈ verdictEdges before after) : x ≠ .downshift := by
  rintro rfl
  rw [verdictEdges_eq, List.mem_filterMap] at h
  obtain ⟨q, -, hq⟩ := h
  split at hq
  · cases hq
  · exact Verdict.source?_ne_downshift _ hq

end

theorem PortState.edgesWait_iff {ps : PortState} : ps.edgesWait = true ↔ ∃ l, Firing.edges l ∈ ps.firings := by
  rw [PortState.edgesWait, List.any_eq_true]
  refine ⟨fun ⟨f, hf, he⟩ => ?_, fun ⟨l, hl⟩ => ⟨_, hl, rfl⟩⟩
  cases f with
  | edges l => exact ⟨l, hf⟩
  | source x => cases he

/-! ### The reconciliation and the Line Guard -/

/-- What the endings read of port `p`, beside what a reconciliation writes, is the same in both states. -/
structure SameForEnding (p : Port) (s t : State) : Prop where
  tc : (t.port p).tc = (s.port p).tc
  guardMask : (t.port p).record.guardMask = (s.port p).record.guardMask
  bind : t.bind = s.bind
  settings : t.settings = s.settings

section

variable {s : State} {p : Port}

theorem SameForEnding.commit {r : LineRecord} (h : r.guardMask = (s.port p).record.guardMask) :
    SameForEnding p s (s.commit p r) := by
  obtain ⟨-, -, hmask, -⟩ := State.commit_rest s p r
  obtain ⟨houtside, -⟩ := State.commit_onlyPort s p r
  exact ⟨State.commit_tc s p r, hmask.trans h, houtside.bind, houtside.settings⟩

theorem SameForEnding.report {t : State} {c : Cause} {o : Origin} {q : Option Port} (h : SameForEnding p s t) :
    SameForEnding p s (t.report c o q) :=
  ⟨h.tc, h.guardMask, h.bind, h.settings⟩

theorem SameForEnding.reconcile (completed : List PairResult) : SameForEnding p s (s.reconcile p completed) := by
  have hcommit := SameForEnding.commit (s := s) (p := p)
    (r := LineRecord.rederive s.settings { (s.port p).record with
      findings := sortFindings (s.reconciled p completed).findings, pairs := (s.reconciled p completed).pairs }) rfl
  unfold State.reconcile
  dsimp only
  split
  · exact hcommit.report
  · exact hcommit

/-- With no bind open the Line Guard's update of its last source is applied at once. -/
theorem State.recordSource_edges (hb : s.bind = none) (edges : List GuardSource) :
    s.recordSource p (.edges edges) =
      match edges.getLast? with
      | none => s
      | some x =>
        if (s.port p).lastSource = some x then s
        else (s.setPort p { s.port p with lastSource := some x, guardWaiting := false }).commit p
          { (s.port p).record with lastSource := some x } := by
  unfold State.recordSource
  simp only [Firing.sources]
  cases edges.getLast? with
  | none => rfl
  | some x =>
    dsimp only
    split_ifs
    · rfl
    · rw [State.submit_applies _ (.inr (by simpa using hb))]
      simp [State.apply, State.modPort, PortState.unwait, PortState.updated, Update.none]

theorem State.recordSource_tc (s : State) (p : Port) (f : Firing) :
    ((s.recordSource p f).port p).tc = (s.port p).tc := by
  unfold State.recordSource
  split
  · rfl
  · split_ifs
    · rfl
    · rw [State.submit_tc, State.port_modPort_self]

theorem State.recordSource_settings (s : State) (p : Port) (f : Firing) :
    (s.recordSource p f).settings = s.settings := by
  unfold State.recordSource
  split
  · rfl
  · split_ifs
    · rfl
    · exact ((OnlyPort.modPort s p _).trans (State.submit_onlyPort _ false p _)).1.settings

theorem find?_selected_none {mask : BitVec 5} {l : List GuardSource}
    (h : ∀ y ∈ l, ¬ mask.getLsbD y.bit = true) :
    (l.find? fun y => sourceIn y mask && decide (y ≠ .downshift)) = none :=
  List.find?_eq_none.2 fun y hy => by simp [sourceIn, h y hy]

theorem PortState.withdrawCause_first {ps : PortState} {before after : List GuardSource} {x : GuardSource}
    (hm : ps.tc.f.mode = .lent) (ha : ps.tc.f.armed = true)
    (hbefore : ∀ y ∈ before, ¬ ps.record.guardMask.getLsbD y.bit = true)
    (hx : ps.record.guardMask.getLsbD x.bit = true) (hd : x ≠ .downshift) :
    ps.withdrawCause (.edges (before ++ x :: after)) = some x := by
  have hlent : decide (ps.tc.f.mode ≠ .parked) = true := by simp [hm]
  simp only [PortState.withdrawCause, ha, hlent, Bool.and_self, if_true, Firing.sources, List.find?_append,
    find?_selected_none hbefore, Option.none_or]
  exact List.find?_cons_of_pos (by simp [sourceIn, hx, hd])

theorem PortState.withdrawCause_none {ps : PortState} {edges : List GuardSource}
    (h : (∀ y ∈ edges, ¬ ps.record.guardMask.getLsbD y.bit = true) ∨ ps.tc.f.armed = false) :
    ps.withdrawCause (.edges edges) = none := by
  rcases h with h | h
  · simp only [PortState.withdrawCause, Firing.sources, find?_selected_none h, ite_self]
  · simp [PortState.withdrawCause, h]

theorem State.takeRunEdges_of_none {edges : List GuardSource} (h : (s.port p).withdrawCause (.edges edges) = none) :
    s.takeRunEdges p edges = s.recordSource p (.edges edges) := by
  simp only [State.takeRunEdges, h]

theorem State.takeRunEdges_of_some {edges : List GuardSource} {x : GuardSource}
    (h : (s.port p).withdrawCause (.edges edges) = some x) :
    s.takeRunEdges p edges = (s.recordSource p (.edges edges)).takeWithdraw p x := by
  simp only [State.takeRunEdges, h]

/-- The machine of a LENT port after a WITHDRAW: its return mode takes it (R58). -/
def PortMachine.withdrawnLent (m : PortMachine) (cause : HeldCause) : PortMachine :=
  if m.f.returnMode = .parked then m
  else { m with f := { m.f with returnMode := .held, heldCause := some cause, armed := false } }

theorem PortMachine.withdraw_of_lent_eq {m : PortMachine} (h : m.f.mode = .lent) (cause : HeldCause) :
    m.withdraw cause = .of (m.withdrawnLent cause) [] := by
  unfold PortMachine.withdrawnLent
  split
  · next hr => exact PortMachine.withdraw_of_lent_parked h hr cause
  · next hr => exact PortMachine.withdraw_of_lent h hr cause

theorem PortMachine.withdrawnLent_keeps (m : PortMachine) (cause : HeldCause) :
    (m.withdrawnLent cause).f.mode = m.f.mode ∧ (m.withdrawnLent cause).f.skew = m.f.skew := by
  unfold PortMachine.withdrawnLent
  split <;> exact ⟨rfl, rfl⟩

/-- A WITHDRAW of a LENT port lands on its return mode. -/
theorem State.takeWithdraw_of_lent {m : PortMachine} (x : GuardSource) (htc : (s.port p).tc = m)
    (hm : m.f.mode = .lent) :
    EventLeaves false [] p { s.port p with tc := m.withdrawnLent x.heldCause } [] s (s.takeWithdraw p x)
      ∧ ((s.takeWithdraw p x).port p).tc.f.mode = .lent ∧ (s.takeWithdraw p x).settings = s.settings := by
  subst htc
  obtain ⟨hmode, hskew⟩ := PortMachine.withdrawnLent_keeps (s.port p).tc x.heldCause
  rw [State.takeWithdraw, PortMachine.withdraw_of_lent_eq hm, State.tcEvent]
  refine ⟨State.plainEvent_leaves s false p _ [] _ hskew, ?_, (State.event_onlyPort s false p _ _).1.settings⟩
  rw [State.event_tc]
  exact hmode.trans hm

/-! ### The return -/

/-- After the Line Guard the run is DONE and its port is returned, as one update (R81). -/
theorem State.endComplete_leaves (s : State) (e : EngineId) (p : Port) (sched : SchedFields)
    (hm : (s.port p).tc.f.mode = .lent) :
    EventLeaves false [] p
      { s.port p with
        tc := ((s.port p).tc.returned true (s.port p).record.offer (s.port p).record.ceiling s.settings.listen).1
        sched := sched }
      ((s.port p).tc.returned true (s.port p).record.offer (s.port p).record.ceiling s.settings.listen).2
      (s.releaseEngine e)
      ((s.releaseEngine e).event false p ((s.port p).tc.returnPort (s.tcContext p) .complete) sched) := by
  rw [PortMachine.returnPort_eq hm]
  exact State.plainEvent_leaves (s.releaseEngine e) false p _ _ _ (PortMachine.returned_skew _ _ _ _ _)

theorem takeEndingCompleteOf_waits {e : EngineId} {r : Run} (he : s.engine e = .closing r .complete)
    (h : s.bind ≠ none ∨ ∃ l, Firing.edges l ∈ (s.port r.port).firings) : takeEndingCompleteOf e s = s := by
  have hwaits : (s.bound || (s.port r.port).edgesWait) = true := by
    rw [Bool.or_eq_true, State.bound_iff, PortState.edgesWait_iff]
    exact h
  simp only [takeEndingCompleteOf, he, hwaits, if_true]

theorem takeEndingCompleteOf_taken {e : EngineId} {r : Run} (he : s.engine e = .closing r .complete)
    (hb : s.bind = none) (hw : ¬ ∃ l, Firing.edges l ∈ (s.port r.port).firings) {edges : List GuardSource} {u : State}
    (hedges : verdictEdges (s.port r.port).record ((s.reconcile r.port r.covered).port r.port).record = edges)
    (hu : (s.reconcile r.port r.covered).takeRunEdges r.port edges = u) :
    takeEndingCompleteOf e s =
      (u.releaseEngine e).event false r.port ((u.port r.port).tc.returnPort (u.tcContext r.port) .complete)
        { status := .done, outcome := some { cause := .complete, skipped := r.skipped } } := by
  have hwait : (s.port r.port).edgesWait = false := by
    rw [← Bool.not_eq_true, PortState.edgesWait_iff]
    exact hw
  subst hedges hu
  simp only [takeEndingCompleteOf, he, State.bound_eq_false hb, hwait, Bool.or_self, Bool.false_eq_true, if_false]

theorem takeEndingAbortedOf_waits {e : EngineId} {r : Run} {cause : Ending} (he : s.engine e = .closing r cause)
    (hb : s.bind ≠ none) : takeEndingAbortedOf e s = s := by
  cases cause <;> simp only [takeEndingAbortedOf, he, State.bound_iff.2 hb, if_true]

theorem takeEndingAbortedOf_taken {e : EngineId} {r : Run} {cause : Ending} (he : s.engine e = .closing r cause)
    (hc : cause ∈ [Ending.cancelled, Ending.power, Ending.noDetach]) (hb : s.bind = none) :
    takeEndingAbortedOf e s = (s.releaseEngine e).endAborted false r.port cause r.skipped := by
  simp only [List.mem_cons, List.not_mem_nil, or_false] at hc
  rcases hc with rfl | rfl | rfl <;>
    simp only [takeEndingAbortedOf, he, State.bound_eq_false hb, Bool.false_eq_true, if_false]

end

/-- Settles O48: a COMPLETE ending by whether the reconciliation's edges make a WITHDRAW, the others by the return of
the port alone. -/
theorem endingsReconcileAndReturnThePort : Obligations.EndingsReconcileAndReturnThePort := by
  refine ⟨fun e r s he => ⟨fun h => ?_, fun hb hw hm => ?_⟩, fun e r cause s hc he => ⟨fun hb => ?_, fun hb hm => ?_⟩⟩
  · exact congrArg Host.Outcome.next (takeEndingCompleteOf_waits he h)
  · intro s1 a1 edges s2 f selects withdrawn returns
    obtain ⟨htc, hmask, hbind, hsettings⟩ : SameForEnding r.port s s1 := .reconcile _
    have hedges : verdictEdges (s.port r.port).record a1.record = edges := verdictEdges_eq _ _
    have hs2 : s1.recordSource r.port (.edges edges) = s2 := State.recordSource_edges (hbind.trans hb) edges
    have htc2 : (s2.port r.port).tc = (s.port r.port).tc := hs2 ▸ (State.recordSource_tc s1 r.port _).trans htc
    have hsettings2 : s2.settings = s.settings := hs2 ▸ (State.recordSource_settings s1 r.port _).trans hsettings
    have hreturns (u : State) (hu : s1.takeRunEdges r.port edges = u) (hlent : (u.port r.port).tc.f.mode = .lent)
        (hset : u.settings = s.settings) : returns u := by
      refine ⟨_, congrArg Host.Outcome.next (takeEndingCompleteOf_taken he hb hw hedges hu), ?_⟩
      rw [← hset]
      exact State.endComplete_leaves u e r.port _ hlent
    refine ⟨fun before x after hsplit hbefore hx harmed => ?_, fun h => ?_⟩
    · have hd : x ≠ .downshift :=
        ne_downshift_of_mem_verdictEdges (before := (s.port r.port).record) (after := a1.record)
          (by rw [hedges, hsplit]; simp)
      have hcause : (s1.port r.port).withdrawCause (.edges edges) = some x := by
        rw [hsplit]
        refine PortState.withdrawCause_first ?_ ?_ ?_ ?_ hd
        · rw [htc]; exact hm
        · rw [htc]; exact harmed
        · rw [hmask]; exact hbefore
        · rw [hmask]; exact hx
      obtain ⟨hleaves, hlent, hset⟩ := State.takeWithdraw_of_lent x htc2 hm
      refine ⟨s2.takeWithdraw r.port x, hleaves, hreturns _ ?_ hlent (hset.trans hsettings2)⟩
      rw [State.takeRunEdges_of_some hcause, hs2]
    · refine hreturns s2 ?_ (htc2 ▸ hm) hsettings2
      rw [State.takeRunEdges_of_none, hs2]
      refine PortState.withdrawCause_none ?_
      rw [htc, hmask]
      exact h
  · exact congrArg Host.Outcome.next (takeEndingAbortedOf_waits he hb)
  · refine ⟨_, congrArg Host.Outcome.next (takeEndingAbortedOf_taken he hc hb), ?_⟩
    exact State.endAborted_leaves (s.releaseEngine e) false r.port cause r.skipped hm (by rintro rfl; simp at hc)

end Sys2Proof.Machine

end

section

namespace Sys2Proof.Machine

/-! ## The findings of one pair (R106, R112 to R117) -/

/-! ### Compaction, collapse and room only take away -/

theorem compactOnce_sublist {tolerance : Nat} {l l' : List Finding} (h : compactOnce tolerance l = some l') :
    l'.Sublist l := by
  induction l generalizing l' with
  | nil => cases h
  | cons f rest ih =>
    unfold compactOnce at h
    split at h
    · split at h
      · split at h <;> cases h
        · exact List.sublist_cons_self f rest
        · exact (List.eraseIdx_sublist rest _).cons_cons f
      · cases h
    · obtain ⟨l'', hl, rfl⟩ := Option.map_eq_some_iff.1 h
      exact (ih hl).cons_cons f

theorem compactFindings_sublist (tolerance n : Nat) (l : List Finding) : (compactFindings tolerance n l).Sublist l := by
  induction n generalizing l with
  | zero => exact .refl l
  | succ n ih =>
    unfold compactFindings
    split
    · next hl => exact (ih _).trans (compactOnce_sublist hl)
    · exact .refl l

theorem length_collapseResults_le (tolerance : Nat) (l : List Result) :
    (collapseResults tolerance l).length ≤ l.length := by
  induction l using List.reverseRecOn with
  | nil => exact Nat.le_refl 0
  | append_singleton l x ih =>
    rw [collapseResults_append]
    split <;> simp only [List.length_append, List.length_singleton] <;> omega

theorem retireLastFading_sublist (l : List Finding) : (retireLastFading l).Sublist l := by
  induction l with
  | nil => exact .refl _
  | cons f rest ih =>
    unfold retireLastFading
    split
    · exact ih.cons_cons f
    · split
      · exact List.sublist_cons_self f rest
      · exact .refl _

theorem makeRoom_sublist (n : Nat) (l : List Finding) : (makeRoom n l).Sublist l := by
  induction n generalizing l with
  | zero => exact .refl l
  | succ n ih => exact (ih _).trans (retireLastFading_sublist l)

/-! ### How many findings room can be made of -/

/-- The findings that are not retired for room: those that are not FADING (R115). -/
def steady (l : List Finding) : List Finding := l.filter fun f => decide (f.state ≠ .fading)

theorem steady_retireLastFading (l : List Finding) : steady (retireLastFading l) = steady l := by
  induction l with
  | nil => rfl
  | cons f rest ih =>
    unfold retireLastFading
    split
    · simp only [steady, List.filter_cons] at ih ⊢
      rw [ih]
    · split
      · next hf => simp [steady, hf]
      · rfl

theorem length_retireLastFading {l : List Finding} (h : ∃ f ∈ l, f.state = .fading) :
    (retireLastFading l).length + 1 = l.length := by
  induction l with
  | nil => simp at h
  | cons f rest ih =>
    unfold retireLastFading
    split
    · next hr =>
      have := ih (by simpa using hr)
      simpa using this
    · next hr =>
      have hf : f.state = .fading := by
        obtain ⟨g, hg, hfade⟩ := h
        rcases List.mem_cons.1 hg with rfl | hg
        · exact hfade
        · exact absurd (List.any_eq_true.2 ⟨g, hg, by simpa using hfade⟩) hr
      simp [hf]

/-- `n` findings are retired for room, or all that are FADING. -/
theorem length_makeRoom_le (n : Nat) (l : List Finding) :
    (makeRoom n l).length ≤ max (l.length - n) (steady l).length := by
  induction n generalizing l with
  | zero => exact le_max_left _ _
  | succ n ih =>
    by_cases h : ∃ f ∈ l, f.state = .fading
    · have hlen := length_retireLastFading h
      have hroom := ih (retireLastFading l)
      rw [steady_retireLastFading] at hroom
      rw [makeRoom]
      omega
    · have hall : steady l = l := by simpa [steady, List.filter_eq_self] using h
      rw [hall]
      exact (makeRoom_sublist _ _).length_le.trans (le_max_right _ _)

/-! ### What the matching keeps of a pair (R113, R114) -/

theorem resultFor_isSome {made : List Pairing} {rs : List Result} {i : Nat} (h : (resultFor made rs i).isSome) :
    i ∈ made.map (·.finding) := by
  unfold resultFor at h
  split at h
  · next x hx => exact List.mem_map.2 ⟨x, List.mem_of_find?_eq_some hx, by simpa using List.find?_some hx⟩
  · cases h

/-- The findings that a result was paired with, as the match leaves them. -/
def matchedFindings (made : List Pairing) (rs : List Result) (fs : List Finding) : List Finding :=
  fs.zipIdx.filterMap fun fi => (resultFor made rs fi.2).map fi.1.matched

/-- The findings that no result was paired with. -/
def unmatchedFindings (made : List Pairing) (rs : List Result) (fs : List Finding) : List Finding :=
  fs.zipIdx.filterMap fun fi => if (resultFor made rs fi.2).isSome then none else some fi.1

/-- The places of the findings that a result was paired with. -/
def matchedPlaces (made : List Pairing) (rs : List Result) (fs : List Finding) : List Nat :=
  (fs.zipIdx.filter fun fi => (resultFor made rs fi.2).isSome).map Prod.snd

/-- The results that no finding was paired with. -/
def unmatchedResults (made : List Pairing) (rs : List Result) : List Result :=
  rs.zipIdx.filterMap fun rj => if made.any fun y => decide (y.result = rj.2) then none else some rj.1

section

variable {made : List Pairing} {rs : List Result} {fs : List Finding}

theorem length_filterMap_eq_filter {α β : Type} {f : α → Option β} {g : α → Bool} {l : List α}
    (h : ∀ x ∈ l, (f x).isSome = g x) : (l.filterMap f).length = (l.filter g).length := by
  rw [List.length_filterMap_eq_countP, List.countP_eq_length_filter]
  exact congrArg List.length (List.filter_congr h)

theorem length_matchedFindings : (matchedFindings made rs fs).length = (matchedPlaces made rs fs).length := by
  rw [matchedPlaces, List.length_map]
  exact length_filterMap_eq_filter fun _ _ => Option.isSome_map

theorem matchedPlaces_nodup : (matchedPlaces made rs fs).Nodup := by
  refine List.Nodup.sublist (List.filter_sublist.map Prod.snd) ?_
  rw [List.zipIdx_map_snd]
  exact List.nodup_range'

theorem matchedPlaces_subset : matchedPlaces made rs fs ⊆ made.map (·.finding) := by
  intro i hi
  obtain ⟨fi, hfi, rfl⟩ := List.mem_map.1 hi
  exact resultFor_isSome (List.mem_filter.1 hfi).2

/-- Each pairing is of one finding. -/
theorem length_matchedFindings_le : (matchedFindings made rs fs).length ≤ made.length := by
  have := (List.Nodup.subperm matchedPlaces_nodup (matchedPlaces_subset (made := made) (rs := rs) (fs := fs))).length_le
  rwa [← length_matchedFindings, List.length_map] at this

theorem length_matched_add_unmatched :
    (matchedFindings made rs fs).length + (unmatchedFindings made rs fs).length = fs.length := by
  have h := List.length_eq_length_filter_add (l := fs.zipIdx) fun fi => (resultFor made rs fi.2).isSome
  rw [List.length_zipIdx] at h
  rw [h, matchedFindings, length_filterMap_eq_filter (g := fun fi => (resultFor made rs fi.2).isSome),
    unmatchedFindings, length_filterMap_eq_filter (g := fun fi => !(resultFor made rs fi.2).isSome)]
  · intro fi _
    cases (resultFor made rs fi.2).isSome <;> rfl
  · exact fun _ _ => Option.isSome_map

/-- The results that are left over, and the pairings, are all results. -/
theorem length_unmatchedResults (hnodup : (made.map (·.result)).Nodup) (hlt : ∀ y ∈ made, y.result < rs.length) :
    (unmatchedResults made rs).length + made.length = rs.length := by
  have h := length_unchosen rs (made.map (·.result)) hnodup (by simpa using hlt)
  rw [List.length_map] at h
  rw [← h, unmatchedResults, length_filterMap_eq_filter]
  intro rj _
  have hiff : (made.any fun y => decide (y.result = rj.2)) = decide (rj.2 ∈ made.map (·.result)) := by
    rw [Bool.eq_iff_iff]
    simp
  rw [hiff]
  cases decide (rj.2 ∈ made.map (·.result)) <;> rfl

theorem mem_matchedFindings {f : Finding} (h : f ∈ matchedFindings made rs fs) :
    ∃ g ∈ fs, f.pair = g.pair ∧ f.state = .standing := by
  obtain ⟨fi, hfi, hf⟩ := List.mem_filterMap.1 h
  obtain ⟨r, -, rfl⟩ := Option.map_eq_some_iff.1 hf
  exact ⟨fi.1, List.fst_mem_of_mem_zipIdx hfi, rfl, rfl⟩

theorem mem_unmatchedFindings {f : Finding} (h : f ∈ unmatchedFindings made rs fs) : f ∈ fs := by
  obtain ⟨fi, hfi, hf⟩ := List.mem_filterMap.1 h
  split at hf <;> cases hf
  exact List.fst_mem_of_mem_zipIdx hfi

/-- An unmatched finding that stays is FADING (R114). -/
theorem settleUnmatched_some {tolerance : Nat} {matched : List Finding} {f g : Finding}
    (h : settleUnmatched tolerance matched f = some g) : g.pair = f.pair ∧ g.state = .fading := by
  unfold settleUnmatched at h
  split at h
  · cases h
  · split at h <;> cases h
    exact ⟨rfl, rfl⟩

end

/-- A pair's work leaves at most four findings and, once FADING ones have made room, its unmatched results fit beside
the others (R98, R106, R115). -/
structure PairWork.Fits (w : PairWork) : Prop where
  kept : w.kept.length ≤ Config.findingsPerPair
  room : (steady w.kept).length + w.fresh.length ≤ Config.findingsPerPair
  pair : ∀ f ∈ w.kept, f.pair = w.pair

section

variable (set : Settings) (templates : Vector Template 8) (p : Port) (findings : List Finding) (x : PairResult)

theorem length_matchPair_kept_le :
    (matchPair set templates p findings x).kept.length
      ≤ (findings.filter fun f => decide (f.pair = x.pair)).length := by
  unfold matchPair
  extract_lets mine fs rs made
  have hcompact : fs.length ≤ mine.length := (compactFindings_sublist _ _ _).length_le
  have hsum := length_matched_add_unmatched (made := made) (rs := rs) (fs := fs)
  have hsettled := List.length_filterMap_le (settleUnmatched set.tolerance (matchedFindings made rs fs))
    (unmatchedFindings made rs fs)
  refine le_trans ?_ hcompact
  refine (sortFindings_perm _).length_eq.trans_le ?_
  rw [List.length_append]
  exact (Nat.add_le_add_left hsettled _).trans hsum.le

/-- The findings that are not FADING are those paired with a result, so with the unpaired results they are no more than
the results. -/
theorem matchPair_room :
    (steady (matchPair set templates p findings x).kept).length + (matchPair set templates p findings x).fresh.length
      ≤ x.results.length := by
  unfold matchPair
  extract_lets mine fs rs made matched unmatched
  obtain ⟨hmade, hnodup, -⟩ := makePairings_spec set.tolerance fs rs
  have hresults : rs.length ≤ x.results.length :=
    (length_collapseResults_le _ _).trans (List.length_map _).le
  have hfresh : (unmatchedResults made rs).length + made.length = rs.length := by
    refine length_unmatchedResults (List.pairwise_map.2 (hnodup.imp And.right)) fun y hy => ?_
    obtain ⟨-, r, -, hr, -⟩ := mem_candidatePairings.1 (hmade y hy)
    exact (List.getElem?_eq_some_iff.1 hr).1
  have hmatched : matched.length ≤ made.length := length_matchedFindings_le
  have hsettled : steady (unmatched.filterMap (settleUnmatched set.tolerance matched)) = [] := by
    refine List.filter_eq_nil_iff.2 fun g hg => ?_
    obtain ⟨f, -, hf⟩ := List.mem_filterMap.1 hg
    simp [(settleUnmatched_some hf).2]
  have hsteady : (steady (sortFindings (matched ++ unmatched.filterMap (settleUnmatched set.tolerance matched)))).length
      ≤ matched.length := by
    rw [steady, ((sortFindings_perm _).filter _).length_eq, List.filter_append, List.length_append]
    have hnone := congrArg List.length hsettled
    rw [steady, List.length_nil] at hnone
    rw [hnone]
    exact List.length_filter_le _ _
  change _ + (unmatchedResults made rs).length ≤ _
  dsimp only
  omega

theorem matchPair_pair {f : Finding} (h : f ∈ (matchPair set templates p findings x).kept) : f.pair = x.pair := by
  unfold matchPair at h
  extract_lets mine fs rs made matched unmatched at h
  have hmine {g : Finding} (hg : g ∈ fs) : g.pair = x.pair := by
    simpa using (List.mem_filter.1 ((compactFindings_sublist _ _ _).subset hg)).2
  rcases List.mem_append.1 ((sortFindings_perm _).mem_iff.1 h) with h | h
  · obtain ⟨g, hg, hpair, -⟩ := mem_matchedFindings h
    exact hpair.trans (hmine hg)
  · obtain ⟨g, hg, hf⟩ := List.mem_filterMap.1 h
    exact (settleUnmatched_some hf).1.trans (hmine (mem_unmatchedFindings hg))

variable {findings x}

theorem matchPair_fits (hfindings : (findings.filter fun f => decide (f.pair = x.pair)).length ≤ Config.findingsPerPair)
    (hresults : x.results.length ≤ Config.findingsPerPair) : (matchPair set templates p findings x).Fits where
  kept := (length_matchPair_kept_le set templates p findings x).trans hfindings
  room := (matchPair_room set templates p findings x).trans hresults
  pair _ := matchPair_pair set templates p findings x

end

end Sys2Proof.Machine

end

section

namespace Sys2Proof.Machine

/-! ## The findings of a reconciliation (R106, R110, R115 to R117) -/

/-- How many findings of a list are of pair `q`. -/
def pairCount (q : Pair) (l : List Finding) : Nat := (l.filter fun f => decide (f.pair = q)).length

theorem pairCount_append (q : Pair) (l m : List Finding) : pairCount q (l ++ m) = pairCount q l + pairCount q m := by
  simp [pairCount]

theorem pairCount_eq_zero {q : Pair} {l : List Finding} (h : ∀ f ∈ l, f.pair ≠ q) : pairCount q l = 0 := by
  rw [pairCount, List.length_eq_zero_iff, List.filter_eq_nil_iff]
  simpa using h

theorem pairCount_le_length (q : Pair) (l : List Finding) : pairCount q l ≤ l.length := List.length_filter_le _ l

theorem pairCount_sublist {q : Pair} {l m : List Finding} (h : l.Sublist m) : pairCount q l ≤ pairCount q m :=
  (h.filter _).length_le

/-! ### One covered pair adds its findings (R115 to R117) -/

/-- A covered pair adds at most four findings, all its own, and they come out of the pool's free entries and the entries
its kept findings had. -/
theorem addPair_adds {w : PairWork} (hw : w.Fits) (acc : Adding) :
    ∃ added, (addPair acc w).findings = acc.findings ++ added ∧ added.length ≤ Config.findingsPerPair
      ∧ (∀ f ∈ added, f.pair = w.pair) ∧ (addPair acc w).free + added.length = acc.free + w.kept.length := by
  obtain ⟨hkept, hroom, hpair⟩ := hw
  have hmake := length_makeRoom_le (w.kept.length + w.fresh.length - Config.findingsPerPair) w.kept
  have hsub := makeRoom_sublist (w.kept.length + w.fresh.length - Config.findingsPerPair) w.kept
  unfold addPair
  extract_lets room free n
  have hroomsub : room.Sublist w.kept := by
    unfold room
    split
    · exact .refl _
    · exact hsub
  have hlen := hroomsub.length_le
  have hnew : n ≤ w.fresh.length ∧ n ≤ free := by
    unfold n
    split <;> omega
  have hfit : room.length + n ≤ Config.findingsPerPair := by
    unfold room n
    split <;> omega
  have hadded : (room ++ (w.fresh.take n).map (Result.newFinding w.pair)).length = room.length + n := by
    rw [List.length_append, List.length_map, List.length_take]
    omega
  refine ⟨room ++ (w.fresh.take n).map (Result.newFinding w.pair), List.append_assoc _ _ _, hadded ▸ hfit,
    fun f hf => ?_, ?_⟩
  · rcases List.mem_append.1 hf with hf | hf
    · exact hpair f (hroomsub.subset hf)
    · obtain ⟨r, -, rfl⟩ := List.mem_map.1 hf
      rfl
  · rw [hadded]
    change free - n + (room.length + n) = _
    omega

/-- All covered pairs together use no more than the pool's free entries and the entries of the findings they keep. -/
theorem foldl_addPair_length {works : List PairWork} (hw : ∀ w ∈ works, w.Fits) (acc : Adding) :
    (works.foldl addPair acc).findings.length
      ≤ acc.free + acc.findings.length + (works.map fun w => w.kept.length).sum := by
  induction works generalizing acc with
  | nil => simp
  | cons w works ih =>
    obtain ⟨added, hfindings, -, -, hfree⟩ := addPair_adds (hw w (by simp)) acc
    have := ih (fun v hv => hw v (by simp [hv])) (addPair acc w)
    rw [hfindings, List.length_append] at this
    rw [List.foldl_cons, List.map_cons, List.sum_cons]
    omega

/-- No pair comes to more than four findings, where each is covered once and has none before its turn. -/
theorem foldl_addPair_pairCount {works : List PairWork} (hw : ∀ w ∈ works, w.Fits)
    (hnodup : (works.map (·.pair)).Nodup) (acc : Adding) (q : Pair)
    (hacc : pairCount q acc.findings ≤ Config.findingsPerPair)
    (hfirst : q ∈ works.map (·.pair) → pairCount q acc.findings = 0) :
    pairCount q (works.foldl addPair acc).findings ≤ Config.findingsPerPair := by
  induction works generalizing acc with
  | nil => exact hacc
  | cons w works ih =>
    obtain ⟨added, hfindings, hlen, hpair, -⟩ := addPair_adds (hw w (by simp)) acc
    rw [List.map_cons, List.nodup_cons] at hnodup
    have hcount : pairCount q (addPair acc w).findings = pairCount q acc.findings + pairCount q added := by
      rw [hfindings, pairCount_append]
    have hother (hne : w.pair ≠ q) : pairCount q added = 0 := pairCount_eq_zero fun f hf => hpair f hf ▸ hne
    refine ih (fun v hv => hw v (by simp [hv])) hnodup.2 (addPair acc w) ?_ fun hq => ?_
    · by_cases hq : w.pair = q
      · rw [hcount, hfirst (by simp [hq]), Nat.zero_add]
        exact (pairCount_le_length q added).trans hlen
      · rw [hcount, hother hq]
        exact hacc
    · rw [hcount, hother fun h => hnodup.1 (h ▸ hq), hfirst (List.mem_cons_of_mem _ hq)]

/-! ### The covered pairs (R110) -/

theorem mem_coveredResults {completed : List PairResult} {x : PairResult} (h : x ∈ coveredResults completed) :
    x ∈ completed := by
  obtain ⟨q, -, hq⟩ := List.mem_filterMap.1 h
  exact List.mem_of_find?_eq_some hq

/-- Each pair is covered once. -/
theorem coveredResults_nodup (completed : List PairResult) : ((coveredResults completed).map (·.pair)).Nodup := by
  have hsub (l : List Pair) :
      ((l.filterMap fun q => completed.find? fun x => decide (x.pair = q)).map (·.pair)).Sublist l := by
    induction l with
    | nil => exact .refl _
    | cons q l ih =>
      rw [List.filterMap_cons]
      split
      · exact ih.cons q
      · next x hx =>
        have hpair : x.pair = q := by simpa using List.find?_some hx
        rw [List.map_cons, hpair]
        exact ih.cons_cons q
  exact List.Nodup.sublist (hsub Pair.all) (by decide)

/-- The findings of the pairs that are not covered. -/
def uncoveredFindings (covered : List PairResult) (l : List Finding) : List Finding :=
  l.filter fun f => !covered.any fun x => decide (x.pair = f.pair)

theorem pairCount_uncovered_eq_zero {covered : List PairResult} {q : Pair} (h : q ∈ covered.map (·.pair))
    (l : List Finding) : pairCount q (uncoveredFindings covered l) = 0 := by
  refine pairCount_eq_zero fun f hf => ?_
  rintro rfl
  obtain ⟨x, hx, hp⟩ := List.mem_map.1 h
  have hn := (List.mem_filter.1 hf).2
  simp only [Bool.not_eq_true', List.any_eq_false, decide_eq_true_eq] at hn
  exact hn x hx hp

/-- The findings of the covered pairs and the others are all findings. -/
theorem length_uncovered_add_covered {covered : List PairResult} (hnodup : (covered.map (·.pair)).Nodup)
    (l : List Finding) :
    (uncoveredFindings covered l).length + (covered.map fun x => pairCount x.pair l).sum = l.length := by
  induction covered with
  | nil => simp [uncoveredFindings]
  | cons x covered ih =>
    rw [List.map_cons, List.nodup_cons] at hnodup
    have hsplit := List.length_eq_length_filter_add (l := uncoveredFindings covered l) fun f => decide (f.pair = x.pair)
    have hmine : (uncoveredFindings covered l).filter (fun f => decide (f.pair = x.pair))
        = l.filter fun f => decide (f.pair = x.pair) := by
      rw [uncoveredFindings, List.filter_filter]
      refine List.filter_congr fun f _ => ?_
      by_cases hf : f.pair = x.pair
      · have hnone : ∀ y ∈ covered, y.pair ≠ x.pair := fun y hy h => hnodup.1 (h ▸ List.mem_map_of_mem hy)
        simpa [hf] using hnone
      · simp [hf]
    have hrest : (uncoveredFindings covered l).filter (fun f => !decide (f.pair = x.pair))
        = uncoveredFindings (x :: covered) l := by
      rw [uncoveredFindings, uncoveredFindings, List.filter_filter]
      refine List.filter_congr fun f _ => ?_
      rw [List.any_cons, Bool.not_or]
      simp only [eq_comm]
    have := ih hnodup.2
    rw [hmine, hrest] at hsplit
    rw [List.map_cons, List.sum_cons, pairCount]
    omega

/-! ### The whole reconciliation -/

section

variable {s : State} {p : Port} {completed : List PairResult}
  (hlist : ∀ q, pairCount q (s.port p).record.findings ≤ Config.findingsPerPair) (hbounded : resultsBounded completed)

include hlist hbounded

theorem reconciled_works_fit {w : PairWork}
    (hw : w ∈ (coveredResults completed).map (matchPair s.settings s.templates p (s.port p).record.findings)) :
    w.Fits := by
  obtain ⟨x, hx, rfl⟩ := List.mem_map.1 hw
  exact matchPair_fits _ _ _ (hlist x.pair) (hbounded x (mem_coveredResults hx))

/-- A reconciliation leaves its port no more findings than it had and the pool had free entries (R115, R116). -/
theorem State.length_reconciled_findings_le :
    (s.reconciled p completed).findings.length ≤ poolFree s + (s.port p).record.findings.length := by
  have hsum := foldl_addPair_length (fun _ hw => reconciled_works_fit hlist hbounded hw)
  have hall := length_uncovered_add_covered (coveredResults_nodup completed) (s.port p).record.findings
  have hkept : ((coveredResults completed).map
        fun x => (matchPair s.settings s.templates p (s.port p).record.findings x).kept.length).sum
      ≤ ((coveredResults completed).map fun x => pairCount x.pair (s.port p).record.findings).sum :=
    List.sum_le_sum fun x _ => length_matchPair_kept_le _ _ _ _ _
  unfold State.reconciled
  extract_lets r covered works uncovered keptCount
  refine (hsum _).trans ?_
  have hcount : keptCount = uncovered.length + (works.map fun w => w.kept.length).sum := rfl
  have hworks : (works.map fun w => w.kept.length).sum ≤ (covered.map fun x => pairCount x.pair r.findings).sum := by
    rw [List.map_map]
    exact hkept
  change uncovered.length + (covered.map fun x => pairCount x.pair r.findings).sum = r.findings.length at hall
  change poolFree s + r.findings.length - keptCount + uncovered.length + (works.map fun w => w.kept.length).sum
    ≤ poolFree s + r.findings.length
  omega

theorem State.pairCount_reconciled_le (q : Pair) :
    pairCount q (s.reconciled p completed).findings ≤ Config.findingsPerPair := by
  have hpairs : ((coveredResults completed).map
        (matchPair s.settings s.templates p (s.port p).record.findings)).map (·.pair)
      = (coveredResults completed).map (·.pair) := by
    rw [List.map_map]
    rfl
  refine foldl_addPair_pairCount (fun _ hw => reconciled_works_fit hlist hbounded hw) ?_ _ q ?_ fun hq => ?_
  · rw [hpairs]
    exact coveredResults_nodup completed
  · exact (pairCount_sublist List.filter_sublist).trans (hlist q)
  · rw [hpairs] at hq
    exact pairCount_uncovered_eq_zero hq _

end

end Sys2Proof.Machine

end

section

namespace Sys2Proof.Machine

/-! ## The finding lists and the pool (R98, R106, R108) -/

/-! ### The pool -/

/-- The finding list of port `p`, as the Store has applied it. -/
def State.findings (s : State) (p : Port) : List Finding := (s.port p).record.findings

theorem poolUsed_eq_sum (s : State) : poolUsed s = ∑ p : Port, (s.findings p).length := by
  have hports : s.ports.toList = (List.finRange 48).map s.port := by
    refine List.ext_getElem (by simp) fun i _ _ => ?_
    simp [State.port]
  rw [poolUsed, hports, List.map_map, Fin.sum_univ_def]
  rfl

/-- A change of one port's findings changes the pool by the difference. -/
theorem poolUsed_of_onlyPort {s t : State} {p : Port} (h : OnlyPort p s t) :
    poolUsed t + (s.findings p).length = poolUsed s + (t.findings p).length := by
  have hrest : ∑ q ∈ Finset.univ.erase p, (t.findings q).length = ∑ q ∈ Finset.univ.erase p, (s.findings q).length :=
    Finset.sum_congr rfl fun q hq => by rw [State.findings, h.2 q (Finset.ne_of_mem_erase hq)]; rfl
  have hs := Finset.add_sum_erase Finset.univ (fun q => (s.findings q).length) (Finset.mem_univ p)
  have ht := Finset.add_sum_erase Finset.univ (fun q => (t.findings q).length) (Finset.mem_univ p)
  rw [poolUsed_eq_sum, poolUsed_eq_sum, ← hs, ← ht, hrest]
  omega

theorem listOk.sublist {l m : List Finding} (h : listOk m) (hl : l.Sublist m) : listOk l :=
  ⟨fun q => (hl.filter _).length_le.trans (h.1 q), h.2.sublist hl⟩

theorem listOk_sortFindings {l : List Finding} (h : ∀ q, pairCount q l ≤ Config.findingsPerPair) :
    listOk (sortFindings l) := by
  refine ⟨fun q => ?_, sortFindings_sorted l⟩
  rw [((sortFindings_perm l).filter _).length_eq]
  exact h q

/-! ### The Store keeps the findings in every update of the blocks (R13) -/

theorem LineRecord.applied_findings (a r : LineRecord) : (a.applied r).findings = r.findings := by
  unfold LineRecord.applied
  split
  · next h => rw [h]
  · rfl

theorem PortState.apply_findings (set : Settings) (u : Update) (ps : PortState) :
    (ps.apply set u).record.findings = ps.record.findings := by
  obtain ⟨-, -, -, -, -, -, hfindings, -⟩ := PortState.updated_rest set u ps
  exact (LineRecord.applied_findings _ _).trans hfindings

theorem PortState.applyWaiting_findings (set : Settings) (ps : PortState) :
    (ps.applyWaiting set).record.findings = ps.record.findings := by
  cases h : ps.jointWaiting <;>
    simp [PortState.applyWaiting, h, PortState.apply_findings, PortState.discardWaiting]

theorem State.commit_findings (s : State) (p : Port) (r : LineRecord) : (s.commit p r).findings p = r.findings := by
  obtain ⟨-, -, -, hfindings, -⟩ := State.commit_rest s p r
  exact hfindings

theorem State.submit_findings (s : State) (host : Bool) (p : Port) (u : Update) :
    (s.submit host p u).findings p = s.findings p := by
  unfold State.submit
  split
  · rw [State.apply_eq, State.findings, State.port_modPort_self, PortState.apply_findings, State.port_modPort_self]
    rfl
  · rw [State.findings, State.port_modPort_self]
    rfl

theorem State.event_findings (s : State) (host : Bool) (p : Port) (out : TcEffect) (sched : SchedFields) :
    (s.event host p out sched).findings p = s.findings p := by
  obtain ⟨-, -, -, -, -, -, -, hfindings, -⟩ := State.event_publishes s host p out sched
  exact hfindings

/-! ### What a run has gathered (R98, R102) -/

/-- What the engine's run has gathered is bounded. -/
def Engine.bounded (x : Engine) : Prop := ∀ r, x.run? = some r → resultsBounded r.completed

/-- What the entry's suspended run has gathered is bounded. -/
def Entry.bounded (x : Entry) : Prop := ∀ ctx, x.suspended = some ctx → resultsBounded ctx.completed

theorem resultsBounded_nil : resultsBounded [] := fun _ h => nomatch h

theorem resultsBounded.sublist {l m : List PairResult} (h : resultsBounded m) (hl : l.Sublist m) : resultsBounded l :=
  fun x hx => h x (hl.subset hx)

theorem Engine.bounded_of_run {x : Engine} {r : Run} (hr : x.run? = some r) (h : resultsBounded r.completed) :
    x.bounded := by
  intro r' hr'
  rw [hr] at hr'
  exact Option.some.inj hr' ▸ h

theorem Engine.bounded_idle : Engine.idle.bounded := fun _ h => nomatch h

theorem Run.nextPair_bounded {r : Run} (h : resultsBounded r.completed) : r.nextPair.bounded :=
  Engine.bounded_of_run r.nextPair_run h

namespace Engine

variable {x : Engine}

/-- An engine that is stopped has discarded what it gathered, or has ended already. -/
theorem bounded.stop (h : x.bounded) (ending : Ending) : (x.stop ending).bounded := by
  cases x with
  | idle => exact bounded_idle
  | attaching r _ | sweeping r _ _ _ _ => exact bounded_of_run rfl resultsBounded_nil
  | closing r _ => exact bounded_of_run rfl (h r rfl)

theorem resetRun_bounded (x : Engine) : x.resetRun.bounded := by
  cases x with
  | idle => exact bounded_idle
  | attaching r _ | sweeping r _ _ _ _ | closing r _ => exact bounded_of_run rfl resultsBounded_nil

theorem bounded.detached (h : x.bounded) : x.detached.bounded := by
  cases x with
  | attaching r _ => exact Run.nextPair_bounded (h r rfl)
  | _ => exact h

/-- A finished pair keeps its first four results (R98). -/
theorem bounded.completeSweep (h : x.bounded) (echoes : List Echo) : (x.completeSweep echoes).bounded := by
  cases x with
  | sweeping r q n left table =>
    unfold Engine.completeSweep
    dsimp only
    split
    · exact bounded_of_run rfl (h r rfl)
    · refine Run.nextPair_bounded fun y hy => ?_
      rcases List.mem_append.1 hy with hy | hy
      · exact h r rfl y hy
      · obtain rfl := List.mem_singleton.1 hy
        exact List.length_take_le _ _
  | _ => exact h

theorem bounded.tick (h : x.bounded) : x.tick.bounded := by
  cases x with
  | attaching r _ | sweeping r _ _ _ _ => exact bounded_of_run rfl (h r rfl)
  | _ => exact h

end Engine

theorem Entry.bounded_of_queued {x : Entry} (h : x.suspended = none) : x.bounded := by
  intro ctx hctx
  rw [h] at hctx
  cases hctx

theorem Run.suspend_bounded {r : Run} (h : resultsBounded r.completed) : r.suspend.bounded := by
  intro ctx hctx
  obtain rfl := Option.some.inj hctx
  exact h

theorem mergeEntry_bounded {q : List Entry} (hq : ∀ x ∈ q, x.bounded) (p : Port) (pairs : PairSet) (cls : ReqClass) :
    ∀ x ∈ mergeEntry q p pairs cls, x.bounded := by
  unfold mergeEntry
  split
  · exact hq
  · next x hx =>
    have hxb : x.bounded := hq x (List.mem_of_find?_eq_some hx)
    dsimp only
    split
    · intro z hz
      rcases mem_joinTail.1 hz with rfl | hz
      · exact hxb
      · exact hq z (List.mem_filter.1 hz).1
    · intro z hz
      obtain ⟨y, hy, rfl⟩ := List.mem_map.1 hz
      split
      · exact hxb
      · exact hq y hy

end Sys2Proof.Machine

end

section

namespace Sys2Proof.Machine

/-! ## Every step keeps the findings -/

/-- Results, pool and finding lists are in bounds. -/
structure State.FindingsFit (s : State) : Prop where
  engines : ∀ e, (s.engine e).bounded
  queue : ∀ x ∈ s.queue, x.bounded
  pool : poolUsed s ≤ Config.poolSize
  lists : ∀ p, listOk (s.findings p)

theorem State.findingsOk_iff {s : State} : s.findingsOk ↔ s.FindingsFit :=
  ⟨fun ⟨⟨hengines, hqueue⟩, hpool, hlists⟩ => ⟨hengines, hqueue, hpool, hlists⟩,
    fun h => ⟨⟨h.engines, h.queue⟩, h.pool, h.lists⟩⟩

namespace State.FindingsFit

variable {s t : State}

/-! ### Frames -/

/-- Findings are retired at most, and what the runs have gathered stays bounded. -/
theorem of_fewer (hs : s.FindingsFit) (findings : ∀ p, (t.findings p).Sublist (s.findings p))
    (engines : ∀ e, (t.engine e).bounded) (queue : ∀ x ∈ t.queue, x.bounded) : t.FindingsFit where
  engines := engines
  queue := queue
  pool := by
    have := hs.pool
    rw [poolUsed_eq_sum] at this ⊢
    exact (Finset.sum_le_sum fun p _ => (findings p).length_le).trans this
  lists p := (hs.lists p).sublist (findings p)

theorem of_same (hs : s.FindingsFit) (findings : ∀ p, t.findings p = s.findings p)
    (engines : ∀ e, t.engine e = s.engine e) (queue : t.queue = s.queue) : t.FindingsFit :=
  hs.of_fewer (fun p => findings p ▸ .refl _) (fun e => engines e ▸ hs.engines e) (queue ▸ hs.queue)

/-- A change outside the ports, the queue and the engines. -/
theorem elsewhere (hs : s.FindingsFit) (ports : t.ports = s.ports := by rfl) (queue : t.queue = s.queue := by rfl)
    (engines : t.engines = s.engines := by rfl) : t.FindingsFit :=
  hs.of_same (fun p => by rw [State.findings, State.port_of_ports ports]; rfl)
    (fun e => by simp only [State.engine, engines]) queue

/-- A change of one port that retires findings at most. -/
theorem onlyPort {p : Port} (hs : s.FindingsFit) (h : OnlyPort p s t)
    (hp : (t.findings p).Sublist (s.findings p)) : t.FindingsFit := by
  refine hs.of_fewer (h.forall_port (P := fun q a => a.record.findings.Sublist (s.findings q)) hp fun _ _ => .refl _)
    (fun e => ?_) (h.1.queue ▸ hs.queue)
  simp only [State.engine, h.1.engines]
  exact hs.engines e

theorem modPort {p : Port} {f : PortState → PortState} (hs : s.FindingsFit)
    (hf : (f (s.port p)).record.findings = (s.port p).record.findings := by rfl) : (s.modPort p f).FindingsFit := by
  refine hs.onlyPort (OnlyPort.modPort s p f) ?_
  rw [State.findings, State.port_modPort_self, hf]
  exact .refl _

theorem setInbox {p : Port} {box : Inbox} (hs : s.FindingsFit) : (s.setInbox p box).FindingsFit := hs.modPort

theorem commit {p : Port} {r : LineRecord} (hs : s.FindingsFit) (hr : r.findings.Sublist (s.findings p)) :
    (s.commit p r).FindingsFit :=
  hs.onlyPort (State.commit_onlyPort s p r) (by rwa [State.commit_findings])

theorem submit {host : Bool} {p : Port} {u : Update} (hs : s.FindingsFit) : (s.submit host p u).FindingsFit :=
  hs.onlyPort (State.submit_onlyPort s host p u) (by rw [State.submit_findings])

theorem event {host : Bool} {p : Port} {out : TcEffect} {sched : SchedFields} (hs : s.FindingsFit) :
    (s.event host p out sched).FindingsFit :=
  hs.onlyPort (State.event_onlyPort s host p out sched) (by rw [State.event_findings])

theorem tcEvent {host : Bool} {p : Port} {out : TcEffect} (hs : s.FindingsFit) : (s.tcEvent host p out).FindingsFit :=
  hs.event

theorem schedEvent {host : Bool} {p : Port} {sched : SchedFields} (hs : s.FindingsFit) :
    (s.schedEvent host p sched).FindingsFit := hs.event

theorem foldl {α : Type} {f : State → α → State} (hf : ∀ {t : State} a, t.FindingsFit → (f t a).FindingsFit)
    (l : List α) (hs : s.FindingsFit) : (l.foldl f s).FindingsFit := by
  induction l generalizing s with
  | nil => exact hs
  | cons a l ih => exact ih (hf a hs)

theorem setQueue {q : List Entry} (hs : s.FindingsFit) (hq : ∀ x ∈ q, x.bounded) :
    ({ s with queue := q } : State).FindingsFit :=
  hs.of_fewer (fun _ => .refl _) hs.engines hq

/-- An entry without a suspended run joins the queue. -/
theorem joinTail {x : Entry} (hs : s.FindingsFit) (hx : x.suspended = none) :
    ({ s with queue := joinTail s.queue x } : State).FindingsFit :=
  hs.setQueue fun y hy => by
    rcases mem_joinTail.1 hy with rfl | hy
    · exact Entry.bounded_of_queued hx
    · exact hs.queue y hy

theorem dropEntry {p : Port} (hs : s.FindingsFit) : (s.dropEntry p).FindingsFit :=
  hs.setQueue fun x hx => hs.queue x (List.mem_filter.1 hx).1

/-- The head leaves the queue. -/
theorem dropHead {x : Entry} {rest : List Entry} (hs : s.FindingsFit) (hq : s.queue = x :: rest) :
    ({ s with queue := rest } : State).FindingsFit :=
  hs.setQueue fun y hy => hs.queue y (hq ▸ List.mem_cons_of_mem x hy)

theorem setEngine {e : EngineId} {x : Engine} (hs : s.FindingsFit) (hx : x.bounded) :
    (s.setEngine e x).FindingsFit := by
  refine hs.of_fewer (fun _ => .refl _) (fun f => ?_) hs.queue
  rw [State.engine_setEngine]
  split
  · exact hx
  · exact hs.engines f

theorem assignEngine {e : EngineId} {x : Engine} (hs : s.FindingsFit) (hx : x.bounded) :
    (s.assignEngine e x).FindingsFit := (hs.setEngine hx).elsewhere

theorem releaseEngine {e : EngineId} (hs : s.FindingsFit) : (s.releaseEngine e).FindingsFit :=
  (hs.setEngine Engine.bounded_idle).elsewhere

theorem withReply {r : Vector Byte 8} (hs : s.FindingsFit) : (s.withReply r).FindingsFit := hs.elsewhere

theorem refuse {c : Cause} {p : Option Port} (hs : s.FindingsFit) : (s.refuse c p).FindingsFit := hs.elsewhere

theorem report {c : Cause} {o : Origin} {p : Option Port} (hs : s.FindingsFit) : (s.report c o p).FindingsFit :=
  hs.elsewhere

/-! ### The shared operations -/

theorem offerPlaceTo {host : Bool} (l : List Port) (hs : s.FindingsFit) : (s.offerPlaceTo host l).FindingsFit := by
  induction l generalizing s with
  | nil => exact hs
  | cons p rest ih =>
    unfold State.offerPlaceTo
    dsimp only
    split
    · split
      · exact schedEvent (hs.joinTail rfl)
      · exact ih hs.schedEvent
    · exact ih hs

theorem offerPlace {host : Bool} (hs : s.FindingsFit) : (s.offerPlace host).FindingsFit := hs.offerPlaceTo allPorts

theorem endSuspended {host : Bool} {p : Port} {cause : Ending} {ctx : Suspended} (hs : s.FindingsFit) :
    (s.endSuspended host p cause ctx).FindingsFit := offerPlace (event hs.dropEntry)

theorem stopOnPower {p : Port} {e : EngineId} (hs : s.FindingsFit) : (s.stopOnPower p e).FindingsFit := by
  unfold State.stopOnPower
  split
  · exact report (hs.setEngine ((hs.engines e).stop .power))
  · exact hs

/-- A fresh run has gathered nothing. -/
theorem lendTo {e : EngineId} {x : Entry} {u : State} (hs : s.FindingsFit) : (s.lendTo e (u.freshRun x)).FindingsFit :=
  event (modPort (hs.assignEngine (Engine.bounded_of_run rfl resultsBounded_nil)))

theorem abortPowered {r : Run} (hs : s.FindingsFit) : (s.abortPowered r).FindingsFit := offerPlace hs.schedEvent

theorem recordSource {p : Port} {f : Firing} (hs : s.FindingsFit) : (s.recordSource p f).FindingsFit := by
  unfold State.recordSource
  split
  · exact hs
  · split
    · exact hs
    · exact submit hs.modPort

/-- A port reset retires every finding of its port (R126). -/
theorem completePortReset {p : Port} {aborted : Bool} (hs : s.FindingsFit) :
    (s.completePortReset p aborted).FindingsFit := by
  obtain ⟨honly, -, heq⟩ := State.portResetUpdate_leaves s p aborted
  refine elsewhere (s := s.portResetUpdate p aborted) (hs.onlyPort honly ?_)
  rw [State.findings, heq]
  exact List.nil_sublist _

theorem bindEnded (hs : s.FindingsFit) : s.bindEnded.FindingsFit := by
  refine hs.of_same (fun p => ?_) s.engine_bindEnded s.queue_bindEnded
  rw [State.findings, State.port_bindEnded, PortState.applyWaiting_findings]
  rfl

theorem endBind (hs : s.FindingsFit) : s.endBind.FindingsFit := by
  rw [State.endBind_eq]
  unfold State.finishSuspendedReset
  split
  · exact hs.bindEnded.completePortReset
  · exact hs.bindEnded

theorem countAccess (hs : s.FindingsFit) : s.countAccess.FindingsFit := by
  unfold State.countAccess
  split
  · exact hs
  · split
    · exact hs.endBind
    · exact hs.elsewhere

/-- After a device reset there are no findings and no runs (R86, R125, R159). -/
theorem of_reset (hports : t.ports = State.reset.ports) (hqueue : t.queue = [])
    (hengines : t.engines = State.reset.engines) : t.FindingsFit := by
  have hnone (p : Port) : t.findings p = [] := by
    rw [State.findings, State.port_of_ports hports, State.reset_port]
    rfl
  refine ⟨fun e => ?_, hqueue ▸ fun x hx => (nomatch hx), ?_, fun p => ?_⟩
  · have : t.engine e = .idle := by
      rw [← State.reset_engine e]
      simp only [State.engine, hengines]
    exact this ▸ Engine.bounded_idle
  · rw [poolUsed_eq_sum, Finset.sum_eq_zero fun p _ => by rw [hnone p, List.length_nil]]
    exact Nat.zero_le _
  · rw [hnone p]
    exact ⟨fun _ => Nat.zero_le _, .nil⟩

/-! ### The reconciliation (R110) -/

/-- A reconciliation of bounded results leaves its port's list in order and four findings a pair, and the pool room. -/
theorem reconcile {p : Port} {completed : List PairResult} (hs : s.FindingsFit) (hc : resultsBounded completed) :
    (s.reconcile p completed).FindingsFit := by
  have hlist := (hs.lists p).1
  have hlength := State.length_reconciled_findings_le hlist hc
  have hcommit (r : LineRecord) (hr : r.findings = sortFindings (s.reconciled p completed).findings) :
      (s.commit p r).FindingsFit := by
    have honly := State.commit_onlyPort s p r
    have hfindings := (State.commit_findings s p r).trans hr
    have hpool := poolUsed_of_onlyPort honly
    refine ⟨fun e => ?_, honly.1.queue ▸ hs.queue, ?_, ?_⟩
    · simp only [State.engine, honly.1.engines]
      exact hs.engines e
    · have hbefore := hs.pool
      rw [hfindings, (sortFindings_perm _).length_eq] at hpool
      simp only [poolFree] at hlength
      change _ ≤ _ + (s.findings p).length at hlength
      omega
    · refine honly.forall_port (P := fun _ a => listOk a.record.findings) ?_ fun q _ => hs.lists q
      change listOk ((s.commit p r).findings p)
      rw [hfindings]
      exact listOk_sortFindings (State.pairCount_reconciled_le hlist hc)
  unfold State.reconcile
  dsimp only
  split
  · exact report (hcommit _ rfl)
  · exact hcommit _ rfl

theorem takeRunEdges {p : Port} {edges : List GuardSource} (hs : s.FindingsFit) :
    (s.takeRunEdges p edges).FindingsFit := by
  unfold State.takeRunEdges
  split
  · exact tcEvent hs.recordSource
  · exact hs.recordSource

theorem takeEndingCompleteOf (hs : s.FindingsFit) (e : EngineId) : (takeEndingCompleteOf e s).FindingsFit := by
  unfold Machine.takeEndingCompleteOf
  split
  · next r he =>
    have hgathered : resultsBounded r.completed := hs.engines e r (by rw [he]; rfl)
    split
    · exact hs
    · exact event (releaseEngine (takeRunEdges (hs.reconcile (hgathered.sublist List.filter_sublist))))
  · exact hs

theorem takeEndingAbortedOf (hs : s.FindingsFit) (e : EngineId) : (takeEndingAbortedOf e s).FindingsFit := by
  unfold Machine.takeEndingAbortedOf
  split
  · split
    · exact hs
    · exact hs
    · split
      · exact hs
      · exact event hs.releaseEngine
  · exact hs

theorem takeEndingResetOf (hs : s.FindingsFit) (e : EngineId) : (takeEndingResetOf e s).FindingsFit := by
  rcases takeEndingResetOf_cases e s with h | ⟨r, -, -, h⟩ <;> rw [h]
  · exact hs
  · exact hs.releaseEngine.completePortReset

/-! ### The Line Signal Link -/

theorem receiveFrame (hs : s.FindingsFit) (g : Group) (bytes : List Byte) : (receiveFrame g bytes s).FindingsFit := by
  have hear : (s.hear g).FindingsFit := by
    unfold State.hear
    split
    · exact hs.elsewhere
    · exact foldl (fun _ h => h.modPort) _ hs.elsewhere
  unfold Machine.receiveFrame
  split
  · exact hs
  · split
    · exact hear
    · exact hear.modPort

theorem silenceExpiryOf (hs : s.FindingsFit) (g : Group) : (silenceExpiryOf g s).FindingsFit := by
  unfold Machine.silenceExpiryOf
  split
  · exact foldl (fun _ h => h.modPort) _ hs.elsewhere
  · exact hs

theorem idleFrameSendOf (hs : s.FindingsFit) (g : Group) : (idleFrameSendOf g s).FindingsFit := by
  unfold Machine.idleFrameSendOf
  split
  · exact hs.elsewhere
  · exact hs

theorem transmitMessageOf (hs : s.FindingsFit) (g : Group) : (transmitMessageOf g s).FindingsFit := by
  have taken {p : Port} {l : List Outbound} {x : GroupLink} :
      ((s.modPort p fun ps => { ps with transmit := l }).setGroup g x).FindingsFit :=
    elsewhere (s := s.modPort p fun ps => { ps with transmit := l }) hs.modPort
  unfold Machine.transmitMessageOf
  split
  · exact hs
  · split
    · exact hs
    · split
      · exact hs
      · exact taken

/-! ### The Training Controller and the Line Guard -/

/-- A message of the inbox taken by the Training Controller alone. -/
theorem message {p : Port} {box : Inbox} {out : TcEffect} (hs : s.FindingsFit) :
    ((s.setInbox p box).tcEvent false p out).FindingsFit := tcEvent hs.setInbox

theorem takePowerAt (hs : s.FindingsFit) (p : Port) : (takePowerAt p s).FindingsFit := by
  unfold Machine.takePowerAt
  split
  · split
    · dsimp only
      split
      · exact tcEvent (stopOnPower hs.setInbox)
      · exact hs.message
    · exact hs
  · exact hs

theorem takeDetachedAt (hs : s.FindingsFit) (p : Port) : (takeDetachedAt p s).FindingsFit := by
  unfold Machine.takeDetachedAt
  split
  · dsimp only
    split
    · split
      · next e _ => exact setEngine hs.setInbox (hs.engines e).detached
      · exact hs.setInbox
    · exact hs.setInbox
  · exact hs

theorem takeEnergyAt (hs : s.FindingsFit) (p : Port) : (takeEnergyAt p s).FindingsFit := by
  unfold Machine.takeEnergyAt
  split
  · split
    · exact hs.message
    · exact hs
  · exact hs

theorem takeLostAt (hs : s.FindingsFit) (p : Port) : (takeLostAt p s).FindingsFit := by
  unfold Machine.takeLostAt
  split
  · exact hs.message
  · exact hs

theorem takeResultPassAt (hs : s.FindingsFit) (p : Port) : (takeResultPassAt p s).FindingsFit := by
  unfold Machine.takeResultPassAt
  split
  · split
    · exact hs.message
    · exact hs
  · exact hs

theorem takeResultFailAt (hs : s.FindingsFit) (p : Port) : (takeResultFailAt p s).FindingsFit := by
  unfold Machine.takeResultFailAt
  split
  · split
    · exact hs.message
    · exact hs
  · exact hs

theorem takePageAt (hs : s.FindingsFit) (p : Port) : (takePageAt p s).FindingsFit := by
  unfold Machine.takePageAt
  split
  · split
    · exact hs.message
    · exact hs
  · exact hs

theorem listenExpiryAt (hs : s.FindingsFit) (p : Port) : (listenExpiryAt p s).FindingsFit := by
  unfold Machine.listenExpiryAt
  split
  · exact hs.tcEvent
  · exact hs

theorem trainExpiryAt (hs : s.FindingsFit) (p : Port) : (trainExpiryAt p s).FindingsFit := by
  unfold Machine.trainExpiryAt
  split
  · exact hs.tcEvent
  · exact hs

theorem takeWithdrawAt (hs : s.FindingsFit) (p : Port) : (takeWithdrawAt p s).FindingsFit := by
  unfold Machine.takeWithdrawAt
  split
  · exact tcEvent hs.modPort
  · exact hs

theorem guardFiringAt (hs : s.FindingsFit) (p : Port) : (guardFiringAt p s).FindingsFit := by
  unfold Machine.guardFiringAt
  split
  · unfold State.takeFiring
    split
    · exact recordSource hs.modPort
    · exact modPort (recordSource hs.modPort)
  · exact hs

/-! ### The Probe Scheduler and the engines -/

theorem autoProbeRequestAt (hs : s.FindingsFit) (p : Port) : (autoProbeRequestAt p s).FindingsFit := by
  have taken : (s.modPort p fun ps => { ps with autoRequests := ps.autoRequests - 1 }).FindingsFit := hs.modPort
  unfold Machine.autoProbeRequestAt
  split
  · exact hs
  · unfold State.takeAutoProbe
    dsimp only
    split
    · exact taken
    · split
      · refine taken.setQueue fun x hx => ?_
        obtain ⟨y, hy, rfl⟩ := List.mem_map.1 hx
        split <;> exact hs.queue y hy
      · split
        · exact taken
        · split
          · exact schedEvent (taken.joinTail rfl)
          · exact taken.schedEvent

theorem powerNoticeAt (hs : s.FindingsFit) (p : Port) : (powerNoticeAt p s).FindingsFit := by
  have taken : (s.modPort p fun ps => { ps with powerNotice := false }).FindingsFit := hs.modPort
  unfold Machine.powerNoticeAt
  split
  · dsimp only
    split
    · unfold State.takePowerNotice
      split
      · exact taken.stopOnPower
      · split
        · split
          · exact endSuspended taken.report
          · exact taken
        · exact taken
    · exact taken
  · exact hs

theorem dispatchHead (hs : s.FindingsFit) : (dispatchHead s).FindingsFit := by
  unfold Machine.dispatchHead
  split
  · exact hs
  · split
    · next e x rest _ hq =>
      split
      · exact hs
      · dsimp only
        split
        · exact abortPowered (hs.dropHead hq)
        · exact offerPlace (lendTo (hs.dropHead hq))
    · exact hs

/-- A resumed run goes on with what the entry has saved (R93). -/
theorem resumeHead (hs : s.FindingsFit) : (resumeHead s).FindingsFit := by
  unfold Machine.resumeHead
  split
  · exact hs
  · split
    · next e x rest _ hq =>
      split
      · exact hs
      · next ctx hctx =>
        have hsaved : resultsBounded ctx.completed := hs.queue x (hq ▸ List.mem_cons_self) ctx hctx
        split
        · exact hs
        · exact schedEvent (assignEngine (hs.dropHead hq) (Run.nextPair_bounded hsaved))
    · exact hs

/-- A preempted run saves what it has gathered (R102). -/
theorem preemptForHead (hs : s.FindingsFit) : (preemptForHead s).FindingsFit := by
  unfold Machine.preemptForHead
  split
  · exact hs
  · split
    · next x rest e hq _ =>
      split
      · exact hs
      · next old hold =>
        split
        · exact hs
        · dsimp only
          split
          · exact abortPowered (hs.dropHead hq)
          · refine schedEvent (lendTo (hs.setQueue fun y hy => ?_))
            rcases mem_joinFrontOfRoutine.1 hy with rfl | hy
            · exact Run.suspend_bounded (hs.engines e old hold)
            · exact hs.queue y (hq ▸ List.mem_cons_of_mem x hy)
    · exact hs

theorem waitExpiryOf (hs : s.FindingsFit) (e : EngineId) : (waitExpiryOf e s).FindingsFit := by
  unfold Machine.waitExpiryOf
  split
  · exact report (hs.setEngine ((hs.engines e).stop .noDetach))
  · exact hs

theorem sweepCompletionOf (hs : s.FindingsFit) (e : EngineId) (echoes : List Echo) :
    (sweepCompletionOf e echoes s).FindingsFit := by
  unfold Machine.sweepCompletionOf
  split
  · exact hs.setEngine ((hs.engines e).completeSweep echoes)
  · exact hs

/-! ### The SEARCH scan, the end of a bind and the resets -/

theorem hostQuiet (hs : s.FindingsFit) (h : HostQuiet s t) : t.FindingsFit :=
  hs.of_same (fun p => by rw [State.findings, (h.blocks p).record]; rfl)
    (fun e => by simp only [State.engine, h.engines]) h.queue

theorem bindExpiryOf (hs : s.FindingsFit) : (bindExpiryOf s).FindingsFit := by
  unfold Machine.bindExpiryOf
  split
  · split
    · exact endBind hs.report
    · exact hs
  · exact hs

theorem resetnFalls (hs : s.FindingsFit) : (resetnFalls s).FindingsFit := by
  unfold Machine.resetnFalls
  split
  · exact of_reset rfl rfl rfl
  · exact hs

theorem deviceResetCompletes (hs : s.FindingsFit) : (deviceResetCompletes s).FindingsFit := by
  unfold Machine.deviceResetCompletes
  split
  · exact of_reset rfl rfl rfl
  · exact hs

/-! ### The host's commands -/

theorem onPort {f : Port → State → State} (hs : s.FindingsFit) (portByte : Byte) (hf : ∀ p, (f p s).FindingsFit) :
    (onPort portByte f s).FindingsFit := by
  unfold Machine.onPort
  split
  · exact hf _
  · exact hs.refuse

theorem setCursorCommand (hs : s.FindingsFit) (port offset : Byte) : (setCursorCommand port offset s).FindingsFit := by
  unfold Machine.setCursorCommand
  dsimp only
  split <;> exact hs.elsewhere

theorem setWalkCommand (hs : s.FindingsFit) (mode : Byte) : (setWalkCommand mode s).FindingsFit := by
  unfold Machine.setWalkCommand
  split <;> exact hs.elsewhere

theorem setPageCommand (hs : s.FindingsFit) (page : Byte) : (setPageCommand page s).FindingsFit := by
  unfold Machine.setPageCommand
  split <;> exact hs.elsewhere

theorem bindCommand (hs : s.FindingsFit) (n : Byte) : (bindCommand n s).FindingsFit := by
  unfold Machine.bindCommand
  split
  · exact hs.elsewhere
  · exact countAccess hs.refuse

theorem aimCommand (hs : s.FindingsFit) (port n : Byte) : (aimCommand port n s).FindingsFit := by
  unfold Machine.aimCommand
  split
  · exact hs.elsewhere
  · exact countAccess hs.refuse

theorem takeChangeCommand (hs : s.FindingsFit) : (takeChangeCommand s).FindingsFit := by
  unfold Machine.takeChangeCommand
  split
  · exact withReply hs.modPort
  · exact hs.withReply

theorem searchCommand (hs : s.FindingsFit) (kind value start : Byte) :
    (searchCommand kind value start s).FindingsFit := by
  unfold Machine.searchCommand
  split
  · exact hs.refuse
  · split
    · split <;> exact hs.elsewhere
    · exact hs.refuse

theorem machineCommand {p : Port} {out : TcEffect} (hs : s.FindingsFit) : (s.machineCommand p out).FindingsFit :=
  withReply hs.tcEvent

theorem restartPort (hs : s.FindingsFit) (p : Port) : (restartPort p s).FindingsFit := by
  unfold Machine.restartPort
  split
  · exact hs.machineCommand
  · exact hs.refuse

theorem probePort (hs : s.FindingsFit) (p : Port) (pairs : PairSet) (cls : ReqClass) :
    (probePort p pairs cls s).FindingsFit := by
  unfold Machine.probePort
  dsimp only
  split
  · exact hs.refuse
  · split
    · exact hs.refuse
    · split
      · exact hs.refuse
      · split
        · exact withReply (hs.setQueue (mergeEntry_bounded hs.queue p pairs cls))
        · split
          · exact hs.refuse
          · split <;> exact withReply (schedEvent (hs.joinTail rfl))

theorem probeCommand (hs : s.FindingsFit) (portByte pairByte classByte : Byte) :
    (probeCommand portByte pairByte classByte s).FindingsFit := by
  unfold Machine.probeCommand
  split
  · exact hs.refuse
  · split
    · exact hs.refuse
    · split
      · exact hs.refuse
      · exact hs.probePort _ _ _

theorem cancelPort (hs : s.FindingsFit) (p : Port) : (cancelPort p s).FindingsFit := by
  unfold Machine.cancelPort
  refine withReply ?_
  split
  · next e _ => exact hs.setEngine ((hs.engines e).stop .cancelled)
  · split
    · split
      · exact hs.endSuspended
      · exact offerPlace (schedEvent hs.dropEntry)
    · split
      · exact hs.schedEvent
      · exact hs

theorem resetScheduling (hs : s.FindingsFit) (p : Port) : (s.resetScheduling p).FindingsFit := by
  have cleared : (s.modPort p PortState.clearWanted).FindingsFit :=
    hs.modPort (by unfold PortState.clearWanted; split <;> rfl)
  unfold State.resetScheduling
  dsimp only
  split
  · exact cleared.setEngine (Engine.resetRun_bounded _)
  · split
    · exact offerPlace cleared.dropEntry
    · exact cleared

theorem portResetPort (hs : s.FindingsFit) (p : Port) : (portResetPort p s).FindingsFit := by
  rcases portResetPort_cases p s with ⟨b, h⟩ | ⟨b, h⟩ <;> rw [h]
  · exact (hs.resetScheduling p).completePortReset
  · exact elsewhere (s := (s.resetScheduling p).modPort p PortState.discardWaiting) (hs.resetScheduling p).modPort

theorem changeFindings {p : Port} {r : LineRecord} (hs : s.FindingsFit) (hr : r.findings.Sublist (s.findings p)) :
    (s.changeFindings p r).FindingsFit := by
  have hc : (s.commit p (r.rederive s.settings)).FindingsFit := hs.commit hr
  unfold State.changeFindings
  dsimp only
  split
  · exact hc
  · exact hc.modPort

theorem retireCommand (hs : s.FindingsFit) (portByte indexByte : Byte) :
    (retireCommand portByte indexByte s).FindingsFit := by
  unfold Machine.retireCommand
  split
  · exact hs.refuse
  · dsimp only
    split
    · exact withReply (hs.changeFindings (List.eraseIdx_sublist _ _))
    · exact hs.refuse

theorem clearFindingsCommand (hs : s.FindingsFit) (portByte : Byte) :
    (clearFindingsCommand portByte s).FindingsFit := by
  unfold Machine.clearFindingsCommand
  split
  · exact hs.refuse
  · exact withReply (hs.changeFindings (List.nil_sublist _))

theorem performCommand (hs : s.FindingsFit) (c : HostCommand) : (performCommand c s).FindingsFit := by
  cases c with
  | bind n => exact hs.bindCommand n
  | aim port n => exact hs.aimCommand port n
  | deviceReset => exact of_reset rfl rfl rfl
  | setCursor port offset => exact countAccess (hs.setCursorCommand port offset)
  | setWalk mode => exact countAccess (hs.setWalkCommand mode)
  | setPage page => exact countAccess (hs.setPageCommand page)
  | readError | clearError => exact countAccess hs.elsewhere
  | takeChange => exact countAccess hs.takeChangeCommand
  | search kind value start => exact countAccess (hs.searchCommand kind value start)
  | park port | unpark port | rearm port => exact countAccess (hs.onPort port fun _ => hs.machineCommand)
  | restart port => exact countAccess (hs.onPort port hs.restartPort)
  | portReset port => exact countAccess (hs.onPort port hs.portResetPort)
  | probe port pairs cls => exact countAccess (hs.probeCommand port pairs cls)
  | cancel port => exact countAccess (hs.onPort port hs.cancelPort)
  | retire port index => exact countAccess (hs.retireCommand port index)
  | clearFindings port => exact countAccess (hs.clearFindingsCommand port)

theorem commandWrite (hs : s.FindingsFit) (bytes : List Byte) : (commandWrite bytes s).FindingsFit := by
  have ht : ({ s with transfer := none } : State).FindingsFit := hs.elsewhere
  unfold Machine.commandWrite
  dsimp only
  split
  · exact ht
  · exact ht.countAccess
  · exact countAccess ht.refuse
  · unfold carryOut
    split
    · exact ht.performCommand _
    · exact countAccess ht.refuse
    · exact countAccess ht.refuse

/-! ### Data bytes and status reads -/

theorem raiseOnce {x : Transfer} {c : Cause} {p : Option Port} (hs : s.FindingsFit) :
    (s.raiseOnce x c p).FindingsFit := by
  unfold State.raiseOnce
  split
  · exact hs
  · exact hs.elsewhere

theorem dataReadByte (hs : s.FindingsFit) : (dataReadByte s).FindingsFit := by
  unfold Machine.dataReadByte
  split
  · split
    · exact hs
    · unfold readByteAs
      split
      · exact countAccess hs.elsewhere
      · exact countAccess (elsewhere hs.raiseOnce)
      · exact countAccess hs.elsewhere
      · exact hs.elsewhere
  · exact hs

theorem dataReadPart (hs : s.FindingsFit) (part : ReadPart) : (dataReadPart part s).FindingsFit := by
  cases part with
  | control => exact hs.elsewhere
  | fetch =>
    unfold Machine.dataReadPart fetchReadByte
    dsimp only
    split
    · split
      · exact hs
      · exact hs.elsewhere
    · exact hs
  | byte => exact hs.dataReadByte

theorem writeByteEffect (hs : s.FindingsFit) (x : Transfer) (b : Byte) : (writeByteEffect x b s).FindingsFit := by
  unfold Machine.writeByteEffect
  split
  case h_1 | h_2 => exact hs.raiseOnce
  case h_3 | h_4 | h_5 => exact hs.elsewhere
  case h_6 | h_7 | h_8 => exact hs.commit (.refl _)

theorem dataWriteByte (hs : s.FindingsFit) (b : Byte) : (dataWriteByte b s).FindingsFit := by
  unfold Machine.dataWriteByte
  split
  · split
    · unfold writeByteAs
      split
      · exact countAccess (elsewhere (hs.writeByteEffect _ b))
      · exact countAccess hs.raiseOnce
      · exact hs.countAccess
      · exact hs
    · exact hs
  · exact hs

theorem dataWritePart (hs : s.FindingsFit) (part : WritePart) : (dataWritePart part s).FindingsFit := by
  cases part with
  | control => exact hs.elsewhere
  | byte b => exact hs.dataWriteByte b

theorem statusReadBytes (hs : s.FindingsFit) (n : Nat) : (statusReadBytes n s).FindingsFit := by
  unfold Machine.statusReadBytes
  split <;> exact hs.elsewhere

theorem bindCountEndBy (hs : s.FindingsFit) (a : Access) : (bindCountEndBy a s).FindingsFit := by
  unfold Machine.bindCountEndBy
  split
  · cases a with
    | command bytes => exact hs.commandWrite bytes
    | readByte => exact hs.dataReadByte
    | writeByte b => exact hs.dataWriteByte b
  · exact hs

/-! ### Every command -/

theorem execHost {c : Instr} (hs : s.FindingsFit) (hc : isHost c = true) (he : exec c s = .next t) : t.FindingsFit := by
  rcases isHost_cases hc with ⟨bytes, hb⟩ | ⟨a, rfl⟩ | ⟨n, rfl⟩ | ⟨part, rfl⟩ | ⟨part, rfl⟩
  · rw [exec_command hb] at he
    cases he
    exact hs.commandWrite bytes
  · cases he; exact hs.bindCountEndBy a
  · cases he; exact hs.statusReadBytes n
  · cases he; exact hs.dataReadPart part
  · cases he; exact hs.dataWritePart part

/-- The commands that are not the host's. -/
theorem execOther {c : Instr} (hs : s.FindingsFit) (hc : isHost c = false) (he : exec c s = .next t) :
    t.FindingsFit := by
  cases c <;> simp only [isHost, Bool.true_eq_false] at hc <;> cases he
  case frameReceive => exact hs.receiveFrame _ _
  case silenceExpiry => exact hs.silenceExpiryOf _
  case idleFrameSend => exact hs.idleFrameSendOf _
  case transmitMessage => exact hs.transmitMessageOf _
  case takePower => exact hs.takePowerAt _
  case takeDetached => exact hs.takeDetachedAt _
  case takeEnergy => exact hs.takeEnergyAt _
  case takeLost => exact hs.takeLostAt _
  case takeResultPass => exact hs.takeResultPassAt _
  case takeResultFail => exact hs.takeResultFailAt _
  case takePage => exact hs.takePageAt _
  case listenExpiry => exact hs.listenExpiryAt _
  case trainExpiry => exact hs.trainExpiryAt _
  case takeWithdraw => exact hs.takeWithdrawAt _
  case guardFiring => exact hs.guardFiringAt _
  case autoProbeRequest => exact hs.autoProbeRequestAt _
  case powerNotice => exact hs.powerNoticeAt _
  case dispatch => exact hs.dispatchHead
  case resumption => exact hs.resumeHead
  case preemption => exact hs.preemptForHead
  case waitExpiry => exact hs.waitExpiryOf _
  case sweepCompletion => exact hs.sweepCompletionOf _ _
  case takeEndingComplete => exact hs.takeEndingCompleteOf _
  case takeEndingAborted => exact hs.takeEndingAbortedOf _
  case takeEndingReset => exact hs.takeEndingResetOf _
  case bindExpiry => exact hs.bindExpiryOf
  case scanExamineRecord => exact hs.hostQuiet (scanExamine_hostQuiet s)
  case searchComplete => exact hs.hostQuiet (searchCompleteOf_hostQuiet s)
  case resetnAssert => exact hs.resetnFalls
  case resetnRelease => exact hs.elsewhere
  case powerUp => exact of_reset rfl rfl rfl
  case deviceResetComplete => exact hs.deviceResetCompletes

theorem exec {c : Instr} (hs : s.FindingsFit) (he : exec c s = .next t) : t.FindingsFit := by
  cases hc : isHost c with
  | true => exact hs.execHost hc he
  | false => exact hs.execOther hc he

theorem tick (hs : s.FindingsFit) : (tick s).FindingsFit := by
  refine hs.of_fewer (fun p => ?_) (fun e => ?_) hs.queue
  · rw [State.findings, port_tick]
    exact .refl _
  · rw [engine_tick]
    exact (hs.engines e).tick

end State.FindingsFit

/-- Settles O59: only a reconciliation adds findings, and it adds what its pairs and the pool have room for. -/
theorem everyStepKeepsTheFindings : Obligations.EveryStepKeepsTheFindings := by
  intro s t hs h
  rw [State.findingsOk_iff] at hs ⊢
  exact step_keeps (I := State.FindingsFit) (fun he hs => hs.exec he) (fun hs => hs.tick)
    (fun _ hs => hs.elsewhere) h hs

end Sys2Proof.Machine

end

section

namespace Sys2Proof.Machine

/-! ## The DETACH wait (R92) -/

theorem waitExpiryOf_expired {e : EngineId} {r : Run} {s : State} (he : s.engine e = .attaching r 0) :
    waitExpiryOf e s =
      (s.report .noDetach .event (some r.port)).setEngine e (.closing { r with completed := [] } .noDetach) := by
  unfold waitExpiryOf
  rw [he]
  rfl

/-- Settles O45: the wait has run out, so the engine stops with ending NO-DETACH. -/
theorem waitExpiryEndsTheRun : Obligations.WaitExpiryEndsTheRun :=
  fun _ _ _ he => congrArg Host.Outcome.next (waitExpiryOf_expired he)

end Sys2Proof.Machine

end

section

namespace Sys2Proof.Machine

/-! ## Echoes and candidates (R95 to R97) -/

/-! ### The kind of an echo (R95) -/

section

variable {threshold : Nat} {x : Echo}

theorem classifyEcho_coupled {q : Pair} {k : Nat} (h : x.coupled = some (q, k)) (hk : threshold ≤ k) :
    classifyEcho threshold x = some (.cross q, (k : Int)) := by
  simp only [classifyEcho, coupledAt, h, if_pos hk]

theorem coupledAt_eq_none (h : ∀ q k, x.coupled = some (q, k) → k < threshold) : coupledAt threshold x = none := by
  unfold coupledAt
  split
  · next q k hx => exact if_neg (Nat.not_le.2 (h q k hx))
  · rfl

variable (h : ∀ q k, x.coupled = some (q, k) → k < threshold)

include h

theorem classifyEcho_below (ha : x.amplitude.natAbs < threshold) : classifyEcho threshold x = none := by
  simp only [classifyEcho, coupledAt_eq_none h, if_neg (Nat.not_le.2 ha)]

/-- An echo that counts by its own amplitude, by the lines of R95's table in their order. -/
theorem classifyEcho_own (ha : threshold ≤ x.amplitude.natAbs) :
    classifyEcho threshold x =
      if 80 ≤ x.amplitude then some (.open, x.amplitude)
      else if x.amplitude ≤ -80 then some (.short, x.amplitude)
      else if 0 < x.amplitude then some (.highZ, x.amplitude)
      else some (.lowZ, x.amplitude) := by
  simp only [classifyEcho, coupledAt_eq_none h, if_pos ha]

end

/-! ### One echo of a sweep (R96, R97) -/

theorem apart_le_two_iff {a b : Nat} : apart a b ≤ 2 ↔ a ≤ b + 2 ∧ b ≤ a + 2 := by
  unfold apart
  omega

theorem eligible_iff {kind : Kind} {index : Nat} {y : Candidate × Bool} :
    eligible kind index y = true ↔
      y.2 = false ∧ y.1.kind = kind ∧ y.1.index ≤ index + 2 ∧ index ≤ y.1.index + 2 := by
  simp only [eligible, Bool.and_eq_true, decide_eq_true_eq, Bool.not_eq_true', apart_le_two_iff]
  tauto

theorem betterMatch_iff {index : Nat} {c d : Candidate} :
    betterMatch index c d = true ↔
      apart c.index index < apart d.index index ∨ (apart c.index index = apart d.index index ∧ c.index < d.index) := by
  simp only [betterMatch, Bool.or_eq_true, Bool.and_eq_true, decide_eq_true_eq]

section

variable {latched : ProbeSettings} {x : Echo} {kind : Kind} {amplitude : Int}

theorem takeEcho_ignored (h : x.index < latched.blanking ∨ classifyEcho latched.threshold x = none) (T : SweepTable) :
    takeEcho latched T x = T := by
  unfold takeEcho
  split
  · rfl
  · next hb => rw [h.resolve_left hb]

theorem sweepTable_ignored (h : x.index < latched.blanking ∨ classifyEcho latched.threshold x = none)
    (table : List Candidate) (before after : List Echo) :
    sweepTable latched table (before ++ x :: after) = sweepTable latched table (before ++ after) := by
  simp only [sweepTable, List.foldl_append, List.foldl_cons, takeEcho_ignored h]

variable (hb : latched.blanking ≤ x.index) (hc : classifyEcho latched.threshold x = some (kind, amplitude))

include hb hc

/-- A counting echo matches the candidate that is nearer than every other it may match, of two equally near the one of
lower index, and of two of one index the first. -/
theorem takeEcho_matches {before after : SweepTable} {c : Candidate} (he : eligible kind x.index (c, false) = true)
    (hbefore : ∀ y ∈ before, eligible kind x.index y = true → betterMatch x.index c y.1 = true)
    (hafter : ∀ y ∈ after, eligible kind x.index y = true → betterMatch x.index y.1 c = false) :
    takeEcho latched (before ++ (c, false) :: after) x =
      before ++ (c.seen latched.confirm x.index amplitude, true) :: after := by
  have hmatch := bestMatch_some 0 he hbefore hafter
  simp only [takeEcho, if_neg (Nat.not_lt.2 hb), hc, hmatch, Nat.zero_add]
  rw [List.set_append_right _ _ (Nat.le_refl _), Nat.sub_self, List.set_cons_zero]

/-- A counting echo that matches no candidate makes one, where there is room. -/
theorem takeEcho_makes {T : SweepTable} (h : ∀ y ∈ T, eligible kind x.index y = false) :
    takeEcho latched T x =
      if T.length < Config.candidatesPerPair then
        T ++ [(Candidate.made latched.confirm kind x.index amplitude, true)]
      else T := by
  simp only [takeEcho, if_neg (Nat.not_lt.2 hb), hc, bestMatch_none 0 h]

/-! ### A sweep with one echo -/

theorem sweepTable_first : sweepTable latched [] [x] = [Candidate.made latched.confirm kind x.index amplitude] := by
  have htake := takeEcho_makes hb hc (T := []) fun _ h => nomatch h
  simp only [sweepTable, List.map_nil, List.foldl_cons, List.foldl_nil, htake]
  rfl

theorem sweepTable_matched {c : Candidate} (he : eligible kind x.index (c, false) = true) :
    sweepTable latched [c] [x] = [c.seen latched.confirm x.index amplitude] := by
  have htake := takeEcho_matches hb hc (before := []) (after := []) he (fun _ h => nomatch h) fun _ h => nomatch h
  rw [List.nil_append, List.nil_append] at htake
  simp only [sweepTable, List.map_cons, List.map_nil, List.foldl_cons, List.foldl_nil, htake]
  rfl

theorem sweepTable_unmatched {c : Candidate} (he : eligible kind x.index (c, false) = false) :
    sweepTable latched [c] [x] =
      [{ c with sightings := 0 }, Candidate.made latched.confirm kind x.index amplitude] := by
  have htake := takeEcho_makes hb hc (T := [(c, false)]) fun y hy => by rw [List.mem_singleton.1 hy]; exact he
  simp only [sweepTable, List.map_cons, List.map_nil, List.foldl_cons, List.foldl_nil, htake]
  rfl

end

/-- Settles O46: R95's table line by line, and what an echo that counts does to a table by the candidate it matches. -/
theorem countingEchoesAreClassifiedAndTabled : Obligations.CountingEchoesAreClassifiedAndTabled := by
  refine ⟨fun threshold x => ⟨fun q k => classifyEcho_coupled, fun h => ⟨classifyEcho_below h, fun ha => ?_⟩⟩,
    fun latched x => ⟨sweepTable_ignored, fun kind amplitude hb hc => ?_, fun _ _ => rfl,
      fun marked => ⟨fun h => takeEcho_ignored h marked, fun kind amplitude hb hc => ?_⟩⟩⟩
  · rw [classifyEcho_own h ha]
    refine ⟨fun hopen => if_pos hopen, fun hshort => ?_, fun hpos hlt => ?_, fun hgt hneg => ?_⟩
    · rw [if_neg (by omega), if_pos hshort]
    · rw [if_neg (by omega), if_neg (by omega), if_pos hpos]
    · rw [if_neg (by omega), if_neg (by omega), if_neg (by omega)]
  · refine ⟨sweepTable_first hb hc, fun c => ⟨fun hmatched => ?_, fun hmatched => ?_⟩⟩
    · exact sweepTable_matched hb hc (eligible_iff.2 ⟨rfl, hmatched⟩)
    · refine sweepTable_unmatched hb hc ?_
      rw [← Bool.not_eq_true, eligible_iff]
      exact fun he => hmatched he.2
  · refine ⟨fun before c after hmarked hopen hbefore hafter => ?_, fun hnone => ?_⟩
    · rw [hmarked]
      refine takeEcho_matches hb hc (eligible_iff.2 hopen) (fun y hy he => ?_) fun y hy he => ?_
      · exact betterMatch_iff.2 (hbefore y hy (eligible_iff.1 he))
      · have hfar : apart c.index x.index < apart y.1.index x.index
            ∨ (apart c.index x.index = apart y.1.index x.index ∧ c.index ≤ y.1.index) :=
          hafter y hy (eligible_iff.1 he)
        rw [← Bool.not_eq_true, betterMatch_iff]
        omega
    · refine takeEcho_makes hb hc fun y hy => ?_
      rw [← Bool.not_eq_true, eligible_iff]
      exact hnone y hy

/-! ## The completion of a sweep (R94, R98) -/

section

variable {e : EngineId} {echoes : List Echo} {r : Run} {q : Pair} {n : Nat} {table : List Candidate} {s : State}

theorem exec_sweepCompletion (he : s.engine e = .sweeping r q n 0 table)
    (hpossible : echoesPossible r.latched.window q echoes = true) :
    exec (.sweepCompletion e echoes) s
      = .next (s.setEngine e (Engine.completeSweep echoes (.sweeping r q n 0 table))) := by
  have hready : s.sweepReady e echoes = true := by
    simp [State.sweepReady, he, hpossible]
  change Host.Outcome.next (sweepCompletionOf e echoes s) = _
  rw [sweepCompletionOf, if_pos hready, he]

theorem Engine.completeSweep_goesOn (left : Nat) (h : n < r.latched.confirm + 2) :
    Engine.completeSweep echoes (.sweeping r q n left table)
      = .sweeping r q (n + 1) r.latched.window (sweepTable r.latched table echoes) := if_pos h

theorem Engine.completeSweep_finishes (left : Nat) (h : r.latched.confirm + 2 ≤ n) :
    Engine.completeSweep echoes (.sweeping r q n left table)
      = Run.nextPair { r with
          completed := r.completed ++ [finishPair r.latched q (sweepTable r.latched table echoes)] } :=
  if_neg (Nat.not_lt.2 h)

end

/-- A finished pair's result, by any listing of its confirmed candidates that gives its results in their order. -/
theorem finishPair_eq {set : ProbeSettings} {q : Pair} {table : List Candidate} {order : List (Candidate × Nat)}
    (hperm : order.Perm (table.filter fun c => c.confirmed).zipIdx)
    (hresults : confirmedResults set table = order.map fun y => y.1.result set.velocity) :
    finishPair set q table =
      { pair := q
        results := (order.take 4).map fun y => y.1.result set.velocity
        more := decide (4 < (table.filter fun c => c.confirmed).length) } := by
  have hlen : order.length = (table.filter fun c => c.confirmed).length := by
    rw [hperm.length_eq, List.length_zipIdx]
  simp only [finishPair, hresults, List.map_take, List.length_map, hlen, Config.findingsPerPair]

/-- Of two results in the order of their keys the first is nearer, or equally near with a lower kind code, or with the
same code and a lower detail; otherwise the keys are one. -/
theorem Result.key_order {a b : Result} {i j : Nat}
    (h : keyLe b.key a.key = false ∨ (keyLe a.key b.key = true ∧ i < j)) :
    a.distance < b.distance ∨ (a.distance = b.distance ∧
      (a.kind.code < b.kind.code ∨ (a.kind.code = b.kind.code ∧
        (a.kind.detail < b.kind.detail ∨ (a.kind.detail = b.kind.detail ∧ i < j))))) := by
  rw [← Bool.not_eq_true] at h
  simp only [Result.key, keyLe, Bool.or_eq_true, Bool.and_eq_true, decide_eq_true_eq, and_true] at h
  omega

/-- Settles O47: by whether the sweep is the pair's last, and then by the next pair to sweep. -/
theorem sweepCompletionGoesOnOrFinishesThePair : Obligations.SweepCompletionGoesOnOrFinishesThePair := by
  intro e echoes r q n table s he hpossible table' confirmed distance first
  rw [exec_sweepCompletion he hpossible]
  refine ⟨fun hn => by rw [Engine.completeSweep_goesOn 0 hn], ?_⟩
  obtain ⟨order, hperm, hresults, horder⟩ := confirmedResults_order r.latched table'
  refine ⟨order, hperm, horder.imp Result.key_order, fun hn => ?_⟩
  intro x r' left
  rw [Engine.completeSweep_finishes 0 hn, finishPair_eq hperm hresults]
  refine ⟨fun k hk hfirst => ?_, fun hnone => ?_⟩
  · exact congrArg (fun y => Host.Outcome.next (s.setEngine e y)) (Run.nextPair_eq (r := r') hk hfirst)
  · exact congrArg (fun y => Host.Outcome.next (s.setEngine e y)) (Run.nextPair_none (r := r') hnone)

end Sys2Proof.Machine

end

section

namespace Sys2Proof.Machine

/-! ## The Line Guard (R128, R129, R134) -/

/-! ### What an applied update leaves of a record (R12, R14, R15) -/

/-- The record after an application, but for its effective offer and generation. -/
theorem LineRecord.applied_but_derived (a r : LineRecord) :
    { a.applied r with effectiveOffer := r.effectiveOffer, generation := r.generation } = r := by
  unfold LineRecord.applied
  split
  · next h => rw [h]
  · rfl

theorem LineRecord.applied_same (a : LineRecord) : a.applied a = a := if_pos rfl

theorem LineRecord.applied_changed {a r : LineRecord} (h : r ≠ a) :
    a.applied r = { r.withEffectiveOffer with generation := a.generation + 1 } := if_neg h

theorem PortState.apply_advances (set : Settings) (u : Update) (ps : PortState) :
    AdvancesOnce ps (ps.apply set u) := by
  obtain ⟨-, -, -, -, -, -, -, hoffer, hgeneration, -⟩ := PortState.updated_rest set u ps
  by_cases h : ps.updated set u = ps.record
  · left
    simp [PortState.apply, h, LineRecord.applied_same]
  · right
    rw [← hoffer, ← hgeneration]
    simp only [PortState.apply, LineRecord.applied_changed h]
    exact ⟨h, rfl, by rw [hgeneration], by simp [h]⟩

/-! ### The last guard source (R128, R134) -/

/-- Port `b` is `a` after the Line Guard has recorded its last source: an update where the source changes, applied at
once or held back while a bind is open, and none where it stands already. -/
def PortState.RecordsSource (last : GuardSource) (bind : Option Bind) (a b : PortState) : Prop :=
  b = { a with
      lastSource := some last, record := b.record, inChangeSet := b.inChangeSet, guardWaiting := b.guardWaiting }
    ∧ (a.lastSource = some last →
      b.record = a.record ∧ b.inChangeSet = a.inChangeSet ∧ b.guardWaiting = a.guardWaiting)
    ∧ (a.lastSource ≠ some last → bind = none → b.record.lastSource = some last ∧ b.guardWaiting = false)
    ∧ (a.lastSource ≠ some last → bind ≠ none →
      b.record = a.record ∧ b.inChangeSet = a.inChangeSet ∧ b.guardWaiting = true)
    ∧ { b.record with
        lastSource := a.record.lastSource, effectiveOffer := a.record.effectiveOffer
        generation := a.record.generation } = a.record
    ∧ AdvancesOnce a b

section

variable {last : GuardSource} {bind : Option Bind} {ps : PortState}

theorem PortState.recordsSource_stands (h : ps.lastSource = some last) : ps.RecordsSource last bind ps :=
  ⟨by rw [← h], fun _ => ⟨rfl, rfl, rfl⟩, fun hne => absurd h hne, fun hne => absurd h hne, rfl, .inl ⟨rfl, rfl⟩⟩

theorem PortState.sourceApplied_record (set : Settings) (x : GuardSource) (ps : PortState) :
    (ps.sourceApplied set x).record = ps.record.applied { ps.record with lastSource := some x } := by
  simp only [PortState.sourceApplied, PortState.apply, PortState.updated_guard, if_true]

theorem PortState.recordsSource_sourceApplied (set : Settings) (hne : ps.lastSource ≠ some last)
    (hb : bind = none) : ps.RecordsSource last bind (ps.sourceApplied set last) := by
  have hrecord := PortState.sourceApplied_record set last ps
  obtain ⟨-, -, hsource⟩ := LineRecord.applied_writers ps.record { ps.record with lastSource := some last }
  have hrest := LineRecord.applied_but_derived ps.record { ps.record with lastSource := some last }
  refine ⟨rfl, fun h => absurd h hne, fun _ _ => ⟨?_, rfl⟩, fun _ h => absurd hb h, ?_, ?_⟩
  · rw [hrecord, hsource]
  · rw [hrecord]
    exact congrArg (fun r : LineRecord => { r with lastSource := ps.record.lastSource }) hrest
  · exact PortState.apply_advances set { Update.none with guard := true }
      { ps with lastSource := some last, guardWaiting := false }

theorem PortState.recordsSource_sourceWaits (hne : ps.lastSource ≠ some last) (hb : bind ≠ none) :
    ps.RecordsSource last bind (ps.sourceWaits last) :=
  ⟨rfl, fun h => absurd h hne, fun _ h => absurd h hb, fun _ _ => ⟨rfl, rfl, rfl⟩, rfl, .inl ⟨rfl, rfl⟩⟩

end

section

variable {s : State} {p : Port} {f : Firing} {last : GuardSource}

theorem State.recordSource_stands (hlast : f.sources.getLast? = some last)
    (h : (s.port p).lastSource = some last) : s.recordSource p f = s := by
  simp only [State.recordSource, hlast, if_pos h]

theorem State.recordSource_submits (hlast : f.sources.getLast? = some last)
    (h : (s.port p).lastSource ≠ some last) :
    s.recordSource p f =
      (s.modPort p fun ps => { ps with lastSource := some last }).submit false p
        { Update.none with guard := true } := by
  simp only [State.recordSource, hlast, if_neg h]

theorem State.recordSource_onlyPort (s : State) (p : Port) (f : Firing) : OnlyPort p s (s.recordSource p f) := by
  unfold State.recordSource
  split
  · exact .refl s p
  · split
    · exact .refl s p
    · exact (OnlyPort.modPort s p _).trans (State.submit_onlyPort _ false p _)

theorem State.recordSource_records (hlast : f.sources.getLast? = some last) :
    (s.port p).RecordsSource last s.bind ((s.recordSource p f).port p) := by
  by_cases h : (s.port p).lastSource = some last
  · rw [State.recordSource_stands hlast h]
    exact PortState.recordsSource_stands h
  · rw [State.recordSource_submits hlast h]
    by_cases hb : s.bind = none
    · rw [State.submit_source_applies hb]
      exact PortState.recordsSource_sourceApplied s.settings h hb
    · rw [State.submit_source_waits hb]
      exact PortState.recordsSource_sourceWaits h hb

/-! ### The WITHDRAW a firing hands (R128, R129) -/

/-- The firing's WITHDRAW, if any, joins those that wait behind them. -/
theorem State.takeFiring_eq (s : State) (p : Port) (f : Firing) :
    s.takeFiring p f = (s.recordSource p f).modPort p fun ps =>
      { ps with withdraws := ps.withdraws ++ ((s.port p).withdrawCause f).toList } := by
  unfold State.takeFiring
  split
  · next h =>
    simp only [h, Option.toList_none, List.append_nil]
    exact (State.setPort_port _ p).symm
  · next x h => simp only [h, Option.toList_some]

theorem sourceIn_but_downshift_iff {mask : BitVec 5} {x : GuardSource} :
    (sourceIn x mask && decide (x ≠ .downshift)) = true ↔ mask.getLsbD x.bit = true ∧ x ≠ .downshift := by
  rw [Bool.and_eq_true, decide_eq_true_iff, sourceIn]

/-- The cause is the first source in the mask other than DOWNSHIFT. -/
theorem PortState.withdrawCause_eq_some {ps : PortState} {before after : List GuardSource} {x : GuardSource}
    (hsources : f.sources = before ++ x :: after)
    (hbefore : ∀ y ∈ before, ¬ (ps.record.guardMask.getLsbD y.bit = true ∧ y ≠ .downshift))
    (hx : ps.record.guardMask.getLsbD x.bit = true ∧ x ≠ .downshift)
    (harmed : ps.tc.f.armed = true) (hmode : ps.tc.f.mode ≠ .parked) : ps.withdrawCause f = some x := by
  rw [PortState.withdrawCause, if_pos (by simp [harmed, hmode]), List.find?_eq_some_iff_append]
  refine ⟨sourceIn_but_downshift_iff.2 hx, before, after, hsources, fun y hy => ?_⟩
  rw [Bool.not_eq_true', ← Bool.not_eq_true, sourceIn_but_downshift_iff]
  exact hbefore y hy

theorem PortState.withdrawCause_eq_none {ps : PortState}
    (h : (∀ y ∈ f.sources, ¬ (ps.record.guardMask.getLsbD y.bit = true ∧ y ≠ .downshift))
      ∨ ps.tc.f.armed = false ∨ ps.tc.f.mode = .parked) : ps.withdrawCause f = none := by
  unfold PortState.withdrawCause
  rcases h with hsources | harmed | hmode
  · rw [List.find?_eq_none.2 fun y hy => sourceIn_but_downshift_iff.not.2 (hsources y hy), ite_self]
  · rw [if_neg (by simp [harmed])]
  · rw [if_neg (by simp [hmode])]

/-! ### GUARD_FIRING -/

theorem exec_guardFiring {rest : List Firing} (hf : (s.port p).firings = f :: rest) :
    exec (.guardFiring p) s = .next ((s.modPort p fun ps => { ps with firings := rest }).takeFiring p f) := by
  change Host.Outcome.next (guardFiringAt p s) = _
  simp only [guardFiringAt, hf]

/-- A taken firing leaves its last source recorded and its WITHDRAW handed. -/
theorem State.takeFiring_leaves (hlast : f.sources.getLast? = some last) :
    OnlyPort p s (s.takeFiring p f) ∧
      ∃ b : PortState, (s.port p).RecordsSource last s.bind b ∧ (s.takeFiring p f).port p =
        { b with withdraws := (s.port p).withdraws ++ ((s.port p).withdrawCause f).toList } := by
  have hrecords : (s.port p).RecordsSource last s.bind ((s.recordSource p f).port p) :=
    State.recordSource_records hlast
  have hwithdraws : ((s.recordSource p f).port p).withdraws = (s.port p).withdraws := by
    obtain ⟨hrest, -⟩ := hrecords
    rw [hrest]
  rw [State.takeFiring_eq]
  refine ⟨(State.recordSource_onlyPort s p f).trans (.modPort _ p _), _, hrecords, ?_⟩
  rw [State.port_modPort_self, hwithdraws]

end

/-- Settles O37: the source is recorded in the one way whatever the firing hands, and what it hands is the first
selected source of an armed port that is not PARKED. -/
theorem guardFiringRecordsAndWithdraws : Obligations.GuardFiringRecordsAndWithdraws := by
  intro p f rest last s hf hlast a selects leaves
  have leaves_of {cause : Option GuardSource} (hcause : a.withdrawCause f = cause) : leaves cause.toList := by
    subst hcause
    refine ⟨_, exec_guardFiring hf, ?_⟩
    obtain ⟨honly, b, hrecords, hport⟩ :=
      State.takeFiring_leaves (s := s.modPort p fun ps => { ps with firings := rest }) (p := p) hlast
    rw [State.port_modPort_self] at hrecords hport
    obtain ⟨hrest, hpublished⟩ := hrecords
    refine ⟨(OnlyPort.modPort s p _).trans honly, ?_⟩
    rw [hport]
    refine ⟨?_, hpublished⟩
    rw [hrest]
    rfl
  refine ⟨fun before x after hsources hbefore hx harmed hmode => ?_, fun h => ?_⟩
  · exact leaves_of (PortState.withdrawCause_eq_some hsources hbefore hx harmed hmode)
  · exact leaves_of (PortState.withdrawCause_eq_none h)

end Sys2Proof.Machine

end

section

namespace Sys2Proof.Machine

-- One theorem at a time, on the main thread: the theorems before these wait in great number for the kernel, and one
-- thread more asks for more memory than the limit leaves.
set_option deprecated.oldSectionVars true

/-! ## The record space (R87, R105, R142, R169, R171) -/

section

/-! ### Bytes of the images -/

theorem byte_eq_setWidth {n : Nat} (x : BitVec n) : byte x.toNat = x.setWidth 8 := by
  apply BitVec.eq_of_toNat_eq
  simp [byte]

theorem flag_eq (b : Bool) (w : Nat) : flag b w = w * b.toNat := by
  cases b <;> simp [flag]

theorem pairByte_eq (x : PairAccount) : pairByte x = byte (x.verdict.code + 8 * reasonCode x.reason
    + 32 * x.probed.toNat + 64 * x.more.toNat + 128 * x.truncated.toNat) := by
  simp only [pairByte, flag_eq]

theorem flagsByte_eq (f : TcFields) : flagsByte f = byte (f.armed.toNat + 2 * f.autoSpent.toNat + 4 * f.energy.toNat
    + 8 * f.powerFault.toNat) := by
  simp only [flagsByte, flag_eq, Nat.one_mul]

/-- The return mode reads DARK outside LENT (R2). -/
theorem returnModeShown_mode (f : TcFields) : (returnModeShown f).mode = match f.mode, f.returnMode with
    | .lent, .parked => .parked
    | .lent, .held => .held
    | _, _ => .dark := by
  unfold returnModeShown
  cases f.mode <;> cases f.returnMode <;> rfl

/-- What one pair adds to the polarity byte: present, and inverted four bits above. -/
def polarityBits (v : PerPair (Option Bool)) (q : Pair) : Nat :=
  match v.get q with
  | none => 0
  | some inverted => 2 ^ q.index + 16 * 2 ^ q.index * inverted.toNat

theorem polarityByte_eq (v : PerPair (Option Bool)) :
    polarityByte v = byte (polarityBits v .a + polarityBits v .b + polarityBits v .c + polarityBits v .d) := by
  have bits (q : Pair) :
      flag (v.get q).isSome (2 ^ q.index) + flag ((v.get q).getD false) (2 ^ (q.index + 4)) = polarityBits v q := by
    unfold polarityBits
    rw [flag_eq, flag_eq, Nat.pow_add]
    cases v.get q with
    | none => simp
    | some inverted => simp [Nat.mul_comm]
  simp only [polarityByte, bits, Pair.all, List.map_cons, List.map_nil, List.sum_cons, List.sum_nil, Nat.add_zero,
    Nat.add_assoc]

/-- A set of pairs as the sum of its members' weights. -/
theorem PairSet.toNat_eq (x : PairSet) :
    x.toNat = flag (pairIn .a x) 1 + flag (pairIn .b x) 2 + flag (pairIn .c x) 4 + flag (pairIn .d x) 8 := by
  revert x
  decide

theorem pairIn_completedSet (l : List PairResult) (q : Pair) :
    pairIn q (completedSet l) = l.any fun y => decide (y.pair = q) := by
  rw [← Bool.coe_iff_coe, pairIn, completedSet_mem]
  simp

/-! ### The images -/

variable {s : State}

theorem State.image_record (s : State) (p : Port) : s.image p.val = recordImage (s.port p).record := by
  simp only [State.image, portOf?_val]

theorem State.engines_toList (s : State) : s.engines.toList = [s.engine 0, s.engine 1, s.engine 2, s.engine 3] := by
  refine List.ext_getElem (by simp) fun i hi _ => ?_
  have hi : i < 4 := by simpa using hi
  interval_cases i <;> rfl

/-- A record's image with every field written out (R171). -/
theorem recordImage_eq (r : LineRecord) : recordImage r =
    [byte r.tc.mode.code, byte (returnModeShown r.tc).mode.code, r.offer.setWidth 8, r.rights.setWidth 8,
      r.guardMask.setWidth 8, r.effectiveOffer.setWidth 8, r.tc.struck.setWidth 8, rateByte r.ceiling,
      partnerByte r.tc.partner, rateByte r.tc.resolved, byte r.tc.attempts, flagsByte r.tc,
      byte (heldCauseCode r.tc.heldCause), byte (sourceCode r.lastSource), r.tc.powered.setWidth 8,
      byte r.sched.status.code, outcomeByte r.sched.outcome, pairByte r.pairs.a, pairByte r.pairs.b, pairByte r.pairs.c,
      pairByte r.pairs.d]
    ++ distanceBytes r.pairs.a.faultDistance ++ distanceBytes r.pairs.b.faultDistance
    ++ distanceBytes r.pairs.c.faultDistance ++ distanceBytes r.pairs.d.faultDistance
    ++ [skewByte r.tc.skew.a, skewByte r.tc.skew.b, skewByte r.tc.skew.c, skewByte r.tc.skew.d,
      polarityByte r.tc.polarity, byte r.tc.swap.code, byte r.findings.length, byte (r.generation.toNat % 256),
      byte (r.generation.toNat / 256), 0x00#8, 0x00#8]
    ++ (List.range 16).flatMap fun k => slotBytes r.findings[k]? := by
  simp only [recordImage, recordFields, PerPair.toList, List.map_cons, List.map_nil, List.flatMap_cons,
    List.flatMap_nil, List.append_nil, List.append_assoc, List.cons_append, List.nil_append, twoBytes, byte_eq_setWidth]
  rfl

theorem State.image_settings (s : State) : s.image 48 =
    [byte (s.settings.probe.window % 256), byte (s.settings.probe.window / 256), byte s.settings.probe.blanking,
      byte s.settings.probe.threshold, byte (s.settings.tries + 16 * s.settings.probe.confirm),
      byte s.settings.probe.velocity, byte s.settings.tolerance, byte s.settings.marginal, byte s.settings.skewLimit,
      byte (s.settings.listen % 256), byte (s.settings.listen / 256), byte s.settings.lowWater,
      byte (1 + 2 * s.settings.alertChg.toNat + 4 * s.settings.alertLow.toNat), byte s.queue.length,
      byte (poolFree s % 256), byte (poolFree s / 256)] := by
  rw [← flag_eq, ← flag_eq]
  rfl

theorem templateBytes_eq (x : Template) : templateBytes x =
    [byte x.valid.toNat, x.pairs.setWidth 8, byte x.firstPort, byte x.lastPort, byte (x.low % 256), byte (x.low / 256),
      byte (x.high % 256), byte (x.high / 256)] := by
  rw [templateBytes, flag_eq, Nat.one_mul, byte_eq_setWidth]
  rfl

/-- The byte of the pairs a suspended run has completed. -/
theorem completedByte_eq (l : List PairResult) : byte (completedSet l).toNat =
    byte (flag (l.any fun y => decide (y.pair = .a)) 1 + flag (l.any fun y => decide (y.pair = .b)) 2
      + flag (l.any fun y => decide (y.pair = .c)) 4 + flag (l.any fun y => decide (y.pair = .d)) 8) := by
  rw [PairSet.toNat_eq, pairIn_completedSet, pairIn_completedSet, pairIn_completedSet, pairIn_completedSet]

theorem State.image_schedulerView (s : State) : s.image 50 =
    (List.range 16).flatMap (fun k => queueSlotBytes s.queue[k]?)
      ++ (engineBytes (s.engine 0) ++ engineBytes (s.engine 1) ++ engineBytes (s.engine 2)
        ++ engineBytes (s.engine 3)) := by
  change schedulerImage s = _
  rw [schedulerImage, State.engines_toList]
  simp only [List.flatMap_cons, List.flatMap_nil, List.append_nil, List.append_assoc]
  rfl

end

/-! ## DATA-READ (R137, R142, R145) -/

section

theorem lastOffset?_of_le {m : Nat} (h : m ≤ 50) :
    lastOffset? m = some (if m < 48 then 135 else if m = 48 then 15 else if m = 49 then 63 else 95) := by
  have hm : m < 48 ∨ m = 48 ∨ m = 49 ∨ m = 50 := by omega
  rcases hm with hm | rfl | rfl | rfl
  · simp only [lastOffset?, if_pos hm]
  all_goals rfl

theorem lastOffset?_none {m : Nat} (h : 51 ≤ m) : lastOffset? m = none := by
  unfold lastOffset?
  rw [if_neg (by omega), if_neg (by omega), if_neg (by omega), if_neg (by omega)]

theorem Cursor.inRange_iff_table {m k : Nat} : ({ port := m, offset := k } : Cursor).inRange = true ↔
    (m ≤ 47 ∧ k ≤ 135) ∨ (m = 48 ∧ k ≤ 15) ∨ (m = 49 ∧ k ≤ 63) ∨ (m = 50 ∧ k ≤ 95) := by
  rw [Cursor.inRange_iff]
  dsimp only
  by_cases hm : m ≤ 50
  · rw [lastOffset?_of_le hm]
    simp only [Option.some.injEq, exists_eq_left']
    split_ifs <;> omega
  · rw [lastOffset?_none (by omega)]
    simp only [reduceCtorEq, false_and, exists_false, false_iff]
    omega

/-- The low bytes of the two-byte fields of a cursor port (R171). -/
def lowOffsets (port : Nat) : List Nat :=
  if port < 48 then
    [21, 23, 25, 27, 36, 42, 48, 54, 60, 66, 72, 78, 84, 90, 96, 102, 108, 114, 120, 126, 132]
  else if port = 48 then [0, 9, 14]
  else if port = 49 then [4, 6, 12, 14, 20, 22, 28, 30, 36, 38, 44, 46, 52, 54, 60, 62]
  else []

theorem isLowByte_iff {port offset : Nat} (h : ({ port := port, offset := offset } : Cursor).inRange = true) :
    isLowByte port offset = true ↔ offset ∈ lowOffsets port := by
  rw [Cursor.inRange_iff_table] at h
  rcases h with ⟨hp, ho⟩ | ⟨rfl, ho⟩ | ⟨rfl, ho⟩ | ⟨rfl, ho⟩
  · simp only [isLowByte, lowOffsets, if_pos (show port < 48 by omega)]
    revert offset
    decide
  · revert offset
    decide
  · revert offset
    decide
  · simp [isLowByte, lowOffsets]

theorem lowOffsets_apart {port n : Nat} (h : n ∈ lowOffsets port) : n + 1 ∉ lowOffsets port := by
  unfold lowOffsets at h ⊢
  split_ifs at h ⊢
  all_goals
    revert n
    decide

variable {s : State} {t : Transfer}

theorem State.cursor_isLow_iff (h : s.cursor.inRange = true) :
    isLowByte s.cursor.port s.cursor.offset = true ↔ s.cursor.offset ∈ lowOffsets s.cursor.port :=
  isLowByte_iff h

theorem State.cursor_isHigh_iff (h : s.cursor.inRange = true) : isHighByte s.cursor.port s.cursor.offset = true ↔
    ∃ n, n ∈ lowOffsets s.cursor.port ∧ s.cursor.offset = n + 1 := by
  obtain ⟨last, hlast, hoffset⟩ := Cursor.inRange_iff.1 h
  have hbelow := isLowByte_iff (port := s.cursor.port) (offset := s.cursor.offset - 1)
    (Cursor.inRange_iff.2 ⟨last, hlast, (Nat.sub_le _ 1).trans hoffset⟩)
  rw [isHighByte, Bool.and_eq_true, decide_eq_true_iff, hbelow]
  refine ⟨fun ⟨h0, hn⟩ => ⟨_, hn, by omega⟩, ?_⟩
  rintro ⟨n, hn, ho⟩
  rw [ho]
  exact ⟨Nat.succ_pos n, hn⟩

/-- What a byte read at a low byte gives and holds (R145). -/
theorem State.read_low (hr : s.cursor.inRange = true) (h : s.cursor.offset ∈ lowOffsets s.cursor.port) :
    s.readValue = s.byteAt s.cursor
      ∧ s.readHoldAfter = s.byteAt { port := s.cursor.port, offset := s.cursor.offset + 1 } := by
  have hhigh : ¬ isHighByte s.cursor.port s.cursor.offset = true := by
    rw [State.cursor_isHigh_iff hr]
    rintro ⟨n, hn, ho⟩
    exact lowOffsets_apart hn (ho ▸ h)
  exact ⟨if_neg hhigh, if_pos ((State.cursor_isLow_iff hr).2 h)⟩

theorem State.read_high (hr : s.cursor.inRange = true) {n : Nat} (hn : n ∈ lowOffsets s.cursor.port)
    (ho : s.cursor.offset = n + 1) : s.readValue = s.readHold ∧ s.readHoldAfter = s.readHold := by
  refine ⟨if_pos ((State.cursor_isHigh_iff hr).2 ⟨n, hn, ho⟩), if_neg ?_⟩
  rw [State.cursor_isLow_iff hr, ho]
  exact lowOffsets_apart hn

theorem State.read_single (hr : s.cursor.inRange = true) (hlow : s.cursor.offset ∉ lowOffsets s.cursor.port)
    (hhigh : ∀ n, n ∈ lowOffsets s.cursor.port → s.cursor.offset ≠ n + 1) :
    s.readValue = s.byteAt s.cursor ∧ s.readHoldAfter = s.readHold := by
  refine ⟨if_neg ?_, if_neg ((State.cursor_isLow_iff hr).not.2 hlow)⟩
  rw [State.cursor_isHigh_iff hr]
  rintro ⟨n, hn, ho⟩
  exact hhigh n hn ho

/-- A byte of a DATA-READ that was taken. -/
def State.Reads (s : State) (t : Transfer) : Prop := s.transfer = some t ∧ t.write = false ∧ t.judgment = .taken

/-- The byte under way has been clocked. -/
theorem State.Reads.takes (h : s.Reads t) {v hold : Byte} (hv : s.readUnderWay t = (v, hold)) :
    exec (.dataRead .byte) s = .next ({ s with
      sdo := s.sdo ++ [v], readHold := hold, cursor := s.cursor.walked s.walk
      transfer := some { t with fetched := none } } : State).countAccess := by
  have hbyte : dataReadByte s = (takeReadByte t s).countAccess := by
    obtain ⟨htransfer, hread, htaken⟩ := h
    simp [dataReadByte, htransfer, hread, readByteAs, htaken]
  change Host.Outcome.next (dataReadByte s) = _
  rw [hbyte, takeReadByte, hv]
  rfl

/-- A byte begins: it is fetched. -/
theorem State.Reads.fetches (h : s.Reads t) {v hold : Byte} (hv : s.readUnderWay t = (v, hold)) :
    exec (.dataRead .fetch) s = .next { s with transfer := some { t with fetched := some (v, hold) } } := by
  have hfetch : fetchReadByte s = { s with transfer := some { t with fetched := some (v, hold) } } := by
    obtain ⟨htransfer, hread, htaken⟩ := h
    simp [fetchReadByte, htransfer, hread, htaken, hv]
  exact congrArg Host.Outcome.next hfetch

/-- A second fetch is no event. -/
theorem State.Reads.fetches_again (h : s.Reads t) {x : Byte × Byte} (hx : t.fetched = some x) :
    exec (.dataRead .fetch) s = .next s := by
  rw [h.fetches (v := x.1) (hold := x.2) (by rw [State.readUnderWay, hx]; rfl), ← hx, ← And.left h]

theorem State.readUnderWay_unfetched (h : t.fetched = none) {v hold : Byte}
    (hv : s.readValue = v ∧ s.readHoldAfter = hold) : s.readUnderWay t = (v, hold) := by
  rw [State.readUnderWay, h, hv.1, hv.2]
  rfl

end

/-- Settles O34: the byte under way by the kind of offset, the images byte by byte, and the codes. -/
theorem dataReadReturnsTheByteAtTheCursor : Obligations.DataReadReturnsTheByteAtTheCursor := by
  refine ⟨fun s tr ht hw hj => ?_, fun s p => ?_, fun s => ?_, ⟨?_, fun p => ?_⟩, ?_⟩
  · have h : s.Reads tr := ⟨ht, hw, hj⟩
    intro c here above takes reads lowOffsets
    have reads_of (hf : tr.fetched = none) {v hold : Byte} (hv : s.readValue = v ∧ s.readHoldAfter = hold) :
        reads v hold :=
      have hunder := State.readUnderWay_unfetched hf hv
      ⟨h.takes hunder, h.fetches hunder⟩
    refine ⟨fun v hold hf => ⟨h.takes (by rw [State.readUnderWay, hf]; rfl), h.fetches_again hf⟩, fun hf hr => ?_⟩
    exact ⟨fun hlow => reads_of hf (State.read_low hr hlow), fun n hn ho => reads_of hf (State.read_high hr hn ho),
      fun hlow hhigh => reads_of hf (State.read_single hr hlow hhigh)⟩
  · intro r code rate pair distance skew polarity partner outcome returns slot
    rw [State.image_record, recordImage_eq, returnModeShown_mode, flagsByte_eq, polarityByte_eq, pairByte_eq,
      pairByte_eq, pairByte_eq, pairByte_eq]
    rfl
  · intro code x free finished queued engine
    have hqueued (k : Nat) : queueSlotBytes s.queue[k]? = queued k := by
      simp only [queued]
      cases s.queue[k]? with
      | none => rfl
      | some y =>
        obtain ⟨port, cls, pairs, suspended⟩ := y
        rw [queueSlotBytes, flag_eq, Nat.one_mul, byte_eq_setWidth]
        cases suspended with
        | none => rfl
        | some ctx =>
          dsimp only
          rw [completedByte_eq]
          rfl
    refine ⟨s.image_settings, ?_, ?_⟩
    · change s.templates.toList.flatMap templateBytes = _
      rw [funext templateBytes_eq]
      rfl
    · rw [State.image_schedulerView]
      simp only [hqueued]
      rfl
  · rw [State.image_settings, poolFree_reset]
    rfl
  · rw [State.image_record, State.reset_port]
    rfl
  · refine ⟨rfl, rfl, rfl, rfl, rfl, fun q t => ⟨rfl, rfl⟩, rfl, rfl, rfl, rfl, rfl, rfl, rfl, rfl, rfl⟩

end Sys2Proof.Machine

end

section

namespace Sys2Proof.Machine

-- One theorem at a time, as above.
set_option deprecated.oldSectionVars true

/-! ## DATA-WRITE (R137, R143, R144, R157, R158) -/

/-- What a written byte `b` of transaction `t` makes of the part, by what becomes of it. -/
def WriteEffect.make (s : State) (t : Transfer) (b : Byte) : WriteEffect → State
  | .readOnly => s.raiseOnce t .readOnly (portOf? s.cursor.port)
  | .badValue => s.raiseOnce t .badValue (portOf? s.cursor.port)
  | .hold => { s with writeHold := b }
  | .settings x => { s with settings := x }
  | .template i x => { s with templates := s.templates.set i x }
  | .offer p v => s.commit p { (s.port p).record with offer := v }
  | .rights p v => s.commit p { (s.port p).record with rights := v }
  | .guardMask p v => s.commit p { (s.port p).record with guardMask := v }

section

variable {s w : State} {t : Transfer} {v : Byte} {x : WriteEffect}

theorem writeByteEffect_eq (s : State) (t : Transfer) (b : Byte) :
    writeByteEffect t b s = (s.writeEffect b).make s t b := by
  unfold writeByteEffect
  split <;> next h => rw [h]; rfl

/-- What becomes of a byte leaves the cursor and the walk mode. -/
theorem WriteEffect.make_cursor (s : State) (t : Transfer) (b : Byte) (x : WriteEffect) :
    (x.make s t b).cursor = s.cursor ∧ (x.make s t b).walk = s.walk := by
  have raise (c : Cause) (p : Option Port) :
      (s.raiseOnce t c p).cursor = s.cursor ∧ (s.raiseOnce t c p).walk = s.walk := by
    unfold State.raiseOnce
    split <;> exact ⟨rfl, rfl⟩
  have commit (p : Port) (r : LineRecord) : (s.commit p r).cursor = s.cursor ∧ (s.commit p r).walk = s.walk := by
    rw [State.commit_eq]
    exact ⟨rfl, rfl⟩
  cases x with
  | readOnly => exact raise _ _
  | badValue => exact raise _ _
  | hold | settings | template => exact ⟨rfl, rfl⟩
  | offer | rights | guardMask => exact commit _ _

/-- A DATA-WRITE byte leaves the part as `w`, the cursor walked and the access counted. -/
def State.WriteLeaves (s : State) (v : Byte) (w : State) : Prop :=
  exec (.dataWrite (.byte v)) s = .next ({ w with cursor := s.cursor.walked s.walk } : State).countAccess

/-- A byte of a DATA-WRITE that was taken. -/
def State.Writes (s : State) (t : Transfer) : Prop := s.transfer = some t ∧ t.write = true ∧ t.judgment = .taken

theorem State.Writes.leaves (h : s.Writes t) (hx : s.writeEffect v = x) : s.WriteLeaves v (x.make s t v) := by
  have hbyte : dataWriteByte v s = (writeByteEffect t v s).walkCursor.countAccess := by
    obtain ⟨htransfer, hwrite, htaken⟩ := h
    simp [dataWriteByte, htransfer, hwrite, writeByteAs, htaken]
  obtain ⟨hcursor, hwalk⟩ := x.make_cursor s t v
  change Host.Outcome.next (dataWriteByte v s) = _
  rw [hbyte, writeByteEffect_eq, hx, State.walkCursor, hcursor, hwalk]

/-- A value checked against a range is applied within it and refused outside it. -/
theorem State.Writes.judged (h : s.Writes t) {low high n : Nat} (hx : s.writeEffect v = ifInRange low high n x) :
    (low ≤ n → n ≤ high → s.WriteLeaves v (x.make s t v))
      ∧ (n < low ∨ high < n → s.WriteLeaves v (WriteEffect.badValue.make s t v)) := by
  refine ⟨fun h1 h2 => h.leaves (hx.trans (if_pos ⟨h1, h2⟩)), fun hn => h.leaves (hx.trans (if_neg ?_))⟩
  omega

/-! ### The field at the cursor -/

theorem State.writeEffect_record {p : Port} (h : s.cursor.port = p.val) :
    s.writeEffect v = writeRecord p s.cursor.offset v := by
  simp only [State.writeEffect, portOf?_eq_of_val h]

theorem State.writeEffect_setting (h : s.cursor.port = 48) :
    s.writeEffect v = writeSetting s.settings s.writeHold s.cursor.offset v := by
  simp only [State.writeEffect, portOf?_none h.ge, if_pos h]

theorem templateAt_add (k : TemplateId) {field : Nat} (h : field ≤ 7) : templateAt (8 * k.val + field) = k :=
  Fin.ext (by simp only [templateAt]; omega)

theorem State.writeEffect_template {k : TemplateId} {field : Nat} (h : s.cursor.port = 49)
    (ho : s.cursor.offset = 8 * k.val + field) (hf : field ≤ 7) :
    s.writeEffect v = writeTemplate k s.templates[k] s.writeHold field v := by
  have hfield : (8 * k.val + field) % 8 = field := by omega
  simp only [State.writeEffect, h, ho, templateAt_add k hf, hfield]
  rfl

theorem State.writeEffect_schedulerView (h : s.cursor.port = 50) : s.writeEffect v = .readOnly := by
  simp only [State.writeEffect, h]
  rfl

theorem writeRecord_readOnly (p : Port) {offset : Nat} (h2 : offset ≠ 2) (h3 : offset ≠ 3) (h4 : offset ≠ 4)
    (v : Byte) :
    writeRecord p offset v = .readOnly := by
  unfold writeRecord
  split
  case h_4 => rfl
  all_goals contradiction

theorem writeSetting_readOnly (set : Settings) (hold : Byte) {offset : Nat} (h : 13 ≤ offset) (v : Byte) :
    writeSetting set hold offset v = .readOnly := by
  unfold writeSetting
  split
  case h_14 => rfl
  all_goals omega

/-! ### The bytes that are not one number (R157, R171) -/

theorem getLsbD_zero_iff (v : Byte) : v.getLsbD 0 = true ↔ v.toNat % 2 = 1 := by
  simp [BitVec.getLsbD, Nat.testBit_eq_decide_div_mod_eq]

theorem getLsbD_three_iff (v : Byte) : v.getLsbD 3 = false ↔ v.toNat % 16 ≤ 7 := by
  simp only [BitVec.getLsbD, Nat.testBit_eq_decide_div_mod_eq, decide_eq_false_iff_not]
  omega

theorem writeSetting_triesConfirm (set : Settings) (hold v : Byte) : writeSetting set hold 4 v =
    if 1 ≤ v.toNat % 16 ∧ v.toNat % 16 ≤ 7 ∧ 1 ≤ v.toNat / 16 ∧ v.toNat / 16 ≤ 4 then
      .settings { set with tries := v.toNat % 16, probe := { set.probe with confirm := v.toNat / 16 } }
    else .badValue := by
  simp only [writeSetting, getLsbD_three_iff]
  by_cases h : v.toNat % 16 ≤ 7
  · rw [show v.toNat % 8 = v.toNat % 16 by omega]
  · rw [if_neg (by omega), if_neg (by omega)]

theorem writeSetting_alertMask (set : Settings) (hold v : Byte) : writeSetting set hold 12 v =
    if v ∈ [0x01#8, 0x03#8, 0x05#8, 0x07#8] then
      .settings { set with alertChg := v.getLsbD 1, alertLow := v.getLsbD 2 }
    else .badValue := by
  have hmask : (v.getLsbD 0 = true ∧ v.toNat < 8) ↔ v ∈ [0x01#8, 0x03#8, 0x05#8, 0x07#8] := by
    simp only [getLsbD_zero_iff, List.mem_cons, List.not_mem_nil, or_false, ← BitVec.toNat_inj]
    simp only [BitVec.toNat_ofNat]
    omega
  simp only [writeSetting, hmask]

end

/-- Settles O35: the field at the cursor fixes what becomes of the byte, and each range whether it is applied. -/
theorem dataWriteAppliesOneByteOrIsRefused : Obligations.DataWriteAppliesOneByteOrIsRefused := by
  refine ⟨fun v s tr ht hw hj => ?_, fun v s tr ht hw hj => ?_⟩
  · have h : s.Writes tr := ⟨ht, hw, hj⟩
    intro leaves refusal
    refine ⟨fun p hp => ?_, fun hp => ?_⟩
    · have effect := s.writeEffect_record (v := v) hp
      have refused (c : Cause) : s.raiseOnce tr c (portOf? s.cursor.port) = refusal c (some p) := by
        rw [portOf?_eq_of_val hp]
        rfl
      intro r
      refine ⟨fun ho hv => ?_, fun ho hv => ?_, fun ho hv => ?_, fun ho hv => ?_, fun ho hv => ?_, fun h2 h3 h4 => ?_⟩
      · rw [ho] at effect
        exact (h.judged effect).1 (Nat.zero_le _) hv
      · rw [ho] at effect
        exact (h.judged effect).1 (Nat.zero_le _) hv
      · rw [ho] at effect
        exact (h.judged effect).1 (Nat.zero_le _) hv
      · rw [← refused]
        rcases ho with ho | ho <;> rw [ho] at effect
        · exact (h.judged effect).2 (.inr hv)
        · exact (h.judged effect).2 (.inr hv)
      · rw [← refused]
        rw [ho] at effect
        exact (h.judged effect).2 (.inr hv)
      · rw [← refused]
        exact h.leaves (effect.trans (writeRecord_readOnly p h2 h3 h4 v))
    · have refused : s.raiseOnce tr .readOnly (portOf? s.cursor.port) = refusal .readOnly none := by
        rw [portOf?_none (by omega)]
        rfl
      rw [← refused]
      exact h.leaves (s.writeEffect_schedulerView hp)
  · have h : s.Writes tr := ⟨ht, hw, hj⟩
    intro leaves refusal two judged x setting probe
    have refused (hp : 48 ≤ s.cursor.port) (c : Cause) : s.raiseOnce tr c (portOf? s.cursor.port) = refusal c := by
      rw [portOf?_none hp]
      rfl
    have inRange (hp : 48 ≤ s.cursor.port) {low high n : Nat} {x : WriteEffect}
        (hx : s.writeEffect v = ifInRange low high n x) : judged n low high (x.make s tr v) := by
      have hjudged := h.judged hx
      rw [WriteEffect.make, refused hp] at hjudged
      exact hjudged
    refine ⟨fun hp => ?_, fun k field hp ho hf => ?_⟩
    · have effect := s.writeEffect_setting (v := v) hp
      have at_offset {n : Nat} {x : WriteEffect} (ho : s.cursor.offset = n)
          (hx : writeSetting s.settings s.writeHold n v = x) : s.writeEffect v = x := by
        rw [effect, ho, hx]
      refine ⟨?_, fun ho => inRange hp.ge (at_offset ho rfl), fun ho => inRange hp.ge (at_offset ho rfl),
        fun ho => inRange hp.ge (at_offset ho rfl), fun ho => ?_, fun ho => inRange hp.ge (at_offset ho rfl),
        fun ho => inRange hp.ge (at_offset ho rfl), fun ho => inRange hp.ge (at_offset ho rfl),
        fun ho => inRange hp.ge (at_offset ho rfl), fun ho => inRange hp.ge (at_offset ho rfl),
        fun ho => h.leaves (at_offset ho rfl), fun ho => ?_, fun ho => ?_⟩
      · rintro (ho | ho)
        · exact h.leaves (at_offset ho rfl)
        · exact h.leaves (at_offset ho rfl)
      · intro fits
        have hx := at_offset ho (writeSetting_triesConfirm _ _ v)
        refine ⟨fun hfits => h.leaves (hx.trans (if_pos hfits)), fun hfits => ?_⟩
        rw [← refused hp.ge]
        exact h.leaves (hx.trans (if_neg hfits))
      · have hx := at_offset ho (writeSetting_alertMask _ _ v)
        refine ⟨fun hv => h.leaves (hx.trans (if_pos hv)), fun hv => ?_⟩
        rw [← refused hp.ge]
        exact h.leaves (hx.trans (if_neg hv))
      · rw [← refused hp.ge]
        exact h.leaves (effect.trans (writeSetting_readOnly _ _ ho v))
    · have hport : 48 ≤ s.cursor.port := by omega
      have effect := s.writeEffect_template (v := v) hp ho hf
      intro y template
      have at_field {n : Nat} {x : WriteEffect} (hn : field = n)
          (hx : writeTemplate k y s.writeHold n v = x) : s.writeEffect v = x := by
        rw [effect, hn, hx]
      refine ⟨fun hn => inRange hport (at_field hn rfl), fun hn => inRange hport (at_field hn rfl),
        fun hn => inRange hport (at_field hn rfl), fun hn => inRange hport (at_field hn rfl), ?_,
        fun hn => inRange hport (at_field hn rfl), fun hn => inRange hport (at_field hn rfl)⟩
      rintro (hn | hn)
      · exact h.leaves (at_field hn rfl)
      · exact h.leaves (at_field hn rfl)

end Sys2Proof.Machine

end

section

namespace Sys2Proof.Machine

-- One theorem at a time, as above.
set_option deprecated.oldSectionVars true

/-! ## The invariants at reset (R22, R65, R86, R159) -/

theorem State.reset_settingsOk : State.reset.settingsOk := by
  refine ⟨?_, fun i => ?_⟩
  · simp [Settings.inRange, State.reset, Settings.default]
  · rw [State.reset_template]
    simp [Template.inRange, Template.reset]

theorem PortMachine.reset_consistent : PortMachine.reset.consistent := by
  simp [PortMachine.consistent, PortMachine.reset, TcFields.reset]

theorem PortState.reset_nothingWaits : PortState.reset.nothingWaits := ⟨rfl, rfl, rfl, rfl⟩

theorem PortState.reset_published : PortState.reset.published :=
  ⟨fun f _ => TcField.differs_self _ f, fun _ => rfl, fun _ => rfl, fun _ => rfl⟩

theorem State.reset_machinesOk : State.reset.machinesOk := by
  refine ⟨State.reset_settingsOk, fun p => ?_⟩
  rw [State.reset_port]
  exact PortMachine.reset_consistent

theorem State.reset_recordsDerived : State.reset.recordsDerived := by
  intro p
  rw [State.reset_port]
  exact LineRecord.reset_derived .reset .reset 0 rfl

theorem State.reset_serialOk : State.reset.serialOk :=
  State.serialOk.of_reset rfl rfl rfl rfl rfl searchInPorts_none

theorem State.reset_recordsPublished : State.reset.recordsPublished := by
  intro p
  rw [State.reset_port]
  exact ⟨fun _ => PortState.reset_nothingWaits, PortState.reset_nothingWaits.jointHasBothParts,
    fun _ => PortState.reset_published⟩

theorem State.reset_schedulerOk : State.reset.schedulerOk :=
  State.schedulerOk_of_reset rfl rfl rfl rfl fun _ _ h => nomatch h

/-- Settles O53: each invariant of the reset values. -/
theorem invariantsHoldAtReset : Obligations.InvariantsHoldAtReset :=
  ⟨State.reset_machinesOk, State.reset_recordsDerived, State.reset_serialOk.management, State.reset_serialOk.errors,
    State.reset_serialOk.transmit, State.reset_recordsPublished, State.reset_schedulerOk,
    State.powerOk_iff.2 (.of_reset rfl), State.findingsOk_iff.2 (.of_reset rfl rfl rfl)⟩

end Sys2Proof.Machine

end

section

namespace Sys2Proof.Machine

/-! ## The Management Port's own commands (R140, R141, R146, R149, R151, R154) -/

section

variable {s : State}

/-- A command with its operands that the part takes is carried out. -/
theorem exec_taken {c : Instr} {bytes : List Byte} {hc : HostCommand} (h : s.takesHost)
    (hbytes : commandBytes c = some bytes) (hd : decodeCommand s.page bytes = .taken hc) :
    exec c s = .next (performCommand hc { s with transfer := none }) := by
  rw [exec_command hbytes, commandWrite_taken h, hd]
  rfl

variable {a b k v n p start : Byte}

theorem exec_setCursor (h : s.takesHost) (extra : List Byte) :
    exec (.setCursor (a :: b :: extra)) s = .next (setCursorCommand a b { s with transfer := none }).countAccess :=
  exec_taken (hc := .setCursor a b) h rfl rfl

theorem exec_setWalk (h : s.takesHost) (extra : List Byte) :
    exec (.setWalk (a :: extra)) s = .next (setWalkCommand a { s with transfer := none }).countAccess :=
  exec_taken (hc := .setWalk a) h rfl rfl

theorem exec_setPage (h : s.takesHost) (extra : List Byte) :
    exec (.setPage (a :: extra)) s = .next (setPageCommand a { s with transfer := none }).countAccess :=
  exec_taken (hc := .setPage a) h rfl rfl

theorem exec_bind (h : s.takesHost) (extra : List Byte) :
    exec (.bind (n :: extra)) s = .next (bindCommand n { s with transfer := none }) :=
  exec_taken (hc := .bind n) h rfl rfl

theorem exec_aim (h : s.takesHost) (extra : List Byte) :
    exec (.aim (p :: n :: extra)) s = .next (aimCommand p n { s with transfer := none }) :=
  exec_taken (hc := .aim p n) h rfl rfl

theorem exec_search (h : s.takesHost) (extra : List Byte) :
    exec (.search (k :: v :: start :: extra)) s
      = .next (searchCommand k v start { s with transfer := none }).countAccess :=
  exec_taken (hc := .search k v start) h rfl rfl

/-! ### BIND and AIM (R151, R154) -/

theorem bindLength?_of_range (h1 : 1 ≤ n.toNat) (h2 : n.toNat ≤ 32) : bindLength? n = some n.toNat :=
  if_pos ⟨h1, h2⟩

theorem bindLength?_none (h : n.toNat = 0 ∨ 33 ≤ n.toNat) : bindLength? n = none :=
  if_neg (by omega)

theorem bindCommand_opens {m : Nat} (h : bindLength? n = some m) :
    bindCommand n s = (s.openBind m).withReply replyAccepted := by
  simp only [bindCommand, h]

theorem bindCommand_refused (h : bindLength? n = none) :
    bindCommand n s = (s.refuse .badArg none).countAccess := by
  simp only [bindCommand, h]

theorem aimCommand_opens {last m : Nat} (hp : lastOffset? p.toNat = some last) (hn : bindLength? n = some m) :
    aimCommand p n s = (s.aimAt p.toNat m).withReply replyAccepted := by
  simp only [aimCommand, hp, hn]

theorem aimCommand_refused (h : lastOffset? p.toNat = none ∨ bindLength? n = none) :
    aimCommand p n s = (s.refuse .badArg none).countAccess := by
  unfold aimCommand
  split
  · next hp hn => simp [hp, hn] at h
  · rfl

end

/-- Settles O25, by the two operands' ranges. -/
theorem bindAndAimOpenABind : Obligations.BindAndAimOpenABind := by
  intro p n extra s h
  dsimp only
  rw [exec_bind h, exec_aim h]
  refine ⟨fun h1 h2 => ?_, fun hn => ?_, fun hr => ?_⟩
  · have hn := bindLength?_of_range h1 h2
    refine ⟨?_, fun hp => ?_⟩
    · rw [bindCommand_opens hn]
      rfl
    · rw [aimCommand_opens (lastOffset?_of_le hp) hn]
      rfl
  · rw [bindCommand_refused (bindLength?_none hn)]
  · have hr : lastOffset? p.toNat = none ∨ bindLength? n = none := by
      rcases hr with hn | hn | hp
      · exact .inr (bindLength?_none (.inl hn))
      · exact .inr (bindLength?_none (.inr hn))
      · exact .inl (lastOffset?_none hp)
    rw [aimCommand_refused hr]

/-! ### The cursor, the walk and the page (R140, R141, R146) -/

section

variable {s : State} {a b : Byte}

theorem setCursorCommand_accepted (h : ({ port := a.toNat, offset := b.toNat } : Cursor).inRange = true) :
    setCursorCommand a b s
      = ({ s with cursor := { port := a.toNat, offset := b.toNat } } : State).withReply replyAccepted :=
  if_pos h

theorem setCursorCommand_refused (h : ¬ ({ port := a.toNat, offset := b.toNat } : Cursor).inRange = true) :
    setCursorCommand a b s = s.refuse .badArg none :=
  if_neg h

theorem setWalkCommand_accepted (h : a.toNat ≤ 3) :
    setWalkCommand a s
      = ({ s with walk := { byPort := a.getLsbD 0, down := a.getLsbD 1 } } : State).withReply replyAccepted := by
  have hw : walkOf? a = some { byPort := a.getLsbD 0, down := a.getLsbD 1 } := if_pos (by omega)
  simp only [setWalkCommand, hw]

theorem setWalkCommand_refused (h : 4 ≤ a.toNat) : setWalkCommand a s = s.refuse .badArg none := by
  have hw : walkOf? a = none := if_neg (by omega)
  simp only [setWalkCommand, hw]

theorem pageOf?_of_le (h : a.toNat ≤ 1) : pageOf? a = some (a.getLsbD 0) := by
  have ha : a = 0x00#8 ∨ a = 0x01#8 := by bv_omega
  rcases ha with rfl | rfl <;> rfl

theorem pageOf?_none (h : 2 ≤ a.toNat) : pageOf? a = none := by
  unfold pageOf?
  rw [if_neg (by bv_omega), if_neg (by bv_omega)]

theorem setPageCommand_accepted (h : a.toNat ≤ 1) :
    setPageCommand a s = ({ s with page := a.getLsbD 0 } : State).withReply replyAccepted := by
  simp only [setPageCommand, pageOf?_of_le h]

theorem setPageCommand_refused (h : 2 ≤ a.toNat) : setPageCommand a s = s.refuse .badArg none := by
  simp only [setPageCommand, pageOf?_none h]

/-- The cursor walks over the offsets, or, by PORT steps, over the 48 ports (R141). -/
theorem Cursor.walked_offset {w : Walk} {c : Cursor} (h : w.byPort = false ∨ 48 ≤ c.port) :
    c.walked w = { c with offset := stepWithin w.down ((lastOffset? c.port).getD 0) c.offset } := by
  refine if_neg ?_
  simp only [Bool.and_eq_true, decide_eq_true_eq, not_and, Nat.not_lt]
  rcases h with h | h
  · simp [h]
  · exact fun _ => h

theorem Cursor.walked_port {w : Walk} {c : Cursor} (h : w.byPort = true) (hp : c.port < 48) :
    c.walked w = { c with port := stepWithin w.down 47 c.port } :=
  if_pos (by simp [h, hp])

theorem stepWithin_up {last m : Nat} (h : m ≤ last) : stepWithin false last m = if m = last then 0 else m + 1 := by
  show (if last ≤ m then 0 else m + 1) = _
  split_ifs <;> omega

theorem stepWithin_down (last m : Nat) : stepWithin true last m = if m = 0 then last else m - 1 := rfl

end

/-- Settles O31: the operands by their ranges, the walk by its mode. -/
theorem cursorWalkAndPageCommands : Obligations.CursorWalkAndPageCommands := by
  refine ⟨⟨rfl, rfl⟩, fun a b extra s h => ?_, fun w c hc => ?_⟩
  · dsimp only
    rw [exec_setCursor h, exec_setWalk h, exec_setPage h, ← Cursor.inRange_iff_table]
    refine ⟨fun hr => ?_, fun hr => ?_, fun hr => ?_, fun hr => ?_, fun hr => ?_, fun hr => ?_⟩
    · rw [setCursorCommand_accepted hr]
    · rw [setCursorCommand_refused hr]
    · rw [setWalkCommand_accepted hr]
    · rw [setWalkCommand_refused hr]
    · rw [setPageCommand_accepted hr]
    · rw [setPageCommand_refused hr]
  · obtain ⟨last, hlast, hoffset⟩ := Cursor.inRange_iff.1 hc
    have hport : c.port ≤ 50 := by
      by_contra hp
      rw [lastOffset?_none (by omega)] at hlast
      cases hlast
    have htable := Option.some.inj ((lastOffset?_of_le hport).symm.trans hlast)
    dsimp only
    rw [htable]
    refine ⟨fun hw hd => ?_, fun hw hd => ?_, fun hw hp hd => ?_, fun hw hp hd => ?_⟩
    · rw [Cursor.walked_offset hw, hlast, hd, Option.getD_some, stepWithin_up hoffset]
    · rw [Cursor.walked_offset hw, hlast, hd, Option.getD_some, stepWithin_down]
    · rw [Cursor.walked_port hw hp, hd, stepWithin_up (by omega)]
    · rw [Cursor.walked_port hw hp, hd, stepWithin_down]

end Sys2Proof.Machine

end

section

namespace Sys2Proof.Machine

-- One theorem at a time, as above.
set_option deprecated.oldSectionVars true

/-! ## SEARCH (R149) -/

section

variable {s : State} {p : Port} {k v start : Byte} {kind : SearchKind}

theorem searchCommand_badPort (h : 48 ≤ start.toNat) : searchCommand k v start s = s.refuse .badPort none := by
  simp only [searchCommand, portOf?_none h]

theorem searchCommand_accepted (hp : start.toNat = p.val) (hk : searchKindOf? k.toNat = some kind)
    (hv : v.toNat ≤ kind.lastValue) :
    searchCommand k v start s = { s with busy := some (.search kind v.toNat p.val none) } := by
  simp only [searchCommand, portOf?_eq_of_val hp, hk, if_pos hv]

theorem searchCommand_badArg (hp : start.toNat = p.val)
    (h : ∀ kind, searchKindOf? k.toNat = some kind → kind.lastValue < v.toNat) :
    searchCommand k v start s = s.refuse .badArg none := by
  simp only [searchCommand, portOf?_eq_of_val hp]
  split
  · next kind hk => exact if_neg (Nat.not_le.2 (h kind hk))
  · rfl

/-- The values that are above the last one of their kind (R149). -/
theorem searchKindOf?_lastValue_lt (hk : searchKindOf? k.toNat = some kind)
    (h : k.toNat = 0 ∨ 6 ≤ k.toNat ∨ (k.toNat ≤ 4 ∧ 7 ≤ v.toNat) ∨ (k = 2 ∧ v = 6) ∨ (k = 5 ∧ 17 ≤ v.toNat)) :
    kind.lastValue < v.toNat := by
  unfold searchKindOf? at hk
  split at hk <;> cases hk <;> simp only [SearchKind.lastValue] <;> bv_omega

theorem PerPair.any_toList {α : Type} (x : PerPair α) (P : α → Bool) :
    x.toList.any P = true ↔ ∃ q, P (x.get q) = true := by
  simp only [PerPair.toList, List.any_cons, List.any_nil, Bool.or_false, Bool.or_eq_true]
  refine ⟨?_, ?_⟩
  · rintro (h | h | h | h)
    exacts [⟨.a, h⟩, ⟨.b, h⟩, ⟨.c, h⟩, ⟨.d, h⟩]
  · rintro ⟨q, h⟩
    cases q <;> simp_all [PerPair.get]

theorem scanExamine_met {x : Nat} (hb : s.busy = some (.search kind x p.val none))
    (h : (s.port p).record.meets x kind = true) :
    scanExamine s = { s with busy := some (.search kind x p.val (some (p, (s.port p).record.generation))) } := by
  simp only [scanExamine, hb, portOf?_val, h, if_true]

theorem scanExamine_unmet {x : Nat} (hb : s.busy = some (.search kind x p.val none))
    (h : ¬ (s.port p).record.meets x kind = true) :
    scanExamine s = { s with busy := some (.search kind x (p.val + 1) none) } := by
  simp only [scanExamine, hb, portOf?_val, if_neg h]

theorem searchCompleteOf_found {x next : Nat} {g : BitVec 16} (hb : s.busy = some (.search kind x next (some (p, g)))) :
    searchCompleteOf s = ({ s with busy := none, cursor := { port := p.val, offset := 0 } } : State).withReply
      #v[0x00#8, BitVec.ofNat 8 p.val, g.setWidth 8, (g >>> 8).setWidth 8, 0, 0, 0, 0] := by
  simp only [searchCompleteOf, hb, replyPort_some]

theorem searchCompleteOf_past {x next : Nat} (hb : s.busy = some (.search kind x next none)) (h : 48 ≤ next) :
    searchCompleteOf s = ({ s with busy := none } : State).withReply (replyPort none) := by
  simp only [searchCompleteOf, hb, if_pos h]

end

/-- Settles O36: the command by its operands, the scan by what the examined record meets. -/
theorem searchScansUpward : Obligations.SearchScansUpward := by
  refine ⟨fun k v start extra s h => ?_, fun kind v s => ⟨fun p hb => ?_, fun next p g hb => ?_, fun next hb hn => ?_⟩⟩
  · dsimp only
    rw [exec_search h]
    refine ⟨fun hk hv p hp => ?_, fun hk hv p hp => ?_, fun hk hv p hp => ?_, fun hk hv p hp => ?_,
      fun hk hv p hp => ?_, fun hp => ?_, fun hp hr => ?_⟩
    iterate 5 · rw [searchCommand_accepted hp (by rw [hk]; rfl) hv]
    · rw [searchCommand_badPort hp]
    · rw [searchCommand_badArg (p := ⟨start.toNat, by omega⟩) rfl fun kind hk => searchKindOf?_lastValue_lt hk hr]
  · intro r met
    have hmet : (s.port p).record.meets v kind = true ↔ met := by
      cases kind
      case verdict => simpa [LineRecord.meets] using PerPair.any_toList r.pairs fun x => decide (x.verdict.code = v)
      all_goals exact decide_eq_true_iff
    refine ⟨fun hm => ?_, fun hm => ?_⟩
    · exact congrArg Host.Outcome.next (scanExamine_met hb (hmet.2 hm))
    · exact congrArg Host.Outcome.next (scanExamine_unmet hb (hmet.not.2 hm))
  · exact congrArg Host.Outcome.next (searchCompleteOf_found hb)
  · exact congrArg Host.Outcome.next (searchCompleteOf_past hb hn)

/-! ## The status byte, ALERTn and STATUS-READ (R139, R155, R156) -/

section

variable {s t : State}

/-- The eight levels of a status byte, bit 7 first. -/
theorem getLsbD_levels (b7 b6 b5 b4 b3 b2 b1 b0 : Bool) :
    let x := byte (flag b7 128 + flag b6 64 + flag b5 32 + flag b4 16 + flag b3 8 + flag b2 4 + flag b1 2 + flag b0 1)
    x.getLsbD 7 = b7 ∧ x.getLsbD 6 = b6 ∧ x.getLsbD 5 = b5 ∧ x.getLsbD 4 = b4 ∧ x.getLsbD 3 = b3 ∧ x.getLsbD 2 = b2
      ∧ x.getLsbD 1 = b1 ∧ x.getLsbD 0 = b0 := by
  revert b7 b6 b5 b4 b3 b2 b1 b0
  decide

theorem State.ports_toList (s : State) : s.ports.toList = (List.finRange 48).map s.port := by
  refine List.ext_getElem (by simp) fun i _ _ => ?_
  simp [State.port]

theorem chgBit_iff : chgBit s = true ↔ ∃ p, (s.port p).inChangeSet = true := by
  rw [chgBit, State.ports_toList]
  simp

theorem lowBit_iff : lowBit s = true ↔ Config.poolSize - poolUsed s < s.settings.lowWater :=
  decide_eq_true_iff

theorem qfullBit_iff : qfullBit s = true ↔ s.queue.length = 16 :=
  decide_eq_true_iff

theorem alertAsserted_iff : alertAsserted s = true ↔ errBit s = true ∨ (chgBit s = true ∧ s.settings.alertChg = true)
    ∨ (lowBit s = true ∧ s.settings.alertLow = true) := by
  simp only [alertAsserted, Bool.or_eq_true, Bool.and_eq_true, or_assoc]

/-- With every block at its reset values, the levels but BUSY are those of the reset state. -/
theorem levels_of_reset (hports : t.ports = State.reset.ports) (hsettings : t.settings = State.reset.settings) :
    chgBit t = false ∧ lowBit t = false := by
  have hchg : chgBit t = chgBit State.reset := by rw [chgBit, chgBit, hports]
  have hlow : lowBit t = lowBit State.reset := by
    rw [← Bool.coe_iff_coe, lowBit_iff, lowBit_iff, poolUsed, poolUsed, hports, hsettings]
  exact ⟨hchg.trans chgBit_reset, hlow.trans lowBit_reset⟩

/-- While a device reset is in progress only BUSY is set (R155, R159). -/
theorem statusByte_beginDeviceReset (s : State) : statusByte s.beginDeviceReset = 0x80#8 := by
  obtain ⟨hchg, hlow⟩ := levels_of_reset (t := s.beginDeviceReset) rfl rfl
  rw [statusByte, hchg, hlow]
  rfl

theorem alertAsserted_beginDeviceReset (s : State) : alertAsserted s.beginDeviceReset = false := by
  obtain ⟨hchg, hlow⟩ := levels_of_reset (t := s.beginDeviceReset) rfl rfl
  rw [alertAsserted, hchg, hlow]
  rfl

theorem statusByte_endDeviceReset (s : State) : statusByte s.endDeviceReset = 0x00#8 := by
  obtain ⟨hchg, hlow⟩ := levels_of_reset (t := s.endDeviceReset) rfl rfl
  rw [statusByte, hchg, hlow]
  rfl

/-- The bytes shifted out are the image with 00h behind it. -/
theorem statusBytes_eq_take (s : State) (n : Nat) :
    statusBytes s n = (statusImage s ++ List.replicate n 0).take n := by
  rw [statusBytes, List.take_append, List.take_replicate, Nat.min_eq_left (Nat.sub_le _ _)]

/-- STATUS-READ changes no more than what is shifted out, and the data transaction before it has ended. -/
theorem statusReadBytes_rest (n : Nat) (s : State) :
    { statusReadBytes n s with transfer := s.transfer, sdo := s.sdo } = s := by
  unfold statusReadBytes
  split <;> rfl

theorem statusReadBytes_sdo {n : Nat} (h : 1 ≤ n) (s : State) : (statusReadBytes n s).sdo = statusBytes s n := by
  rw [statusReadBytes, if_neg (by omega)]

end

/-- Settles O30: the byte is its eight levels, and the image of STATUS-READ goes on with 00h. -/
theorem statusAndAlertFollowTheState : Obligations.StatusAndAlertFollowTheState := by
  refine ⟨⟨fun s => ?_, statusByte_reset, alertAsserted_reset,
    fun s => ⟨statusByte_beginDeviceReset s, alertAsserted_beginDeviceReset s⟩⟩, fun n s => ?_⟩
  · obtain ⟨h7, h6, h5, h4, h3, h2, h1, h0⟩ := getLsbD_levels s.busy.isSome (errBit s) s.errors.jammed (chgBit s)
      (lowBit s) s.bind.isSome s.page (qfullBit s)
    dsimp only
    rw [← chgBit_iff, ← lowBit_iff, ← qfullBit_iff]
    exact ⟨h7, h6, h5, h4 ▸ .rfl, h3 ▸ .rfl, h2, h1, h0 ▸ .rfl, alertAsserted_iff⟩
  · refine ⟨statusReadBytes n s, rfl, statusReadBytes_rest n s, fun hn => ?_⟩
    rw [statusReadBytes_sdo hn, statusBytes_eq_take]
    rfl

end Sys2Proof.Machine

end

section

namespace Sys2Proof.Machine

-- One theorem at a time, as above.
set_option deprecated.oldSectionVars true

/-! ## The order of refusals (R138, R146, R159, R165) -/

section

variable {s : State} {bytes l : List Byte} {page1 : Bool} {op : Nat}

/-! ### The judgment of a command transaction -/

theorem passesJam_iff : passesJam bytes = true ↔ ∃ op rest, bytes = op :: rest ∧ op ∈ [0x06#8, 0x07#8, 0x0F#8] := by
  unfold passesJam
  split
  · next op rest =>
    simp only [Bool.or_eq_true, decide_eq_true_eq, List.cons.injEq, List.mem_cons, List.not_mem_nil, or_false]
    refine ⟨fun h => ⟨op, rest, ⟨rfl, rfl⟩, by bv_omega⟩, ?_⟩
    rintro ⟨_, _, ⟨rfl, rfl⟩, h⟩
    bv_omega
  · simp

theorem commandWrite_inReset (h : s.busy = some .deviceReset) (bytes : List Byte) :
    commandWrite bytes s = { s with transfer := none } := by
  simp [commandWrite, State.judge, State.inReset, h]

theorem commandWrite_jammed (hb : s.busy ≠ some .deviceReset) (hj : s.errors.jammed = true)
    (hp : passesJam bytes ≠ true) : commandWrite bytes s = ({ s with transfer := none } : State).countAccess := by
  simp [commandWrite, State.judge, State.inReset, hb, hj, hp]

theorem commandWrite_busy (hb : s.busy ≠ some .deviceReset) (ho : s.busy ≠ none)
    (hj : s.errors.jammed = false ∨ passesJam bytes = true) :
    commandWrite bytes s = (({ s with transfer := none } : State).refuse .busy none).countAccess := by
  have ho : s.busy.isSome = true := Option.isSome_iff_ne_none.2 ho
  have hj : (s.errors.jammed && !passesJam bytes) = false := by rcases hj with h | h <;> simp [h]
  simp [commandWrite, State.judge, State.inReset, hb, ho, hj]

/-! ### The decoding of an opcode and its operands -/

theorem decodeOpcode_unknown (h : operandsNeeded page1 op = none) : decodeOpcode page1 op l = .unknown := by
  unfold operandsNeeded at h
  split at h
  case h_15 =>
    cases page1 with
    | true => rfl
    | false => cases h
  case h_16 =>
    unfold decodeOpcode
    split
    case h_16 => rfl
    all_goals contradiction
  all_goals cases h

theorem needs1_short {f : Byte → HostCommand} (h : l.length < 1) : needs1 f l = .short := by
  match l with
  | [] => rfl
  | _ :: _ => simp at h

theorem needs2_short {f : Byte → Byte → HostCommand} (h : l.length < 2) : needs2 f l = .short := by
  match l with
  | [] | [_] => rfl
  | _ :: _ :: _ => simp at h

theorem needs3_short {f : Byte → Byte → Byte → HostCommand} (h : l.length < 3) : needs3 f l = .short := by
  match l with
  | [] | [_] | [_, _] => rfl
  | _ :: _ :: _ :: _ => simp only [List.length_cons] at h; omega

theorem decodeOpcode_short {n : Nat} (h : operandsNeeded page1 op = some n) (hl : l.length < n) :
    decodeOpcode page1 op l = .short := by
  unfold operandsNeeded at h
  split at h
  case h_6 | h_7 | h_8 | h_10 => cases h; simp at hl
  case h_16 => cases h
  case h_15 =>
    cases page1 <;> cases h
    exact needs1_short hl
  case h_1 | h_5 => cases h; exact needs2_short hl
  case h_2 | h_3 | h_4 => cases h; exact needs1_short hl
  case h_9 => cases h; exact needs3_short hl
  case h_11 =>
    cases page1 <;> cases h
    · exact needs1_short hl
    · exact needs3_short hl
  case h_13 =>
    cases page1 <;> cases h
    · exact needs1_short hl
    · exact needs2_short hl
  case h_12 | h_14 =>
    cases h
    cases page1 <;> exact needs1_short hl

/-! ### A port out of range -/

theorem onPort_badPort {b : Byte} (h : 48 ≤ b.toNat) (f : Port → State → State) (s : State) :
    onPort b f s = s.refuse .badPort none := by
  simp only [onPort, portOf?_none h]

theorem clearFindingsCommand_badPort {b : Byte} (h : 48 ≤ b.toNat) (s : State) :
    clearFindingsCommand b s = s.refuse .badPort none := by
  simp only [clearFindingsCommand, portOf?_none h]

/-- The commands whose one operand is a port are refused where it is none. -/
theorem carryOut_badPort {op b : Byte} (hb : 48 ≤ b.toNat)
    (h : (page1 = false ∧ op ∈ [0x10#8, 0x11#8, 0x12#8, 0x13#8, 0x14#8]) ∨ (page1 = true ∧ op ∈ [0x11#8, 0x13#8]))
    (extra : List Byte) (s : State) :
    carryOut (decodeCommand page1 (op :: b :: extra)) s = (s.refuse .badPort none).countAccess := by
  have port (f : Port → State → State) : (onPort b f s).countAccess = (s.refuse .badPort none).countAccess := by
    rw [onPort_badPort hb]
  simp only [List.mem_cons, List.not_mem_nil, or_false] at h
  rcases h with ⟨rfl, rfl | rfl | rfl | rfl | rfl⟩ | ⟨rfl, rfl | rfl⟩
  case inr.inr => exact congrArg State.countAccess (clearFindingsCommand_badPort hb s)
  all_goals exact port _

end

/-- Settles O32: the judgment, then the opcode, then the operands. -/
theorem commandsAreRefusedInOrder : Obligations.CommandsAreRefusedInOrder := by
  intro c bytes s hbytes
  dsimp only
  rw [exec_command hbytes, ← passesJam_iff]
  refine ⟨fun h => ?_, fun h hj hp => ?_, fun h ho hj => ?_, fun h => ?_⟩
  · rw [commandWrite_inReset h]
  · rw [commandWrite_jammed h hj hp]
  · rw [commandWrite_busy h ho hj]
  · rw [commandWrite_taken h]
    refine ⟨?_, ?_⟩
    · rintro rfl
      rfl
    · rintro op rest rfl
      refine ⟨fun hn => ?_, fun n hn hl => ?_, ?_⟩
      · rw [decodeCommand, decodeOpcode_unknown hn]
        rfl
      · rw [decodeCommand, decodeOpcode_short hn hl]
        rfl
      · rintro b extra rfl hb hop
        rw [carryOut_badPort hb hop]

end Sys2Proof.Machine

end

section

namespace Sys2Proof.Machine

-- One theorem at a time, as above.
set_option deprecated.oldSectionVars true

/-! ## What the blocks' own events leave: the host's side

The events of the link, the Training Controller, the Line Guard, the Probe Scheduler, the engines and the Reconciler
reach the ports, the groups, the queue, the engines, the Error Slot and the reply. The rest is the host's side: the
Management Port's own fields, the bind, the operation under way, the settings, the pins and the commands waiting. -/

/-- The part with everything the blocks' own events reach at its reset values. -/
def State.hostSide (s : State) : State :=
  { s with
    ports := State.reset.ports, groups := State.reset.groups, queue := [], engines := State.reset.engines, order := []
    errors := .empty, reply := emptyReply }

section

variable {s t : State}

theorem State.serial_of_hostSide (h : t.hostSide = s.hostSide) : t.serial = s.serial := by
  change t.hostSide.serial = s.hostSide.serial
  rw [h]

theorem State.bind_of_hostSide (h : t.hostSide = s.hostSide) : t.bind = s.bind := by
  change t.hostSide.bind = s.hostSide.bind
  rw [h]

theorem State.busy_of_hostSide (h : t.hostSide = s.hostSide) : t.busy = s.busy := by
  change t.hostSide.busy = s.hostSide.busy
  rw [h]

theorem SameButQueue.hostSide (h : SameButQueue s t) : t.hostSide = s.hostSide := by
  change ({ t with ports := s.ports, queue := s.queue } : State).hostSide = s.hostSide
  rw [show { t with ports := s.ports, queue := s.queue } = s from h]

theorem OnlyPort.hostSide {p : Port} (h : OnlyPort p s t) : t.hostSide = s.hostSide :=
  h.1.sameButQueue.hostSide

end

section

variable (s : State)

/-! ### The shared operations -/

@[simp] theorem State.hostSide_mk (ports : Vector PortState 48) (groups : Vector GroupLink 6) (queue : List Entry)
    (engines : Vector Engine 4) (order : List EngineId) (errors : ErrorSlot) (reply : Vector Byte 8) :
    (State.mk ports groups queue engines order errors s.cursor s.walk s.page s.bind s.saved reply s.busy s.writeHold
      s.readHold s.transfer s.sdo s.serial s.settings s.templates s.resetN s.pending).hostSide = s.hostSide := rfl

@[simp] theorem State.hostSide_setPort (p : Port) (x : PortState) : (s.setPort p x).hostSide = s.hostSide := rfl

@[simp] theorem State.hostSide_modPort (p : Port) (f : PortState → PortState) :
    (s.modPort p f).hostSide = s.hostSide := rfl

@[simp] theorem State.hostSide_setGroup (g : Group) (x : GroupLink) : (s.setGroup g x).hostSide = s.hostSide := rfl

@[simp] theorem State.hostSide_setEngine (e : EngineId) (x : Engine) : (s.setEngine e x).hostSide = s.hostSide := rfl

@[simp] theorem State.hostSide_assignEngine (e : EngineId) (x : Engine) :
    (s.assignEngine e x).hostSide = s.hostSide := rfl

@[simp] theorem State.hostSide_releaseEngine (e : EngineId) : (s.releaseEngine e).hostSide = s.hostSide := rfl

@[simp] theorem State.hostSide_dropEntry (p : Port) : (s.dropEntry p).hostSide = s.hostSide := rfl

@[simp] theorem State.hostSide_report (c : Cause) (o : Origin) (p : Option Port) :
    (s.report c o p).hostSide = s.hostSide := rfl

@[simp] theorem State.hostSide_withReply (r : Vector Byte 8) : (s.withReply r).hostSide = s.hostSide := rfl

@[simp] theorem State.hostSide_refuse (c : Cause) (p : Option Port) : (s.refuse c p).hostSide = s.hostSide := rfl

@[simp] theorem State.hostSide_setInbox (p : Port) (box : Inbox) : (s.setInbox p box).hostSide = s.hostSide := rfl

@[simp] theorem State.hostSide_commit (p : Port) (r : LineRecord) : (s.commit p r).hostSide = s.hostSide :=
  (State.commit_onlyPort s p r).hostSide

@[simp] theorem State.hostSide_submit (host : Bool) (p : Port) (u : Update) :
    (s.submit host p u).hostSide = s.hostSide := (State.submit_onlyPort s host p u).hostSide

@[simp] theorem State.hostSide_event (host : Bool) (p : Port) (out : TcEffect) (sched : SchedFields) :
    (s.event host p out sched).hostSide = s.hostSide := (State.event_onlyPort s host p out sched).hostSide

@[simp] theorem State.hostSide_tcEvent (host : Bool) (p : Port) (out : TcEffect) :
    (s.tcEvent host p out).hostSide = s.hostSide := s.hostSide_event host p out _

@[simp] theorem State.hostSide_schedEvent (host : Bool) (p : Port) (sched : SchedFields) :
    (s.schedEvent host p sched).hostSide = s.hostSide := s.hostSide_event host p _ sched

@[simp] theorem State.hostSide_offerPlace (host : Bool) : (s.offerPlace host).hostSide = s.hostSide :=
  (State.offerPlaceTo_cases host allPorts s).1.hostSide

theorem State.hostSide_foldl_modPort {α : Type} (l : List α) (p : α → Port) (f : PortState → PortState) :
    (l.foldl (fun t i => t.modPort (p i) f) s).hostSide = s.hostSide := by
  induction l generalizing s with
  | nil => rfl
  | cons i l ih => exact (ih _).trans (s.hostSide_modPort (p i) f)

/-! ### The Line Signal Link -/

@[simp] theorem State.hostSide_hear (g : Group) : (s.hear g).hostSide = s.hostSide := by
  unfold State.hear
  split
  · rfl
  · rw [State.relinkPorts, State.hostSide_foldl_modPort, State.hostSide_setGroup]

theorem hostSide_receiveFrame (g : Group) (bytes : List Byte) : (receiveFrame g bytes s).hostSide = s.hostSide := by
  unfold receiveFrame
  split
  · rfl
  · split
    · exact s.hostSide_hear g
    · exact s.hostSide_hear g

theorem hostSide_silenceExpiryOf (g : Group) : (silenceExpiryOf g s).hostSide = s.hostSide := by
  unfold silenceExpiryOf
  split
  · rw [State.hostSide_foldl_modPort, State.hostSide_setGroup]
  · rfl

theorem hostSide_idleFrameSendOf (g : Group) : (idleFrameSendOf g s).hostSide = s.hostSide := by
  unfold idleFrameSendOf
  split <;> rfl

theorem hostSide_transmitMessageOf (g : Group) : (transmitMessageOf g s).hostSide = s.hostSide := by
  unfold transmitMessageOf
  split
  · rfl
  · split
    · rfl
    · split <;> rfl

/-! ### The Training Controller and the Line Guard -/

@[simp] theorem State.hostSide_stopOnPower (p : Port) (e : EngineId) : (s.stopOnPower p e).hostSide = s.hostSide := by
  unfold State.stopOnPower
  split <;> rfl

theorem hostSide_takePowerAt (p : Port) : (takePowerAt p s).hostSide = s.hostSide := by
  unfold takePowerAt
  split
  · split
    · dsimp only
      split <;> simp
    · rfl
  · rfl

theorem hostSide_takeDetachedAt (p : Port) : (takeDetachedAt p s).hostSide = s.hostSide := by
  unfold takeDetachedAt
  split
  · dsimp only
    split
    · split <;> rfl
    · rfl
  · rfl

theorem hostSide_takeEnergyAt (p : Port) : (takeEnergyAt p s).hostSide = s.hostSide := by
  unfold takeEnergyAt
  split
  · split <;> simp
  · rfl

theorem hostSide_takeLostAt (p : Port) : (takeLostAt p s).hostSide = s.hostSide := by
  unfold takeLostAt
  split <;> simp

theorem hostSide_takeResultPassAt (p : Port) : (takeResultPassAt p s).hostSide = s.hostSide := by
  unfold takeResultPassAt
  split
  · split <;> simp
  · rfl

theorem hostSide_takeResultFailAt (p : Port) : (takeResultFailAt p s).hostSide = s.hostSide := by
  unfold takeResultFailAt
  split
  · split <;> simp
  · rfl

theorem hostSide_takePageAt (p : Port) : (takePageAt p s).hostSide = s.hostSide := by
  unfold takePageAt
  split
  · split <;> simp
  · rfl

theorem hostSide_listenExpiryAt (p : Port) : (listenExpiryAt p s).hostSide = s.hostSide := by
  unfold listenExpiryAt
  split <;> simp

theorem hostSide_trainExpiryAt (p : Port) : (trainExpiryAt p s).hostSide = s.hostSide := by
  unfold trainExpiryAt
  split <;> simp

@[simp] theorem State.hostSide_takeWithdraw (p : Port) (x : GuardSource) :
    (s.takeWithdraw p x).hostSide = s.hostSide := s.hostSide_tcEvent false p _

theorem hostSide_takeWithdrawAt (p : Port) : (takeWithdrawAt p s).hostSide = s.hostSide := by
  unfold takeWithdrawAt
  split <;> simp

@[simp] theorem State.hostSide_recordSource (p : Port) (f : Firing) : (s.recordSource p f).hostSide = s.hostSide :=
  (State.recordSource_onlyPort s p f).hostSide

theorem hostSide_guardFiringAt (p : Port) : (guardFiringAt p s).hostSide = s.hostSide := by
  unfold guardFiringAt
  split
  · simp [State.takeFiring_eq]
  · rfl

/-! ### The Probe Scheduler and the engines -/

theorem hostSide_autoProbeRequestAt (p : Port) : (autoProbeRequestAt p s).hostSide = s.hostSide := by
  have takes (u : State) : (u.takeAutoProbe p).hostSide = u.hostSide := by
    unfold State.takeAutoProbe
    dsimp only
    split
    · rfl
    · split
      · rfl
      · split
        · rfl
        · split <;> simp
  unfold autoProbeRequestAt
  split
  · rfl
  · exact takes _

@[simp] theorem State.hostSide_endAborted (host : Bool) (p : Port) (cause : Ending) (skipped : PairSet) :
    (s.endAborted host p cause skipped).hostSide = s.hostSide := s.hostSide_event host p _ _

@[simp] theorem State.hostSide_endSuspended (host : Bool) (p : Port) (cause : Ending) (ctx : Suspended) :
    (s.endSuspended host p cause ctx).hostSide = s.hostSide := by
  simp [State.endSuspended]

theorem hostSide_powerNoticeAt (p : Port) : (powerNoticeAt p s).hostSide = s.hostSide := by
  have takes (u : State) : (u.takePowerNotice p).hostSide = u.hostSide := by
    unfold State.takePowerNotice
    split
    · exact u.hostSide_stopOnPower p _
    · split
      · split <;> simp
      · rfl
  unfold powerNoticeAt
  split
  · dsimp only
    split
    · exact takes _
    · rfl
  · rfl

@[simp] theorem State.hostSide_lendTo (e : EngineId) (r : Run) : (s.lendTo e r).hostSide = s.hostSide := by
  simp [State.lendTo]

@[simp] theorem State.hostSide_abortPowered (r : Run) : (s.abortPowered r).hostSide = s.hostSide := by
  simp [State.abortPowered]

theorem hostSide_dispatchHead : (dispatchHead s).hostSide = s.hostSide := by
  unfold dispatchHead
  split
  · rfl
  · split
    · split
      · rfl
      · dsimp only
        split <;> simp
    · rfl

theorem hostSide_resumeHead : (resumeHead s).hostSide = s.hostSide := by
  unfold resumeHead
  split
  · rfl
  · split
    · split
      · rfl
      · split <;> simp
    · rfl

theorem hostSide_preemptForHead : (preemptForHead s).hostSide = s.hostSide := by
  unfold preemptForHead
  split
  · rfl
  · split
    · split
      · rfl
      · split
        · rfl
        · dsimp only
          split <;> simp
    · rfl

theorem hostSide_waitExpiryOf (e : EngineId) : (waitExpiryOf e s).hostSide = s.hostSide := by
  unfold waitExpiryOf
  split <;> rfl

theorem hostSide_sweepCompletionOf (e : EngineId) (echoes : List Echo) :
    (sweepCompletionOf e echoes s).hostSide = s.hostSide := by
  unfold sweepCompletionOf
  split <;> rfl

/-! ### Endings -/

@[simp] theorem State.hostSide_reconcile (p : Port) (completed : List PairResult) :
    (s.reconcile p completed).hostSide = s.hostSide := by
  unfold State.reconcile
  dsimp only
  split <;> simp

@[simp] theorem State.hostSide_takeRunEdges (p : Port) (edges : List GuardSource) :
    (s.takeRunEdges p edges).hostSide = s.hostSide := by
  unfold State.takeRunEdges
  split <;> simp

theorem hostSide_takeEndingCompleteOf (e : EngineId) : (takeEndingCompleteOf e s).hostSide = s.hostSide := by
  unfold takeEndingCompleteOf
  split
  · split
    · rfl
    · simp
  · rfl

theorem hostSide_takeEndingAbortedOf (e : EngineId) : (takeEndingAbortedOf e s).hostSide = s.hostSide := by
  unfold takeEndingAbortedOf
  split
  · split
    · rfl
    · rfl
    · split <;> simp
  · rfl

/-! ### What the host's commands do to a port -/

theorem hostSide_probePort (p : Port) (pairs : PairSet) (cls : ReqClass) :
    (probePort p pairs cls s).hostSide = s.hostSide := by
  unfold probePort
  dsimp only
  split
  · rfl
  · split
    · rfl
    · split
      · rfl
      · split
        · rfl
        · split
          · rfl
          · split <;> simp

theorem hostSide_probeCommand (portByte pairByte classByte : Byte) :
    (probeCommand portByte pairByte classByte s).hostSide = s.hostSide := by
  unfold probeCommand
  split
  · rfl
  · split
    · rfl
    · split
      · rfl
      · exact hostSide_probePort s _ _ _

theorem hostSide_cancelPort (p : Port) : (cancelPort p s).hostSide = s.hostSide := by
  unfold cancelPort
  rw [State.hostSide_withReply]
  split
  · rfl
  · split
    · split <;> simp
    · split <;> simp

theorem State.hostSide_resetScheduling (p : Port) : (s.resetScheduling p).hostSide = s.hostSide := by
  unfold State.resetScheduling
  dsimp only
  split
  · rfl
  · split <;> simp

/-- A PORT-RESET that is made ends the operation under way, and one that waits is it. -/
theorem hostSide_portResetPort (p : Port) :
    ∃ x, x ≠ some .deviceReset ∧ (portResetPort p s).hostSide = { s.hostSide with busy := x } := by
  have hsched := State.hostSide_resetScheduling s p
  rcases portResetPort_cases p s with ⟨b, h⟩ | ⟨b, h⟩ <;> rw [h, ← hsched]
  · exact ⟨none, fun h => (nomatch h), rfl⟩
  · exact ⟨some (.portReset p b), fun h => (nomatch h), rfl⟩

@[simp] theorem State.hostSide_changeFindings (p : Port) (r : LineRecord) :
    (s.changeFindings p r).hostSide = s.hostSide := by
  unfold State.changeFindings
  dsimp only
  split <;> simp

theorem hostSide_retireCommand (portByte indexByte : Byte) :
    (retireCommand portByte indexByte s).hostSide = s.hostSide := by
  unfold retireCommand
  split
  · rfl
  · dsimp only
    split <;> simp

theorem hostSide_clearFindingsCommand (portByte : Byte) : (clearFindingsCommand portByte s).hostSide = s.hostSide := by
  unfold clearFindingsCommand
  split
  · rfl
  · simp

@[simp] theorem State.hostSide_machineCommand (p : Port) (out : TcEffect) :
    (s.machineCommand p out).hostSide = s.hostSide := by
  simp [State.machineCommand]

theorem hostSide_restartPort (p : Port) : (restartPort p s).hostSide = s.hostSide := by
  unfold restartPort
  split <;> simp

theorem hostSide_takeChangeCommand : (takeChangeCommand s).hostSide = s.hostSide := by
  unfold takeChangeCommand
  split <;> rfl

end

end Sys2Proof.Machine

end

section

namespace Sys2Proof.Machine

-- One theorem at a time, as above.
set_option deprecated.oldSectionVars true

/-! ## The counting of accesses (R138, R152) -/

section

variable {s t u : State} {c : HostCommand} {l : List Byte} {page1 : Bool} {op : Nat}

/-- An access has been made and is yet to be counted: the pins and the bind are as they were, and no device reset has
begun. -/
def State.AccessMade (s u : State) : Prop :=
  u.serial = s.serial ∧ u.bind = s.bind ∧ (s.busy ≠ some .deviceReset → u.busy ≠ some .deviceReset)

theorem State.AccessMade.serial (h : s.AccessMade u) : u.serial = s.serial := h.1

theorem State.AccessMade.bind (h : s.AccessMade u) : u.bind = s.bind := And.left (And.right h)

theorem State.AccessMade.reset (h : s.AccessMade u) : s.busy ≠ some .deviceReset → u.busy ≠ some .deviceReset :=
  And.right (And.right h)

theorem State.AccessMade.of_hostSide (h : u.hostSide = s.hostSide) : s.AccessMade u :=
  ⟨State.serial_of_hostSide h, State.bind_of_hostSide h, by rw [State.busy_of_hostSide h]; exact id⟩

theorem State.AccessMade.trans (h : s.AccessMade t) (k : t.AccessMade u) : s.AccessMade u :=
  ⟨k.serial.trans h.serial, k.bind.trans h.bind, fun hs => k.reset (h.reset hs)⟩

/-- A transaction of another kind ends the data transaction before it. -/
theorem State.AccessMade.endsTransfer (s : State) : s.AccessMade { s with transfer := none } := ⟨rfl, rfl, id⟩

/-- The commands that count their own access, and the one that no bind survives (R151, R154, R159). -/
def HostCommand.countsApart : HostCommand → Prop
  | .bind _ | .aim _ _ | .deviceReset => True
  | _ => False

/-! ### What a command transaction does before it is counted -/

theorem State.AccessMade.refuse (s : State) (x : Cause) (p : Option Port) : s.AccessMade (s.refuse x p) :=
  .of_hostSide (s.hostSide_refuse x p)

theorem State.AccessMade.setCursorCommand (s : State) (port offset : Byte) :
    s.AccessMade (setCursorCommand port offset s) := by
  unfold Machine.setCursorCommand
  dsimp only
  split
  · exact ⟨rfl, rfl, id⟩
  · exact .refuse s _ _

theorem State.AccessMade.setWalkCommand (s : State) (mode : Byte) : s.AccessMade (setWalkCommand mode s) := by
  unfold Machine.setWalkCommand
  split
  · exact ⟨rfl, rfl, id⟩
  · exact .refuse s _ _

theorem State.AccessMade.setPageCommand (s : State) (page : Byte) : s.AccessMade (setPageCommand page s) := by
  unfold Machine.setPageCommand
  split
  · exact ⟨rfl, rfl, id⟩
  · exact .refuse s _ _

theorem State.AccessMade.searchCommand (s : State) (kind value start : Byte) :
    s.AccessMade (searchCommand kind value start s) := by
  unfold Machine.searchCommand
  split
  · exact .refuse s _ _
  · split
    · split
      · exact ⟨rfl, rfl, fun _ h => nomatch h⟩
      · exact .refuse s _ _
    · exact .refuse s _ _

theorem State.AccessMade.portResetPort (s : State) (p : Port) : s.AccessMade (portResetPort p s) := by
  obtain ⟨x, hx, h⟩ := hostSide_portResetPort s p
  refine ⟨?_, ?_, fun _ => ?_⟩
  · change (Machine.portResetPort p s).hostSide.serial = _
    rw [h]
    rfl
  · change (Machine.portResetPort p s).hostSide.bind = _
    rw [h]
    rfl
  · change (Machine.portResetPort p s).hostSide.busy ≠ _
    rw [h]
    exact hx

theorem State.AccessMade.onPort (s : State) (b : Byte) {f : Port → State → State} (hf : ∀ p, s.AccessMade (f p s)) :
    s.AccessMade (onPort b f s) := by
  unfold Machine.onPort
  split
  · exact hf _
  · exact .refuse s _ _

/-- A command is made and then counted. -/
theorem performCommand_counted (hc : ¬ c.countsApart) (s : State) :
    ∃ u, performCommand c s = u.countAccess ∧ s.AccessMade u := by
  have machine (p : Port) (out : TcEffect) : s.AccessMade (s.machineCommand p out) :=
    .of_hostSide (s.hostSide_machineCommand p out)
  cases c with
  | bind n => exact absurd trivial hc
  | aim port n => exact absurd trivial hc
  | deviceReset => exact absurd trivial hc
  | setCursor port offset => exact ⟨_, rfl, .setCursorCommand s port offset⟩
  | setWalk mode => exact ⟨_, rfl, .setWalkCommand s mode⟩
  | setPage page => exact ⟨_, rfl, .setPageCommand s page⟩
  | readError => exact ⟨_, rfl, .of_hostSide rfl⟩
  | clearError => exact ⟨_, rfl, .of_hostSide rfl⟩
  | takeChange => exact ⟨_, rfl, .of_hostSide (hostSide_takeChangeCommand s)⟩
  | search kind value start => exact ⟨_, rfl, .searchCommand s kind value start⟩
  | park port => exact ⟨_, rfl, .onPort s port fun p => machine p _⟩
  | unpark port => exact ⟨_, rfl, .onPort s port fun p => machine p _⟩
  | restart port => exact ⟨_, rfl, .onPort s port fun p => .of_hostSide (hostSide_restartPort s p)⟩
  | rearm port => exact ⟨_, rfl, .onPort s port fun p => machine p _⟩
  | portReset port => exact ⟨_, rfl, .onPort s port fun p => .portResetPort s p⟩
  | probe port pairs cls => exact ⟨_, rfl, .of_hostSide (hostSide_probeCommand s port pairs cls)⟩
  | cancel port => exact ⟨_, rfl, .onPort s port fun p => .of_hostSide (hostSide_cancelPort s p)⟩
  | retire port index => exact ⟨_, rfl, .of_hostSide (hostSide_retireCommand s port index)⟩
  | clearFindings port => exact ⟨_, rfl, .of_hostSide (hostSide_clearFindingsCommand s port)⟩

/-- A command transaction outside a device reset, whether it is carried out, refused or discarded, is counted. -/
theorem commandWrite_counted {bytes : List Byte} (hs : s.busy ≠ some .deviceReset)
    (hd : ∀ c, decodeCommand s.page bytes = .taken c → ¬ c.countsApart) :
    ∃ u, commandWrite bytes s = u.countAccess ∧ s.AccessMade u := by
  have ht := State.AccessMade.endsTransfer s
  by_cases hj : s.errors.jammed = true ∧ passesJam bytes ≠ true
  · exact ⟨_, commandWrite_jammed hs hj.1 hj.2, ht⟩
  have hj : s.errors.jammed = false ∨ passesJam bytes = true := by
    cases hx : s.errors.jammed <;> simp_all
  by_cases ho : s.busy = none
  · have htaken : commandWrite bytes s = carryOut (decodeCommand s.page bytes) { s with transfer := none } := by
      rcases hj with hj | hj
      · exact commandWrite_taken ⟨ho, hj⟩ bytes
      · exact commandWrite_passes ho hj
    rw [htaken]
    cases hc : decodeCommand s.page bytes with
    | taken c =>
      obtain ⟨u, hu, hmade⟩ := performCommand_counted (hd c hc) { s with transfer := none }
      exact ⟨u, hu, ht.trans hmade⟩
    | unknown => exact ⟨_, rfl, ht.trans (.refuse _ _ _)⟩
    | short => exact ⟨_, rfl, ht.trans (.refuse _ _ _)⟩
  · exact ⟨_, commandWrite_busy hs ho hj, ht.trans (.refuse _ _ _)⟩

/-! ### Which opcodes count apart -/

theorem needs1_taken {f : Byte → HostCommand} (h : needs1 f l = .taken c) : ∃ a, c = f a := by
  unfold needs1 at h
  split at h <;> cases h
  exact ⟨_, rfl⟩

theorem needs2_taken {f : Byte → Byte → HostCommand} (h : needs2 f l = .taken c) : ∃ a b, c = f a b := by
  unfold needs2 at h
  split at h <;> cases h
  exact ⟨_, _, rfl⟩

theorem needs3_taken {f : Byte → Byte → Byte → HostCommand} (h : needs3 f l = .taken c) : ∃ a b d, c = f a b d := by
  unfold needs3 at h
  split at h <;> cases h
  exact ⟨_, _, _, rfl⟩

/-- Opcodes other than those of BIND, AIM and DEVICE-RESET. -/
theorem decodeOpcode_counted (h : decodeOpcode page1 op l = .taken c) (h4 : op ≠ 0x04) (h5 : op ≠ 0x05)
    (hF : op ≠ 0x0F) : ¬ c.countsApart := by
  intro hc
  unfold decodeOpcode at h
  split at h
  case h_4 => exact h4 rfl
  case h_5 => exact h5 rfl
  case h_10 => exact hF rfl
  case h_1 => obtain ⟨a, b, rfl⟩ := needs2_taken h; exact hc
  case h_2 | h_3 => obtain ⟨a, rfl⟩ := needs1_taken h; exact hc
  case h_6 | h_7 | h_8 => cases h; exact hc
  case h_9 => obtain ⟨a, b, d, rfl⟩ := needs3_taken h; exact hc
  case h_11 =>
    split at h
    · obtain ⟨a, b, d, rfl⟩ := needs3_taken h; exact hc
    · obtain ⟨a, rfl⟩ := needs1_taken h; exact hc
  case h_12 | h_14 => split at h <;> obtain ⟨a, rfl⟩ := needs1_taken h <;> exact hc
  case h_13 =>
    split at h
    · obtain ⟨a, b, rfl⟩ := needs2_taken h; exact hc
    · obtain ⟨a, rfl⟩ := needs1_taken h; exact hc
  case h_15 =>
    split at h
    · cases h
    · obtain ⟨a, rfl⟩ := needs1_taken h; exact hc
  case h_16 => cases h

/-! ### Data bytes -/

theorem State.AccessMade.raiseOnce (s : State) (x : Transfer) (y : Cause) (p : Option Port) :
    s.AccessMade (s.raiseOnce x y p) := by
  unfold State.raiseOnce
  split <;> exact ⟨rfl, rfl, id⟩

theorem State.AccessMade.writeByteEffect (s : State) (x : Transfer) (b : Byte) :
    s.AccessMade (writeByteEffect x b s) := by
  unfold Machine.writeByteEffect
  split
  case h_1 | h_2 => exact .raiseOnce s x _ _
  case h_3 | h_4 | h_5 => exact ⟨rfl, rfl, id⟩
  case h_6 | h_7 | h_8 => exact .of_hostSide (s.hostSide_commit _ _)

/-- A data byte of a transaction that no device reset has ended is counted. -/
theorem readByteAs_counted {tr : Transfer} (h : tr.judgment ≠ .inReset) (s : State) :
    ∃ u, readByteAs tr s = u.countAccess ∧ s.AccessMade u := by
  unfold readByteAs
  cases hj : tr.judgment with
  | taken => exact ⟨takeReadByte tr s, rfl, rfl, rfl, id⟩
  | busy => exact ⟨_, rfl, (State.AccessMade.raiseOnce s tr .busy none).trans ⟨rfl, rfl, id⟩⟩
  | jammed => exact ⟨s.shiftOut 0, rfl, rfl, rfl, id⟩
  | inReset => exact absurd hj h

theorem writeByteAs_counted {tr : Transfer} (h : tr.judgment ≠ .inReset) (b : Byte) (s : State) :
    ∃ u, writeByteAs tr b s = u.countAccess ∧ s.AccessMade u := by
  unfold writeByteAs
  cases hj : tr.judgment with
  | taken => exact ⟨_, rfl, (State.AccessMade.writeByteEffect s tr b).trans ⟨rfl, rfl, id⟩⟩
  | busy => exact ⟨_, rfl, .raiseOnce s tr .busy none⟩
  | jammed => exact ⟨s, rfl, rfl, rfl, id⟩
  | inReset => exact absurd hj h

/-! ### The end of the bind (R152) -/

@[simp] theorem State.bind_completePortReset (s : State) (p : Port) (aborted : Bool) :
    (s.completePortReset p aborted).bind = s.bind := rfl

@[simp] theorem State.serial_completePortReset (s : State) (p : Port) (aborted : Bool) :
    (s.completePortReset p aborted).serial = s.serial := rfl

theorem State.bind_endBind (s : State) : s.endBind.bind = none := by
  have h : s.bindEnded.bind = none := s.bindEnded_outside.bind
  rw [State.endBind_eq]
  unfold State.finishSuspendedReset
  split
  · rw [State.bind_completePortReset, h]
  · exact h

theorem State.busy_endBind (h : s.busy ≠ some .deviceReset) : s.endBind.busy ≠ some .deviceReset := by
  rw [State.endBind_eq]
  unfold State.finishSuspendedReset
  split
  · exact fun hn => nomatch hn
  · rwa [State.busy_bindEnded]

theorem State.countAccess_last {b : Bind} (hb : s.bind = some b) (hl : b.left ≤ 1) : s.countAccess = s.endBind := by
  simp only [State.countAccess, hb, if_pos hl]

theorem State.countAccess_more {b : Bind} (hb : s.bind = some b) (hl : 2 ≤ b.left) :
    s.countAccess = { s with bind := some { left := b.left - 1, timer := bindWindow } } := by
  simp only [State.countAccess, hb, if_neg (show ¬ b.left ≤ 1 by omega)]

theorem State.countAccess_unbound (hb : s.bind = none) : s.countAccess = s := by
  simp only [State.countAccess, hb]

/-- BIND_COUNT_END is the access that is made with one access left and counted. -/
theorem bindCountEndBy_of_counted {a : Access} {b : Bind} (hb : s.bind = some b) (hl : b.left = 1)
    (hs : s.busy ≠ some .deviceReset) (h : ∃ u, runAccess a s = u.countAccess ∧ s.AccessMade u) :
    bindCountEndBy a s = runAccess a s ∧ (runAccess a s).bind = none := by
  obtain ⟨u, hu, hmade⟩ := h
  have hend : runAccess a s = u.endBind := by
    rw [hu, State.countAccess_last (hmade.bind.trans hb) hl.le]
  have hbind : (runAccess a s).bind = none := by
    rw [hend, State.bind_endBind]
  have hreset : (runAccess a s).inReset = false := by
    rw [hend, State.inReset, decide_eq_false_iff_not]
    exact State.busy_endBind (hmade.reset hs)
  have hlast : s.lastAccess = true := by
    simp only [State.lastAccess, hb, hl, decide_true]
  refine ⟨if_pos ?_, hbind⟩
  simp [hlast, hbind, hreset]

end

/-- Settles O26: an access is made with the bind as it was, and then counted. -/
theorem bindEndsByCountOrByExpiry : Obligations.BindEndsByCountOrByExpiry := by
  refine fun s => ⟨State.countAccess_unbound, fun b hb hl => State.countAccess_more hb hl,
    fun b hb hl => State.countAccess_last hb hl.le, fun b c op rest hb hl hs hc hop => ?_,
    fun b tr hb hl hs ht hj => ?_,
    fun b hb htimer => ?_⟩
  · have hop : op.toNat ≠ 0x04 ∧ op.toNat ≠ 0x05 ∧ op.toNat ≠ 0x0F := by
      simp only [List.mem_cons, List.not_mem_nil, or_false, not_or] at hop
      bv_omega
    obtain ⟨h4, h5, hF⟩ := hop
    obtain ⟨hend, hbind⟩ := bindCountEndBy_of_counted (a := .command (op :: rest)) hb hl hs
      (commandWrite_counted hs fun _ hd => decodeOpcode_counted hd h4 h5 hF)
    exact ⟨_, congrArg Host.Outcome.next hend, exec_command hc s, hbind⟩
  · refine ⟨fun hw => ?_, fun hw v => ?_⟩
    · have hread : runAccess .readByte s = readByteAs tr s := by simp [runAccess, dataReadByte, ht, hw]
      obtain ⟨hend, hbind⟩ := bindCountEndBy_of_counted (a := .readByte) hb hl hs
        (by rw [hread]; exact readByteAs_counted hj s)
      exact ⟨_, congrArg Host.Outcome.next hend, rfl, hbind⟩
    · have hwrite : runAccess (.writeByte v) s = writeByteAs tr v s := by simp [runAccess, dataWriteByte, ht, hw]
      obtain ⟨hend, hbind⟩ := bindCountEndBy_of_counted (a := .writeByte v) hb hl hs
        (by rw [hwrite]; exact writeByteAs_counted hj v s)
      exact ⟨_, congrArg Host.Outcome.next hend, rfl, hbind⟩
  · have hexpiry : bindExpiryOf s = (s.report .bindExpired .event none).endBind := by
      simp only [bindExpiryOf, hb, if_pos htimer]
    exact congrArg Host.Outcome.next hexpiry

end Sys2Proof.Machine

end

section

namespace Sys2Proof.Machine

-- One theorem at a time, as above.
set_option deprecated.oldSectionVars true

/-! ## The device reset and the pins (R137, R159, R160) -/

/-! ### What the commands do to the pins' own side -/

section

variable {s t : State} {c : Instr}

theorem State.serial_countAccess (s : State) : s.countAccess.serial = s.serial := underWayBlind_countAccess.serial s

theorem bindCommand_serial (n : Byte) (s : State) : (bindCommand n s).serial = s.serial := by
  unfold bindCommand
  split
  · rfl
  · exact State.serial_countAccess _

theorem aimCommand_serial (port n : Byte) (s : State) : (aimCommand port n s).serial = s.serial := by
  unfold aimCommand
  split
  · rfl
  · exact State.serial_countAccess _

/-- A command transaction leaves the pins' side, or begins a device reset. -/
theorem commandWrite_serial (bytes : List Byte) (s : State) :
    (commandWrite bytes s).serial = s.serial ∨ (commandWrite bytes s).serial = s.serial.cut := by
  unfold commandWrite
  dsimp only
  split
  · exact .inl rfl
  · exact .inl (State.serial_countAccess _)
  · exact .inl (State.serial_countAccess _)
  · unfold carryOut
    split
    · next c _ =>
      by_cases hc : c.countsApart
      · cases c with
        | bind n => exact .inl (bindCommand_serial n _)
        | aim port n => exact .inl (aimCommand_serial port n _)
        | deviceReset => exact .inr rfl
        | _ => cases hc
      · obtain ⟨u, hu, hmade⟩ := performCommand_counted hc { s with transfer := none }
        rw [hu, State.serial_countAccess]
        exact .inl hmade.serial
    · exact .inl (State.serial_countAccess _)
    · exact .inl (State.serial_countAccess _)

theorem scanExamine_serial (s : State) : (scanExamine s).serial = s.serial := by
  unfold scanExamine
  split
  · split
    · dsimp only
      split <;> rfl
    · rfl
  · rfl

theorem searchCompleteOf_serial (s : State) : (searchCompleteOf s).serial = s.serial := by
  unfold searchCompleteOf
  split
  · rfl
  · split <;> rfl
  · rfl

theorem bindExpiryOf_serial (s : State) : (bindExpiryOf s).serial = s.serial := by
  unfold bindExpiryOf
  split
  · split
    · exact underWayBlind_endBind.serial _
    · rfl
  · rfl

theorem takeEndingResetOf_serial (e : EngineId) (s : State) : (takeEndingResetOf e s).serial = s.serial := by
  rcases takeEndingResetOf_cases e s with h | ⟨r, -, -, h⟩ <;> rw [h]
  rw [State.serial_completePortReset]
  rfl

theorem statusReadBytes_serial (n : Nat) (s : State) : (statusReadBytes n s).serial = s.serial := by
  unfold statusReadBytes
  split <;> rfl

theorem bindCountEndBy_serial (a : Access) (s : State) :
    (bindCountEndBy a s).serial = s.serial ∨ (bindCountEndBy a s).serial = s.serial.cut := by
  unfold bindCountEndBy
  split
  · cases a with
    | command bytes => exact commandWrite_serial bytes s
    | readByte => exact .inl ((serialBlind_dataReadPart .byte).serial s)
    | writeByte b => exact .inl ((serialBlind_dataWritePart (.byte b)).serial s)
  · exact .inl rfl

theorem execHost_serial (hc : isHost c = true) (he : exec c s = .next t) :
    t.serial = s.serial ∨ t.serial = s.serial.cut := by
  rcases isHost_cases hc with ⟨bytes, hb⟩ | ⟨a, rfl⟩ | ⟨n, rfl⟩ | ⟨part, rfl⟩ | ⟨part, rfl⟩
  · rw [exec_command hb] at he
    cases he
    exact commandWrite_serial bytes s
  · cases he; exact bindCountEndBy_serial a s
  · cases he; exact .inl (statusReadBytes_serial n s)
  · cases he; exact .inl ((serialBlind_dataReadPart part).serial s)
  · cases he; exact .inl ((serialBlind_dataWritePart part).serial s)

/-- The commands that are neither the host's nor a device reset's leave the pins' side. -/
theorem execOther_serial (hhost : isHost c = false) (hreset : isReset c = false) (he : exec c s = .next t) :
    t.serial = s.serial := by
  have kept {u : State} (h : u.hostSide = s.hostSide) : u.serial = s.serial := State.serial_of_hostSide h
  cases c <;> simp only [isHost, isReset, Bool.true_eq_false] at hhost hreset <;> cases he
  case frameReceive => exact kept (hostSide_receiveFrame s _ _)
  case silenceExpiry => exact kept (hostSide_silenceExpiryOf s _)
  case idleFrameSend => exact kept (hostSide_idleFrameSendOf s _)
  case transmitMessage => exact kept (hostSide_transmitMessageOf s _)
  case takePower => exact kept (hostSide_takePowerAt s _)
  case takeDetached => exact kept (hostSide_takeDetachedAt s _)
  case takeEnergy => exact kept (hostSide_takeEnergyAt s _)
  case takeLost => exact kept (hostSide_takeLostAt s _)
  case takeResultPass => exact kept (hostSide_takeResultPassAt s _)
  case takeResultFail => exact kept (hostSide_takeResultFailAt s _)
  case takePage => exact kept (hostSide_takePageAt s _)
  case listenExpiry => exact kept (hostSide_listenExpiryAt s _)
  case trainExpiry => exact kept (hostSide_trainExpiryAt s _)
  case takeWithdraw => exact kept (hostSide_takeWithdrawAt s _)
  case guardFiring => exact kept (hostSide_guardFiringAt s _)
  case autoProbeRequest => exact kept (hostSide_autoProbeRequestAt s _)
  case powerNotice => exact kept (hostSide_powerNoticeAt s _)
  case dispatch => exact kept (hostSide_dispatchHead s)
  case resumption => exact kept (hostSide_resumeHead s)
  case preemption => exact kept (hostSide_preemptForHead s)
  case waitExpiry => exact kept (hostSide_waitExpiryOf s _)
  case sweepCompletion => exact kept (hostSide_sweepCompletionOf s _ _)
  case takeEndingComplete => exact kept (hostSide_takeEndingCompleteOf s _)
  case takeEndingAborted => exact kept (hostSide_takeEndingAbortedOf s _)
  case takeEndingReset => exact takeEndingResetOf_serial _ s
  case bindExpiry => exact bindExpiryOf_serial s
  case searchComplete => exact searchCompleteOf_serial s
  case scanExamineRecord => exact scanExamine_serial s
  case resetnRelease => rfl

/-- No command but the beginning of a device reset reaches the pins' side. -/
theorem exec_serial (he : exec c s = .next t) : t.serial = s.serial ∨ t.serial = s.serial.cut := by
  cases hhost : isHost c with
  | true => exact execHost_serial hhost he
  | false =>
    cases hreset : isReset c with
    | false => exact .inl (execOther_serial hhost hreset he)
    | true =>
      rcases isReset_cases hreset with rfl | rfl | rfl <;> cases he
      · unfold resetnFalls
        split
        · exact .inr rfl
        · exact .inl rfl
      · exact .inr rfl
      · unfold deviceResetCompletes
        split <;> exact .inl rfl

end

/-! ### The reset's beginning and its completion -/

section

variable {s : State}

theorem exec_resetnAssert (h : s.resetN = true) :
    exec .resetnAssert s = .next { s.beginDeviceReset with resetN := false } :=
  congrArg Host.Outcome.next (if_pos h)

/-- DEVICE-RESET passes the jam check, and is taken while the part is not BUSY (R159, R165). -/
theorem exec_deviceReset (h : s.busy = none) (extra : List Byte) :
    exec (.deviceReset extra) s = .next ({ s with transfer := none } : State).beginDeviceReset := by
  rw [exec_command (bytes := 0x0F#8 :: extra) rfl, commandWrite_passes h rfl]
  rfl

theorem exec_deviceResetComplete (hb : s.busy = some .deviceReset) (hr : s.resetN = true) :
    exec .deviceResetComplete s = .next s.endDeviceReset :=
  congrArg Host.Outcome.next (if_pos (by simp [State.inReset, hb, hr]))

theorem exec_deviceResetComplete_held (hr : s.resetN = false) : exec .deviceResetComplete s = .next s :=
  congrArg Host.Outcome.next (if_neg (by simp [hr]))

/-! ### A transaction that a device reset has ended -/

theorem State.sckRises_keeps (hs : s.serial.selected = true) (sdi : Bool) :
    (s.sckRises sdi).serial.selected = true ∧ (s.sckRises sdi).serial.ended = s.serial.ended := by
  have sampled : (s.serial.sampled sdi).selected = s.serial.selected
      ∧ (s.serial.sampled sdi).ended = s.serial.ended := by
    unfold Serial.sampled
    split <;> exact ⟨rfl, rfl⟩
  obtain ⟨hselected, hended⟩ := sampled
  unfold State.sckRises
  split
  · dsimp only
    split
    · rw [lastByteSampled_serial]
      exact ⟨hselected.trans hs, hended⟩
    · exact ⟨hselected.trans hs, hended⟩
  · exact ⟨hs, rfl⟩

theorem State.sckFalls_keeps (hs : s.serial.selected = true) :
    s.sckFalls.serial.selected = true ∧ s.sckFalls.serial.ended = s.serial.ended := by
  unfold State.sckFalls
  split <;> exact ⟨hs, rfl⟩

/-- Until CSn rises the transaction stays ended. -/
theorem State.edge_keeps_ended (hs : s.serial.selected = true) (he : s.serial.ended = true) {e : PinEdge}
    (hrises : e ≠ .csnRises) : (s.edge e).serial.selected = true ∧ (s.edge e).serial.ended = true := by
  cases e with
  | csnFalls =>
    rw [State.edge, State.csnFalls, if_pos hs]
    exact ⟨hs, he⟩
  | sckRises sdi => exact he ▸ State.sckRises_keeps hs sdi
  | sckFalls => exact he ▸ State.sckFalls_keeps hs
  | csnRises => exact absurd rfl hrises

/-- With CSn's rising nothing of it is taken. -/
theorem State.csnRises_ended (hs : s.serial.selected = true) (he : s.serial.ended = true) :
    s.csnRises = { s with serial := s.serial.deselected } := by
  unfold State.csnRises
  rw [if_pos hs]
  dsimp only
  split
  · rfl
  · rw [he]
    rfl

/-- The eighth bit of the control byte, as the seven before it left the pins. -/
theorem State.sckRises_control {b : Byte} (hs : s.serial.selected = true) (hsck : s.serial.sck = false)
    (hbytes : s.serial.bytes = [])
    (hbits : s.serial.bits =
      [b.getLsbD 7, b.getLsbD 6, b.getLsbD 5, b.getLsbD 4, b.getLsbD 3, b.getLsbD 2, b.getLsbD 1]) :
    s.sckRises (b.getLsbD 0) = controlSampled (transactionKind b)
      (s.withSerial { s.serial with sck := true, bytes := [b], bits := [] }) := by
  have hsampled : s.serial.sampled (b.getLsbD 0) = { s.serial with sck := true, bytes := [b], bits := [] } := by
    rw [Serial.sampled, if_neg (by simp [hbits]), hbits, ← bitsOfByte_eq, byteOfBits_bitsOfByte, hbytes]
    rfl
  rw [State.sckRises, if_pos (by simp [hs, hsck]), hsampled]
  change lastByteSampled (s.withSerial { s.serial with sck := true, bytes := [b], bits := [] }) = _
  rw [lastByteSampled_control _ b rfl]

theorem controlSampled_ended (he : s.serial.ended = true) (b : Byte) :
    (b.getLsbD 7 ≠ b.getLsbD 6 → (controlSampled (transactionKind b) s).transfer
        = some { write := b.getLsbD 6, judgment := .inReset, raised := false, fetched := none })
      ∧ (b.getLsbD 7 = true → b.getLsbD 6 = true → (controlSampled (transactionKind b) s).serial.image = []) := by
  have ended {u : State} (hu : u.serial.ended = true) : u.asEnded.transfer = u.transfer.map Transfer.cut := by
    rw [State.asEnded, if_pos hu]
  unfold transactionKind
  cases b.getLsbD 7 <;> cases b.getLsbD 6
  · exact ⟨fun h => absurd rfl h, fun h => nomatch h⟩
  · exact ⟨fun _ => ended he, fun h => nomatch h⟩
  · exact ⟨fun _ => ended he, fun _ h => nomatch h⟩
  · exact ⟨fun h => absurd rfl h, fun _ _ => if_pos he⟩

end

/-- Settles O5: the causes and the completion, the pins' side under every command, and the transaction that the reset
has ended. -/
theorem deviceResetBeginsAtEveryCauseAndCompletes : Obligations.DeviceResetBeginsAtEveryCauseAndCompletes := by
  refine ⟨fun s => ?_, fun s => ⟨fun hb hr => ?_, exec_deviceResetComplete_held, rfl⟩, fun c s t => exec_serial,
    fun s hs he => ⟨fun e => State.edge_keeps_ended hs he, State.csnRises_ended hs he, fun b hsck hbytes hbits => ?_⟩⟩
  · intro underReset cut
    have begun : underReset s.beginDeviceReset :=
      ⟨rfl, statusByte_beginDeviceReset s, alertAsserted_beginDeviceReset s, rfl, rfl, rfl⟩
    refine ⟨fun hr => ⟨_, exec_resetnAssert hr, ?_, rfl, rfl⟩, ⟨_, rfl, begun, rfl, rfl⟩, fun extra hb => ?_⟩
    · exact begun
    · exact ⟨_, exec_deviceReset hb extra, begun, rfl, rfl⟩
  · refine ⟨_, exec_deviceResetComplete hb hr, ?_, statusByte_endDeviceReset s, rfl, rfl, rfl, rfl⟩
    rw [State.endDeviceReset, State.beginDeviceReset, hr]
    rfl
  · intro t
    have ht : t = controlSampled (transactionKind b)
        (s.withSerial { s.serial with sck := true, bytes := [b], bits := [] }) :=
      State.sckRises_control hs hsck hbytes hbits
    rw [ht]
    exact controlSampled_ended (by exact he) b

end Sys2Proof.Machine

end

section

namespace Sys2Proof.Machine

-- One theorem at a time, as above.
set_option deprecated.oldSectionVars true

/-! ## A data transaction, judged once (R138, R143, R159, R165) -/

section

variable {s : State} {t : Transfer}

/-- A data transaction is never one of the commands that pass the jam check. -/
theorem State.judge_data (s : State) : s.judge false =
    if s.busy = some .deviceReset then .inReset else if s.errors.jammed then .jammed
      else if s.busy ≠ none then .busy else .taken := by
  simp only [State.judge, State.inReset, decide_eq_true_eq, Bool.not_false, Bool.and_true, Option.isSome_iff_ne_none]

theorem State.sdo_raiseOnce (s : State) (t : Transfer) (c : Cause) (p : Option Port) :
    (s.raiseOnce t c p).sdo = s.sdo := by
  unfold State.raiseOnce
  split <;> rfl

theorem fetch_untaken (ht : s.transfer = some t) (h : t.write = true ∨ t.judgment ≠ .taken) : fetchReadByte s = s := by
  simp only [fetchReadByte, ht]
  exact if_pos (by simpa using h)

theorem dataReadByte_of_read (ht : s.transfer = some t) (hw : t.write = false) : dataReadByte s = readByteAs t s := by
  simp only [dataReadByte, ht, hw, Bool.false_eq_true, if_false]

theorem dataWriteByte_of_write (ht : s.transfer = some t) (hw : t.write = true) (v : Byte) :
    dataWriteByte v s = writeByteAs t v s := by
  simp only [dataWriteByte, ht, hw, if_true]

theorem readByteAs_busy (hj : t.judgment = .busy) (s : State) :
    readByteAs t s = ({ s.raiseOnce t .busy none with sdo := s.sdo ++ [0x00#8] } : State).countAccess := by
  rw [← s.sdo_raiseOnce t .busy none]
  simp only [readByteAs, hj]
  rfl

theorem readByteAs_jammed (hj : t.judgment = .jammed) (s : State) :
    readByteAs t s = ({ s with sdo := s.sdo ++ [0x00#8] } : State).countAccess := by
  simp only [readByteAs, hj]
  rfl

theorem readByteAs_inReset (hj : t.judgment = .inReset) (s : State) :
    readByteAs t s = { s with sdo := s.sdo ++ [0x00#8] } := by
  simp only [readByteAs, hj]
  rfl

theorem writeByteAs_busy (hj : t.judgment = .busy) (v : Byte) (s : State) :
    writeByteAs t v s = (s.raiseOnce t .busy none).countAccess := by
  simp only [writeByteAs, hj]

theorem writeByteAs_jammed (hj : t.judgment = .jammed) (v : Byte) (s : State) : writeByteAs t v s = s.countAccess := by
  simp only [writeByteAs, hj]

theorem writeByteAs_inReset (hj : t.judgment = .inReset) (v : Byte) (s : State) : writeByteAs t v s = s := by
  simp only [writeByteAs, hj]

/-! ## A transaction as its bits (R137) -/

theorem bytesAndCut_cut {cut : List Bool} (h : cut.length < 8) : bytesAndCut cut = ([], cut) := by
  unfold bytesAndCut
  split
  · simp only [List.length_cons] at h
    omega
  · rfl

theorem bytesAndCut_bits (bytes : List Byte) {cut : List Bool} (h : cut.length < 8) :
    bytesAndCut (bytes.flatMap bitsOfByte ++ cut) = (bytes, cut) := by
  induction bytes with
  | nil => exact bytesAndCut_cut h
  | cons b l ih =>
    rw [List.flatMap_cons, List.append_assoc]
    change (byteOfBits (bitsOfByte b) :: (bytesAndCut (l.flatMap bitsOfByte ++ cut)).1,
      (bytesAndCut (l.flatMap bitsOfByte ++ cut)).2) = _
    rw [byteOfBits_bitsOfByte, ih]

/-- Eight bits are the byte they make. -/
theorem bitsOfByte_byteOfBits {l : List Bool} (h : l.length = 8) : bitsOfByte (byteOfBits l) = l := by
  match l, h with
  | [a, b, c, d, e, f, g, i], _ =>
    have h8 := (bits_of_bytesAndCut [a, b, c, d, e, f, g, i]).1
    exact (h8.trans (by simp [bytesAndCut])).symm

section

variable {bits cut : List Bool} {control : Byte} {bytes : List Byte} (h : bytesAndCut bits = (control :: bytes, cut))
  (page1 : Bool)

include h

theorem transactionCommands_commandWrite (hk : transactionKind control = .commandWrite) :
    transactionCommands page1 bits = [hostCommand page1 bytes] := by
  simp only [transactionCommands, h, hk]

theorem transactionCommands_dataWrite (hk : transactionKind control = .dataWrite) :
    transactionCommands page1 bits = .dataWrite .control :: bytes.map fun b => .dataWrite (.byte b) := by
  simp only [transactionCommands, h, hk]

theorem transactionCommands_dataRead (hk : transactionKind control = .dataRead) :
    transactionCommands page1 bits =
      .dataRead .control :: (bytes.flatMap fun _ => [.dataRead .fetch, .dataRead .byte])
        ++ if cut = [] then [] else [.dataRead .fetch] := by
  simp only [transactionCommands, h, hk, List.isEmpty_iff]

theorem transactionCommands_statusRead (hk : transactionKind control = .statusRead) :
    transactionCommands page1 bits = [.statusRead bytes.length] := by
  simp only [transactionCommands, h, hk]

end

theorem transactionCommands_cut (page1 : Bool) {cut : List Bool} (h : cut.length < 8) :
    transactionCommands page1 cut = [] := by
  rw [transactionCommands, bytesAndCut_cut h]

/-- Whatever row of the table a COMMAND-WRITE is, it carries the bytes clocked in. -/
theorem commandBytes_hostCommand (page1 : Bool) (bytes : List Byte) :
    commandBytes (hostCommand page1 bytes) = some bytes := by
  rcases bytes with _ | ⟨op, operands⟩
  · rfl
  · have hop {n : Nat} (h : op.toNat = n) : op = BitVec.ofNat 8 n := by
      rw [← h, BitVec.ofNat_toNat, BitVec.setWidth_eq]
    unfold hostCommand
    dsimp only
    split
    case h_16 => rfl
    all_goals
      next h =>
        rw [hop h]
        cases page1 <;> rfl

theorem transactionKind_commandWrite {b : Byte} (h7 : b.getLsbD 7 = false) (h6 : b.getLsbD 6 = false) :
    transactionKind b = .commandWrite := by
  rw [transactionKind, h7, h6]

theorem transactionKind_dataWrite {b : Byte} (h7 : b.getLsbD 7 = false) (h6 : b.getLsbD 6 = true) :
    transactionKind b = .dataWrite := by
  rw [transactionKind, h7, h6]

theorem transactionKind_dataRead {b : Byte} (h7 : b.getLsbD 7 = true) (h6 : b.getLsbD 6 = false) :
    transactionKind b = .dataRead := by
  rw [transactionKind, h7, h6]

theorem transactionKind_statusRead {b : Byte} (h7 : b.getLsbD 7 = true) (h6 : b.getLsbD 6 = true) :
    transactionKind b = .statusRead := by
  rw [transactionKind, h7, h6]

end

end Sys2Proof.Machine

end

section

namespace Sys2Proof.Machine

-- One theorem at a time, as above.
set_option deprecated.oldSectionVars true

/-! ## The pins edge by edge (R137) -/

section

variable {s : State}

/-! ### CSn high -/

section

variable (h : s.serial.selected = false)

include h

theorem State.csnFalls_deselected : s.csnFalls = { s with transfer := none, serial := .begun } :=
  if_neg (by rw [h]; exact Bool.false_ne_true)

theorem State.sckRises_deselected (sdi : Bool) : s.sckRises sdi = s := by
  simp only [State.sckRises, h, Bool.false_and, Bool.false_eq_true, if_false]

theorem State.sckFalls_deselected : s.sckFalls = s := by
  simp only [State.sckFalls, h, Bool.false_and, Bool.false_eq_true, if_false]

theorem State.csnRises_deselected : s.csnRises = s := by
  simp only [State.csnRises, h, Bool.false_eq_true, if_false]

end

/-! ### CSn low: a bit is sampled -/

theorem State.csnFalls_selected (h : s.serial.selected = true) : s.csnFalls = s := if_pos h

theorem State.sckRises_high (h : s.serial.sck = true) (sdi : Bool) : s.sckRises sdi = s := by
  simp only [State.sckRises, h, Bool.not_true, Bool.and_false, Bool.false_eq_true, if_false]

theorem State.sckFalls_low (h : s.serial.sck = false) : s.sckFalls = s := by
  simp only [State.sckFalls, h, Bool.and_false, Bool.false_eq_true, if_false]

/-- The bits sampled since CSn fell. -/
def Serial.allBits (t : Serial) : List Bool := t.bytes.flatMap bitsOfByte ++ t.bits

theorem Serial.allBits_sampled {t : Serial} (h : t.bits.length < 8) (sdi : Bool) :
    (t.sampled sdi).allBits = t.allBits ++ [sdi] ∧ (t.sampled sdi).bits.length < 8 := by
  unfold Serial.sampled Serial.allBits
  split
  · next hcut => exact ⟨by simp, by simp; omega⟩
  · next hwhole =>
    have hbits : (t.bits ++ [sdi]).length = 8 := by simp; omega
    exact ⟨by simp [bitsOfByte_byteOfBits hbits], by simp⟩

/-- A bit sampled may make a byte whole, and a byte made whole may take an image; the pins' side is no other. -/
theorem State.serial_sckRises (h1 : s.serial.selected = true) (h2 : s.serial.sck = false) (sdi : Bool) :
    ∃ image, (s.sckRises sdi).serial = { s.serial.sampled sdi with image := image } := by
  simp only [State.sckRises, h1, h2, Bool.not_false, Bool.and_self, if_true]
  split
  · exact ⟨_, lastByteSampled_serial _⟩
  · exact ⟨_, rfl⟩

theorem Serial.sampled_rest (t : Serial) (sdi : Bool) :
    (t.sampled sdi).sck = true ∧ (t.sampled sdi).selected = t.selected ∧ (t.sampled sdi).out = t.out
      ∧ (t.sampled sdi).ended = t.ended := by
  unfold Serial.sampled
  split <;> exact ⟨rfl, rfl, rfl, rfl⟩

/-! ### CSn low: SDO changes -/

/-- The next bit of a byte, most significant bit first. -/
theorem bitsOfByte_getD (b : Byte) {n : Nat} (h : n < 8) : (bitsOfByte b).getD n false = b.getLsbD (7 - n) := by
  simp [bitsOfByte, List.getD_eq_getElem?_getD, h]

/-- A falling edge, by the transaction it leaves under way and the byte that is then shifted out. -/
theorem State.sckFalls_shifts (h1 : s.serial.selected = true) (h2 : s.serial.sck = true) {x : Option Transfer}
    {v : Option Byte} (hx : (if s.serial.bits = [] then fetchReadByte s else s) = { s with transfer := x })
    (hv : ({ s with transfer := x } : State).sdoByte? = v) :
    s.sckFalls = { s with
      transfer := x
      serial := { s.serial with
        sck := false
        out := s.serial.out ++ (v.map fun b => b.getLsbD (7 - s.serial.bits.length)).toList } } := by
  simp only [State.sckFalls, h1, h2, Bool.and_self, if_true, List.isEmpty_iff, hx, hv]

theorem sdoByte_statusRead {control : Byte} {bytes : List Byte} (h : s.serial.bytes = control :: bytes)
    (hk : transactionKind control = .statusRead) : s.sdoByte? = some (s.serial.imageByte bytes.length) := by
  simp only [State.sdoByte?, h, hk]

theorem sdoByte_dataRead {control : Byte} {bytes : List Byte} {t : Transfer} (h : s.serial.bytes = control :: bytes)
    (hk : transactionKind control = .dataRead) (ht : s.transfer = some t) :
    s.sdoByte? = some (if t.judgment = .taken then (s.readUnderWay t).1 else 0) := by
  simp only [State.sdoByte?, h, hk, ht, Option.map_some]

/-! ### A falling edge, by the kind of the transaction -/

/-- What a falling edge makes of the part, by the transaction under way and the bits SDO changes to. -/
def State.Shifts (s : State) (x : Option Transfer) (out : List Bool) : Prop :=
  s.sckFalls = { s with transfer := x, serial := { s.serial with sck := false, out := s.serial.out ++ out } }

section

variable {control : Byte} {bytes : List Byte} {t : Transfer} (h1 : s.serial.selected = true) (h2 : s.serial.sck = true)

include h1 h2

theorem State.shifts_nothing (hf : fetchReadByte s = s) (hv : s.sdoByte? = none) : s.Shifts s.transfer [] :=
  State.sckFalls_shifts h1 h2 (by rw [hf, ite_self]) hv

theorem State.shifts_byte (hl : s.serial.bits.length < 8) {v : Byte} (hf : fetchReadByte s = s)
    (hv : s.sdoByte? = some v) :
    s.Shifts s.transfer [(bitsOfByte v).getD s.serial.bits.length false] := by
  rw [bitsOfByte_getD v hl]
  exact State.sckFalls_shifts h1 h2 (by rw [hf, ite_self]) hv

theorem State.shifts_none_of_no_bytes (hb : s.serial.bytes = []) (ht : s.transfer = none) : s.Shifts none [] := by
  rw [← ht]
  exact State.shifts_nothing h1 h2 (fetch_none ht) (by simp only [State.sdoByte?, hb])

variable (hb : s.serial.bytes = control :: bytes)

include hb

theorem State.shifts_of_writing (hc : control.getLsbD 7 = false) (ht : ∀ t, s.transfer = some t → t.write = true) :
    s.Shifts s.transfer [] := by
  have hkind : transactionKind control = .commandWrite ∨ transactionKind control = .dataWrite := by
    cases h6 : control.getLsbD 6 with
    | false => exact .inl (transactionKind_commandWrite hc h6)
    | true => exact .inr (transactionKind_dataWrite hc h6)
  refine State.shifts_nothing h1 h2 ?_ (sdoByte_none hb hkind)
  cases hs : s.transfer with
  | none => exact fetch_none hs
  | some t => exact fetch_write hs (ht t hs)

variable (hl : s.serial.bits.length < 8)

include hl

theorem State.shifts_of_statusRead (hk : transactionKind control = .statusRead) (ht : s.transfer = none) :
    s.Shifts none [(bitsOfByte (s.serial.imageByte bytes.length)).getD s.serial.bits.length false] := by
  rw [← ht]
  exact State.shifts_byte h1 h2 hl (fetch_none ht) (sdoByte_statusRead hb hk)

variable (hk : transactionKind control = .dataRead) (ht : s.transfer = some t)

include hk ht

theorem State.shifts_of_untaken (hj : t.judgment ≠ .taken) : s.Shifts s.transfer [false] := by
  have hv : s.sdoByte? = some 0 := by rw [sdoByte_dataRead hb hk ht, if_neg hj]
  have hbit : (bitsOfByte 0).getD s.serial.bits.length false = false := by
    rw [bitsOfByte_getD 0 hl]
    simp
  rw [← hbit]
  exact State.shifts_byte h1 h2 hl (fetch_untaken ht (.inr hj)) hv

/-- The first bit of a byte of a DATA-READ: the byte is fetched. -/
theorem State.shifts_of_begun (hw : t.write = false) (hj : t.judgment = .taken) (hbits : s.serial.bits = []) :
    s.Shifts (some { t with fetched := some (s.readUnderWay t) })
      [(bitsOfByte (s.readUnderWay t).1).getD s.serial.bits.length false] := by
  rw [bitsOfByte_getD _ hl]
  refine State.sckFalls_shifts h1 h2 (v := some (s.readUnderWay t).1) ?_ ?_
  · rw [if_pos hbits]
    simp [fetchReadByte, ht, hw, hj]
  · exact (sdoByte_dataRead (s := { s with transfer := some { t with fetched := some (s.readUnderWay t) } }) hb hk
      rfl).trans (congrArg some (if_pos hj))

theorem State.shifts_of_taken (hj : t.judgment = .taken) (hbits : s.serial.bits ≠ []) :
    s.Shifts s.transfer [(bitsOfByte (s.readUnderWay t).1).getD s.serial.bits.length false] := by
  rw [bitsOfByte_getD _ hl]
  exact State.sckFalls_shifts h1 h2 (by rw [if_neg hbits])
    (by rw [sdoByte_dataRead (t := t) hb hk ht, if_pos hj])

end

end

end Sys2Proof.Machine

end

section

namespace Sys2Proof.Machine

-- One theorem at a time, as above.
set_option deprecated.oldSectionVars true

/-! ## A whole transaction does what its commands do (R137) -/

section

variable {s u v : State}

/-! ### What the pins keep is not compared -/

theorem sameButUnderWay_refl (s : State) : SameButUnderWay s s := rfl

theorem SameButUnderWay.withSerial (h : SameButUnderWay u v) (x : Serial) : SameButUnderWay (u.withSerial x) v := h

theorem SameButUnderWay.to_withSerial (h : SameButUnderWay u v) (x : Serial) : SameButUnderWay u (v.withSerial x) :=
  congrArg (State.withSerial · x) h

theorem SameButUnderWay.trans (h : SameButUnderWay s u) (k : SameButUnderWay u v) : SameButUnderWay s v :=
  (congrArg (State.withUnderWay · v.serial v.transfer) h).trans k

/-- The byte begun after the last one is compared with nothing. -/
theorem sameButUnderWay_fetch (s : State) : SameButUnderWay (fetchReadByte s) s := by
  unfold SameButUnderWay fetchReadByte
  split
  · split <;> rfl
  · rfl

/-! ### CSn rises -/

theorem csnRises_none (h1 : s.serial.selected = true) (h2 : s.serial.bytes = []) :
    s.csnRises = s.withSerial s.serial.deselected := by
  simp only [State.csnRises, h1, if_true, h2]
  rfl

theorem csnRises_data {control : Byte} {bytes : List Byte} (h1 : s.serial.selected = true)
    (h2 : s.serial.bytes = control :: bytes) (hk : transactionKind control ≠ .commandWrite) :
    s.csnRises = s.withSerial s.serial.deselected := by
  simp only [State.csnRises, h1, if_true, h2, hk, decide_false, Bool.and_false, Bool.false_eq_true, if_false]
  rfl

theorem csnRises_commandWrite {control : Byte} {bytes : List Byte} (h1 : s.serial.selected = true)
    (h2 : s.serial.bytes = control :: bytes) (h3 : s.serial.ended = false)
    (hk : transactionKind control = .commandWrite) :
    s.csnRises = commandWrite bytes (s.withSerial s.serial.deselected) := by
  simp only [State.csnRises, h1, if_true, h2, h3, hk, decide_true, Bool.not_false, Bool.and_self]
  rfl

/-! ### The control byte -/

/-- The part as CSn has fallen. -/
def State.begun (s : State) : State := s.withUnderWay .begun none

theorem Serial.begun_atByte : Serial.begun.AtByte [] := ⟨rfl, rfl, rfl, rfl⟩

theorem asEnded_of_not (h : s.serial.ended = false) : s.asEnded = s := by
  unfold State.asEnded
  rw [h]
  rfl

variable {control : Byte}

theorem controlSampled_dataWrite {y : Serial} (hy : y.ended = false) :
    controlSampled .dataWrite (s.withSerial y) = (beginTransfer true s).withSerial y :=
  asEnded_of_not (s := (beginTransfer true s).withSerial y) hy

theorem controlSampled_dataRead {y : Serial} (hy : y.ended = false) :
    controlSampled .dataRead (s.withSerial y) = (dataReadPart .control s).withSerial y :=
  asEnded_of_not (s := (dataReadPart .control s).withSerial y) hy

theorem controlSampled_statusRead {y : Serial} (hy : y.ended = false) (hs : s.transfer = none) :
    controlSampled .statusRead (s.withSerial y) = s.withSerial { y with image := statusImage s } := by
  change takeImage (s.withSerial y) = _
  unfold takeImage
  rw [show (s.withSerial y).serial.ended = false from hy, ← hs]
  rfl

/-- The control byte clocked in. -/
theorem clockControl (s : State) (control : Byte) : ∃ y z : Serial,
    let u := fetchReadByte (controlSampled (transactionKind control) (s.begun.withSerial y))
    (bitsOfByte control).foldl State.clockBit s.begun = u.withSerial z
    ∧ y.ended = false ∧ z.AtByte [control] ∧ z.image = u.serial.image ∧ z.ended = false
    ∧ (transactionKind control = .commandWrite → z.out = []) := by
  obtain ⟨y, z, e, hbytes, -, hy, hz, himage, hended, hout⟩ := clockByte (s := s.begun) Serial.begun_atByte control
  have hc : lastByteSampled (s.begun.withSerial y) = controlSampled (transactionKind control) (s.begun.withSerial y) :=
    lastByteSampled_control _ control hbytes
  rw [hc] at e himage hout
  refine ⟨y, z, e, hy, hz, himage, hended, fun hk => hout rfl ?_⟩
  rw [hk]
  exact sdoByte_none (s := s.begun.withSerial y) hbytes (.inl hk)

theorem sameButUnderWay_statusRead (n : Nat) (s : State) :
    SameButUnderWay { s.begun with sdo := (statusReadBytes n (s.withSerial Serial.idle)).sdo }
      (statusReadBytes n (s.withSerial Serial.idle)) := by
  unfold statusReadBytes
  split <;> rfl

/-! ### The bytes after it, and the rising of CSn -/

/-- A byte cut short. -/
theorem clockCut {bs : List Byte} (h : s.serial.AtByte bs) {cut : List Bool} (hl : cut.length < 8) : ∃ z : Serial,
    cut.foldl State.clockBit s = s.withSerial z ∧ z.selected = true ∧ z.bytes = bs ∧ z.ended = s.serial.ended
      ∧ (s.sdoByte? = none → z.out = s.serial.out) := by
  obtain ⟨out, e, hout⟩ := clockBits_cut h.selected h.sck cut (by rw [h.bits]; simpa using hl)
  exact ⟨_, e, h.selected, h.bytes, rfl, hout⟩

/-- The part as CSn rises: whatever the bits have clocked since it fell. -/
theorem edges_of_deselected (h : s.serial.selected = false) (bits : List Bool) :
    s.edges (transactionEdges bits) = (bits.foldl State.clockBit s.begun).csnRises := by
  rw [edges_transaction, State.csnFalls_deselected h]
  rfl

section

variable {cut : List Bool} (h : s.serial.selected = false) (hl : cut.length < 8)

include h hl

theorem edges_cut : SameButUnderWay (s.edges (transactionEdges cut)) s := by
  obtain ⟨z, e, hselected, hbytes, -⟩ := clockCut (s := s.begun) Serial.begun_atByte hl
  rw [edges_of_deselected h, e, csnRises_none hselected hbytes]
  rfl

variable (bytes : List Byte)

theorem edges_commandWrite (hk : transactionKind control = .commandWrite) :
    s.edges (transactionEdges ((control :: bytes).flatMap bitsOfByte ++ cut))
      = commandWrite bytes (s.withSerial Serial.idle) := by
  obtain ⟨y, z, e, -, hz, -, hended, hout⟩ := clockControl s control
  have hu : fetchReadByte (controlSampled (transactionKind control) (s.begun.withSerial y)) = s.begun.withSerial y := by
    rw [hk]
    exact fetch_none rfl
  obtain ⟨z', e', hz', hout', hended'⟩ := commandBytes_run (s := s.begun.withSerial z) hz hk rfl bytes
  obtain ⟨x, ex, hselected, hbytes, hxended, hxout⟩ := clockCut (s := s.begun.withSerial z') hz' hl
  have hxout : x.out = [] :=
    (hxout (sdoByte_none (s := s.begun.withSerial z') hz'.bytes (.inl hk))).trans (hout'.trans (hout hk))
  have hidle : x.deselected = Serial.idle := by rw [Serial.deselected, hxout]; rfl
  rw [edges_of_deselected h, List.flatMap_cons, List.foldl_append, List.foldl_append, e, hu]
  change (cut.foldl State.clockBit
    ((bytes.flatMap bitsOfByte).foldl State.clockBit (s.begun.withSerial z))).csnRises = _
  rw [e']
  change (cut.foldl State.clockBit (s.begun.withSerial z')).csnRises = _
  rw [ex, csnRises_commandWrite (s := (s.begun.withSerial z').withSerial x) hselected hbytes
    (hxended.trans (hended'.trans hended)) hk]
  change commandWrite bytes (s.begun.withSerial x.deselected) = _
  rw [hidle]
  rfl

/-- The bytes of a transaction that is no command, by what they leave. -/
theorem edges_of_run {z z' : Serial} (hk : transactionKind control ≠ .commandWrite)
    (e : (bitsOfByte control).foldl State.clockBit s.begun = u.withSerial z)
    (e' : (bytes.flatMap bitsOfByte).foldl State.clockBit (u.withSerial z) = v.withSerial z')
    (hz' : z'.AtByte (control :: bytes)) :
    SameButUnderWay (s.edges (transactionEdges ((control :: bytes).flatMap bitsOfByte ++ cut))) v := by
  obtain ⟨x, ex, hselected, hbytes, -⟩ := clockCut (s := v.withSerial z') hz' hl
  rw [edges_of_deselected h, List.flatMap_cons, List.foldl_append, List.foldl_append, e, e', ex,
    csnRises_data (s := (v.withSerial z').withSerial x) hselected hbytes hk]
  rfl

theorem edges_dataWrite (hk : transactionKind control = .dataWrite) :
    SameButUnderWay (s.edges (transactionEdges ((control :: bytes).flatMap bitsOfByte ++ cut)))
      ((s.withSerial Serial.idle).runAll (.dataWrite .control :: bytes.map fun b => .dataWrite (.byte b))) := by
  obtain ⟨y, z, e, hy, hz, -⟩ := clockControl s control
  have hu : fetchReadByte (controlSampled (transactionKind control) (s.begun.withSerial y))
      = (beginTransfer true s.begun).withSerial y := by
    rw [hk, controlSampled_dataWrite hy]
    exact fetch_write rfl rfl
  rw [hu, State.withSerial_withSerial] at e
  obtain ⟨z', e', hz'⟩ := dataWrite_run (s := (beginTransfer true s.begun).withSerial z) hz hk rfl rfl bytes
  rw [runAll_dataWrite_withSerial, State.withSerial_withSerial] at e'
  have hrun : (s.withSerial Serial.idle).runAll (.dataWrite .control :: bytes.map fun b => .dataWrite (.byte b))
      = ((beginTransfer true s.begun).runAll (bytes.map fun b => .dataWrite (.byte b))).withSerial Serial.idle :=
    runAll_dataWrite_withSerial bytes (beginTransfer true s.begun) Serial.idle
  rw [hrun]
  exact (edges_of_run h hl bytes (by simp [hk]) e e' hz').to_withSerial Serial.idle

theorem edges_dataRead (hk : transactionKind control = .dataRead) :
    SameButUnderWay (s.edges (transactionEdges ((control :: bytes).flatMap bitsOfByte ++ cut)))
      ((s.withSerial Serial.idle).runAll
        (.dataRead .control :: (bytes.flatMap fun _ => [.dataRead .fetch, .dataRead .byte])
          ++ if cut = [] then [] else [.dataRead .fetch])) := by
  obtain ⟨y, z, e, hy, hz, -⟩ := clockControl s control
  have hu : fetchReadByte (controlSampled (transactionKind control) (s.begun.withSerial y))
      = (fetchReadByte (dataReadPart .control s.begun)).withSerial y := by
    rw [hk, controlSampled_dataRead hy, serialBlind_fetchReadByte]
  rw [hu, State.withSerial_withSerial] at e
  obtain ⟨z', e', hz'⟩ := dataRead_run (s := (fetchReadByte (dataReadPart .control s.begun)).withSerial z)
    (r := dataReadPart .control s.begun) hz hk rfl bytes
  let last := (dataReadPart .control s.begun).runAll (bytes.flatMap fun _ => [.dataRead .fetch, .dataRead .byte])
  have hlast : (s.withSerial Serial.idle).runAll
      (.dataRead .control :: (bytes.flatMap fun _ => [.dataRead .fetch, .dataRead .byte]))
        = last.withSerial Serial.idle :=
    runAll_dataRead_withSerial bytes (dataReadPart .control s.begun) Serial.idle
  have hsame := edges_of_run h hl bytes (by simp [hk]) e e' hz'
  rw [State.runAll, List.foldl_append]
  change SameButUnderWay _ (State.runAll ((s.withSerial Serial.idle).runAll
    (.dataRead .control :: (bytes.flatMap fun _ => [.dataRead .fetch, .dataRead .byte]))) _)
  rw [hlast]
  split
  · exact (hsame.trans (sameButUnderWay_fetch last)).to_withSerial Serial.idle
  · change SameButUnderWay _ (fetchReadByte (last.withSerial Serial.idle))
    rw [serialBlind_fetchReadByte]
    exact hsame.to_withSerial Serial.idle

theorem edges_statusRead (hk : transactionKind control = .statusRead) :
    SameButUnderWay (s.edges (transactionEdges ((control :: bytes).flatMap bitsOfByte ++ cut)))
      ((s.withSerial Serial.idle).runAll [.statusRead bytes.length]) := by
  obtain ⟨y, z, e, hy, hz, himage, -⟩ := clockControl s control
  have hu : fetchReadByte (controlSampled (transactionKind control) (s.begun.withSerial y))
      = s.begun.withSerial { y with image := statusImage s } := by
    rw [hk, controlSampled_statusRead hy rfl]
    exact fetch_none rfl
  rw [hu] at e himage
  obtain ⟨z', e', hz', -⟩ := statusRead_run (s := s.begun.withSerial z) hz hk rfl bytes
  replace himage : z.image = statusImage s := himage
  have hsdo : (statusReadBytes bytes.length (s.withSerial Serial.idle)).sdo
      = if bytes = [] then s.sdo else [] ++ (List.range bytes.length).map fun k => z.imageByte (0 + k) := by
    cases bytes with
    | nil => rfl
    | cons b l =>
      rw [statusReadBytes_sdo (n := (b :: l).length) (Nat.succ_pos _), statusBytes_eq,
        if_neg (List.cons_ne_nil b l), List.nil_append]
      refine List.map_congr_left fun k _ => ?_
      rw [Serial.imageByte, himage, Nat.zero_add]
      rfl
  have hread := sameButUnderWay_statusRead bytes.length s
  rw [hsdo] at hread
  exact (edges_of_run h hl bytes (by simp [hk]) e e' hz').trans hread

end

/-- So clocked, a transaction does what its commands do one after another. -/
theorem edges_eq_commands (h : s.serial.selected = false) (bits : List Bool) :
    SameButUnderWay (s.edges (transactionEdges bits))
      ((s.withSerial Serial.idle).runAll (transactionCommands s.page bits)) := by
  obtain ⟨hbits, hl⟩ := bits_of_bytesAndCut bits
  cases hcut : bytesAndCut bits with
  | mk all cut =>
    rw [hcut] at hbits hl
    dsimp only at hbits hl
    cases all with
    | nil =>
      rw [hbits, List.flatMap_nil, List.nil_append, transactionCommands_cut s.page hl]
      exact (edges_cut h hl).to_withSerial Serial.idle
    | cons control bytes =>
      cases hk : transactionKind control with
      | commandWrite =>
        have hrun : (s.withSerial Serial.idle).runAll [hostCommand s.page bytes]
            = commandWrite bytes (s.withSerial Serial.idle) := by
          simp only [State.runAll, List.foldl_cons, List.foldl_nil, exec_hostCommand]
        rw [transactionCommands_commandWrite hcut s.page hk, hrun, hbits, edges_commandWrite h hl bytes hk]
        exact sameButUnderWay_refl _
      | dataWrite =>
        rw [transactionCommands_dataWrite hcut s.page hk, hbits]
        exact edges_dataWrite h hl bytes hk
      | dataRead =>
        rw [transactionCommands_dataRead hcut s.page hk, hbits]
        exact edges_dataRead h hl bytes hk
      | statusRead =>
        rw [transactionCommands_statusRead hcut s.page hk, hbits]
        exact edges_statusRead h hl bytes hk

end

end Sys2Proof.Machine

end

section

namespace Sys2Proof.Machine

-- One theorem at a time, as above.
set_option deprecated.oldSectionVars true

/-! ## What SDO gives in a reading transaction (R137, R139) -/

section

variable {s : State} {v : Byte}

/-! ### The bits SDO changes to -/

/-- Bits of a byte that stays cut short: SDO changes to the bits of its byte after those it has given. -/
theorem clockBits_out (h1 : s.serial.selected = true) (h2 : s.serial.sck = false) (hv : s.sdoByte? = some v)
    (bits : List Bool) (h3 : s.serial.bits.length + bits.length < 8) :
    (bits.foldl State.clockBit s).serial.out
      = s.serial.out ++ ((bitsOfByte v).drop (s.serial.bits.length + 1)).take bits.length := by
  induction bits generalizing s with
  | nil => simp
  | cons b l ih =>
    rw [List.length_cons] at h3
    have hlength : s.serial.bits.length + 1 < (bitsOfByte v).length := by simp [bitsOfByte]; omega
    have hbit : (bitsOfByte v)[s.serial.bits.length + 1] = v.getLsbD (6 - s.serial.bits.length) := by
      simp only [bitsOfByte, List.getElem_map, List.getElem_range]
      congr 1
      omega
    have e := clockBit_cut h1 h2 (by omega) b
    have hout : (s.clockBit b).serial.out = s.serial.out ++ [v.getLsbD (6 - s.serial.bits.length)] := by
      rw [e, hv]
      rfl
    have hbits : (s.clockBit b).serial.bits.length = s.serial.bits.length + 1 := by
      rw [e, State.serial_withSerial, List.length_append, List.length_singleton]
    rw [List.foldl_cons, ih (s := s.clockBit b) (by rw [e]; exact h1) (by rw [e]; exact h2) (by rw [e]; exact hv)
      (by rw [hbits]; omega), hout, hbits, List.drop_eq_getElem_cons hlength, hbit]
    simp

theorem sdoByte_withOut (s : State) (out : List Bool) :
    (s.withSerial { s.serial with sck := false, out := out }).sdoByte? = s.sdoByte? := rfl

/-- The eighth bit: SDO changes to the first bit of the byte then shifted out. -/
theorem clockBit_whole_out (h1 : s.serial.selected = true) (h2 : s.serial.sck = false) (h3 : s.serial.bits.length = 7)
    (b : Bool) :
    (s.clockBit b).serial.out = s.serial.out ++ ((s.clockBit b).sdoByte?.map fun w => w.getLsbD 7).toList := by
  rw [clockBit_whole h1 h2 h3, sdoByte_withOut, State.serial_withSerial, serialBlind_fetchReadByte.serial,
    lastByteSampled_serial]
  rfl

/-- A whole byte: the seven bits after its first one, and the first bit of the byte then shifted out. -/
theorem clockByte_out {bs : List Byte} (h : s.serial.AtByte bs) (b : Byte) :
    let u := (bitsOfByte b).foldl State.clockBit s
    u.serial.out = s.serial.out ++ (s.sdoByte?.map fun v => (bitsOfByte v).drop 1).getD []
      ++ (u.sdoByte?.map fun w => w.getLsbD 7).toList := by
  have hlength : s.serial.bits.length
      + [b.getLsbD 7, b.getLsbD 6, b.getLsbD 5, b.getLsbD 4, b.getLsbD 3, b.getLsbD 2, b.getLsbD 1].length < 8 := by
    rw [h.bits]
    simp
  obtain ⟨out, e, hnone⟩ := clockBits_cut h.selected h.sck _ hlength
  have hout : out = s.serial.out ++ (s.sdoByte?.map fun v => (bitsOfByte v).drop 1).getD [] := by
    cases hv : s.sdoByte? with
    | none => rw [hnone hv]; exact (List.append_nil _).symm
    | some v =>
      have hsome := clockBits_out h.selected h.sck hv _ hlength
      rw [e, h.bits] at hsome
      exact hsome
  rw [bitsOfByte_eq, List.foldl_append]
  generalize List.foldl State.clockBit s _ = w at e ⊢
  intro u
  have hu := clockBit_whole_out (s := w) (by rw [e]; exact h.selected) (by rw [e]; exact h.sck) (by simp [e, h.bits])
    (b.getLsbD 0)
  rw [show w.serial.out = out by rw [e]; rfl, hout] at hu
  exact hu

/-! ### The bytes the host is given -/

theorem SameOutsidePorts.sdo {s t : State} (h : SameOutsidePorts s t) : t.sdo = s.sdo := by
  rw [← show { t with ports := s.ports } = s from h]

theorem State.sdo_completePortReset (s : State) (p : Port) (aborted : Bool) :
    (s.completePortReset p aborted).sdo = s.sdo := rfl

theorem State.sdo_endBind (s : State) : s.endBind.sdo = s.sdo := by
  have h : s.bindEnded.sdo = s.sdo := s.bindEnded_outside.sdo
  rw [State.endBind_eq]
  unfold State.finishSuspendedReset
  split
  · rw [State.sdo_completePortReset, h]
  · exact h

theorem State.sdo_countAccess (s : State) : s.countAccess.sdo = s.sdo := by
  unfold State.countAccess
  split
  · rfl
  · split
    · exact s.sdo_endBind
    · rfl

variable {t : Transfer} {control b : Byte} {bs shown : List Byte}

/-- A byte of a DATA-READ is shifted out, and its transaction stays a DATA-READ. -/
theorem readByteAs_read (ht : s.transfer = some t) (hw : t.write = false) :
    (∃ t', (readByteAs t s).transfer = some t' ∧ t'.write = false)
      ∧ (readByteAs t s).sdo = s.sdo ++ [if t.judgment = .taken then (s.readUnderWay t).1 else 0] := by
  cases hj : t.judgment with
  | taken =>
    simp only [readByteAs, hj, underWayBlind_countAccess.transfer, State.sdo_countAccess, if_true]
    exact ⟨⟨_, rfl, hw⟩, rfl⟩
  | busy =>
    rw [readByteAs_busy hj, underWayBlind_countAccess.transfer, State.sdo_countAccess]
    refine ⟨?_, rfl⟩
    change ∃ t', (s.raiseOnce t .busy none).transfer = some t' ∧ t'.write = false
    unfold State.raiseOnce
    split
    · exact ⟨t, ht, hw⟩
    · exact ⟨_, rfl, hw⟩
  | jammed =>
    rw [readByteAs_jammed hj, underWayBlind_countAccess.transfer, State.sdo_countAccess]
    exact ⟨⟨t, ht, hw⟩, rfl⟩
  | inReset =>
    rw [readByteAs_inReset hj]
    exact ⟨⟨t, ht, hw⟩, rfl⟩

theorem fetchReadByte_read (ht : s.transfer = some t) (hw : t.write = false) :
    (∃ t', (fetchReadByte s).transfer = some t' ∧ t'.write = false) ∧ (fetchReadByte s).sdo = s.sdo := by
  simp only [fetchReadByte, ht]
  split
  · exact ⟨⟨t, ht, hw⟩, rfl⟩
  · exact ⟨⟨_, rfl, hw⟩, rfl⟩

theorem clockByte_dataRead (h : s.serial.AtByte (control :: bs)) (hk : transactionKind control = .dataRead)
    (ht : s.transfer = some t) (hw : t.write = false) (hv : s.sdoByte? = some v) (b : Byte) :
    let u := (bitsOfByte b).foldl State.clockBit s
    u.serial.AtByte (control :: (bs ++ [b])) ∧ (∃ t', u.transfer = some t' ∧ t'.write = false)
      ∧ u.sdo = s.sdo ++ [v] := by
  obtain ⟨y, z, e, hbytes, -, -, hz, -⟩ := clockByte h b
  have hpart : dataReadPart .byte s = readByteAs t s := dataReadByte_of_read ht hw
  have hu : fetchReadByte (lastByteSampled (s.withSerial y)) = (fetchReadByte (readByteAs t s)).withSerial y := by
    rw [lastByteSampled_data _ control bs b hbytes, hk]
    change fetchReadByte (dataReadPart .byte (s.withSerial y)) = _
    rw [serialBlind_dataReadPart, serialBlind_fetchReadByte, hpart]
  rw [hu] at e
  obtain ⟨⟨t1, ht1, hw1⟩, hsdo⟩ := readByteAs_read ht hw
  obtain ⟨htransfer, hsame⟩ := fetchReadByte_read ht1 hw1
  rw [sdoByte_dataRead h.bytes hk ht, Option.some.injEq] at hv
  rw [hv] at hsdo
  intro u
  rw [show u = _ from e]
  exact ⟨hz, htransfer, hsame.trans hsdo⟩

theorem clockByte_statusRead (h : s.serial.AtByte (control :: bs)) (hk : transactionKind control = .statusRead)
    (ht : s.transfer = none) (hv : s.sdoByte? = some v) (b : Byte) :
    let u := (bitsOfByte b).foldl State.clockBit s
    u.serial.AtByte (control :: (bs ++ [b])) ∧ u.transfer = none ∧ u.sdo = (if bs = [] then [] else s.sdo) ++ [v] := by
  obtain ⟨z, e, hz, -⟩ := statusRead_run h hk ht [b]
  rw [List.flatMap_singleton] at e
  rw [sdoByte_statusRead h.bytes hk, Option.some.injEq] at hv
  intro u
  rw [show u = _ from e]
  refine ⟨hz, ht, ?_⟩
  rw [← hv]
  rfl

/-! ### From the control byte to the rising of CSn -/

/-- A reading transaction between two of its bytes: SDO has given the bytes `shown`, and the first bit of `v`. -/
def State.Reading (s : State) (control : Byte) (bs shown : List Byte) (v : Byte) : Prop :=
  s.serial.AtByte (control :: bs) ∧ s.sdoByte? = some v ∧ s.serial.out = shown.flatMap bitsOfByte ++ [v.getLsbD 7]
    ∧ shown.length = bs.length
    ∧ ((transactionKind control = .dataRead ∧ s.sdo = shown ∧ ∃ t, s.transfer = some t ∧ t.write = false)
      ∨ (transactionKind control = .statusRead ∧ (bs ≠ [] → s.sdo = shown) ∧ s.transfer = none))

theorem State.Reading.clockByte (h : s.Reading control bs shown v) (b : Byte) :
    ∃ w, ((bitsOfByte b).foldl State.clockBit s).Reading control (bs ++ [b]) (shown ++ [v]) w := by
  obtain ⟨hat, hv, hout, hlength, hkind⟩ := h
  have hnext {w : Byte} (hw : ((bitsOfByte b).foldl State.clockBit s).sdoByte? = some w) :
      ((bitsOfByte b).foldl State.clockBit s).serial.out = (shown ++ [v]).flatMap bitsOfByte ++ [w.getLsbD 7] := by
    rw [clockByte_out hat b, hw, hv, hout, List.flatMap_append, List.flatMap_singleton, List.append_assoc _ [_]]
    rfl
  have hlength' : (shown ++ [v]).length = (bs ++ [b]).length := by simp [hlength]
  rcases hkind with ⟨hk, hsdo, t, ht, hw⟩ | ⟨hk, hsdo, ht⟩
  · obtain ⟨hat', ⟨t', ht', hw'⟩, hsdo'⟩ := clockByte_dataRead hat hk ht hw hv b
    have hsome := sdoByte_dataRead hat'.bytes hk ht'
    exact ⟨_, hat', hsome, hnext hsome, hlength', .inl ⟨hk, by rw [hsdo', hsdo], t', ht', hw'⟩⟩
  · obtain ⟨hat', ht', hsdo'⟩ := clockByte_statusRead hat hk ht hv b
    have hsome := sdoByte_statusRead hat'.bytes hk
    refine ⟨_, hat', hsome, hnext hsome, hlength', .inr ⟨hk, fun _ => ?_, ht'⟩⟩
    rw [hsdo']
    split
    · next hbs => rw [List.length_eq_zero_iff.1 (hlength.trans (congrArg List.length hbs))]
    · next hbs => rw [hsdo hbs]

theorem State.Reading.clockBytes (h : s.Reading control bs shown v) (bytes : List Byte) :
    ∃ shown' w, ((bytes.flatMap bitsOfByte).foldl State.clockBit s).Reading control (bs ++ bytes) shown' w := by
  induction bytes generalizing s bs shown v with
  | nil => exact ⟨shown, v, by rwa [List.append_nil]⟩
  | cons b l ih =>
    obtain ⟨w, hw⟩ := h.clockByte b
    rw [List.flatMap_cons, List.foldl_append, List.append_cons]
    exact ih hw

/-- After its control byte a reading transaction has begun the first byte. -/
theorem reading_begins (s : State) (hc : control.getLsbD 7 = true) :
    ∃ v, ((bitsOfByte control).foldl State.clockBit s.begun).Reading control [] [] v := by
  obtain ⟨y, z, e, hy, hz, -⟩ := clockControl s control
  have hat : ((bitsOfByte control).foldl State.clockBit s.begun).serial.AtByte [control] := by rw [e]; exact hz
  have hout := clockByte_out (s := s.begun) Serial.begun_atByte control
  dsimp only at hout
  have hfirst {w : Byte} (hw : ((bitsOfByte control).foldl State.clockBit s.begun).sdoByte? = some w) :
      ((bitsOfByte control).foldl State.clockBit s.begun).serial.out = [].flatMap bitsOfByte ++ [w.getLsbD 7] := by
    rw [hout, hw]
    rfl
  cases h6 : control.getLsbD 6 with
  | false =>
    have hk := transactionKind_dataRead hc h6
    obtain ⟨⟨t, ht, hw⟩, hsdo⟩ := fetchReadByte_read (s := (dataReadPart .control s.begun).withSerial y) rfl rfl
    rw [hk, controlSampled_dataRead hy] at e
    have htransfer : ((bitsOfByte control).foldl State.clockBit s.begun).transfer = some t := by rw [e]; exact ht
    have hsome := sdoByte_dataRead hat.bytes hk htransfer
    exact ⟨_, hat, hsome, hfirst hsome, rfl, .inl ⟨hk, by rw [e]; exact hsdo, t, htransfer, hw⟩⟩
  | true =>
    have hk := transactionKind_statusRead hc h6
    rw [hk, controlSampled_statusRead hy rfl, fetch_none (s := s.begun.withSerial _) rfl] at e
    have hsome := sdoByte_statusRead hat.bytes hk
    exact ⟨_, hat, hsome, hfirst hsome, rfl, .inr ⟨hk, fun h => absurd rfl h, by rw [e]; rfl⟩⟩

/-- SDO gives each byte read, most significant bit first, and the first bits of the one cut short. -/
theorem edges_shows (h : s.serial.selected = false) (hc : control.getLsbD 7 = true) {bytes : List Byte}
    (hbytes : bytes ≠ []) {cut : List Bool} (hl : cut.length < 8) :
    let t := s.edges (transactionEdges ((control :: bytes).flatMap bitsOfByte ++ cut))
    t.sdo.length = bytes.length ∧ t.serial.out.take (8 * bytes.length) = t.sdo.flatMap bitsOfByte
      ∧ t.serial.out.length = 8 * bytes.length + cut.length + 1 := by
  obtain ⟨v, hbegun⟩ := reading_begins s hc
  obtain ⟨shown, w, hat, hw, hout, hlength, hkind⟩ := hbegun.clockBytes bytes
  intro t
  have ht : t = (cut.foldl State.clockBit
      ((bytes.flatMap bitsOfByte).foldl State.clockBit
        ((bitsOfByte control).foldl State.clockBit s.begun))).csnRises := by
    simp only [t, edges_of_deselected h, List.flatMap_cons, List.foldl_append]
  generalize (bytes.flatMap bitsOfByte).foldl State.clockBit _ = u at ht hat hw hout hkind
  have hkind' : transactionKind control ≠ .commandWrite ∧ u.sdo = shown := by
    rcases hkind with ⟨hk, hsdo, -⟩ | ⟨hk, hsdo, -⟩
    · exact ⟨by simp [hk], hsdo⟩
    · exact ⟨by simp [hk], hsdo hbytes⟩
  obtain ⟨hk, hsdo⟩ := hkind'
  replace hlength : shown.length = bytes.length := hlength
  have hcut := clockBits_out hat.selected hat.sck hw cut (by rw [hat.bits]; simpa using hl)
  obtain ⟨x, e, hselected, hx, -⟩ := clockCut hat hl
  rw [e, State.serial_withSerial, hout, hat.bits] at hcut
  rw [e, csnRises_data (s := u.withSerial x) hselected hx hk] at ht
  have htsdo : t.sdo = shown := by rw [ht]; exact hsdo
  have htout : t.serial.out = x.out := by rw [ht]; rfl
  have hshown : (shown.flatMap bitsOfByte).length = 8 * bytes.length := by
    rw [← hlength]
    simp [List.length_flatMap, bitsOfByte, mul_comm]
  rw [htout, htsdo, hcut]
  refine ⟨hlength, ?_, ?_⟩
  · rw [List.append_assoc, ← hshown, List.take_left]
  · have hrest : (((bitsOfByte w).drop (([] : List Bool).length + 1)).take cut.length).length = cut.length := by
      simp [bitsOfByte]
      omega
    simp only [List.length_append, hshown, hrest, List.length_singleton]
    omega

end

end Sys2Proof.Machine

end

section

namespace Sys2Proof.Machine

-- One theorem at a time, as above.
set_option deprecated.oldSectionVars true

/-- Settles O33: the judgment and what it makes of each byte, the bits as commands, each edge, and a whole transaction
on the pins. -/
theorem dataTransactionsAreJudgedOnce : Obligations.DataTransactionsAreJudgedOnce := by
  refine ⟨fun s j hj => ⟨?_, ?_, fun t v ht => ?_⟩, fun page1 control bytes cut hl => ?_, fun _ _ => rfl,
    fun s h => ⟨State.csnFalls_deselected h, State.sckRises_deselected h, State.sckFalls_deselected h,
      State.csnRises_deselected h⟩, fun s h1 hl => ?_, fun s bits h => edges_eq_commands h bits,
    fun s control bytes cut h hc hbytes hl => edges_shows h hc hbytes hl⟩
  · rw [hj, ← s.judge_data]
    rfl
  · rw [hj, ← s.judge_data]
    rfl
  · intro raised
    refine ⟨fun h => ?_, fun hw => ?_, fun hw => ?_⟩
    · exact congrArg Host.Outcome.next (fetch_untaken ht (h.imp id id))
    · have hbyte : exec (.dataRead .byte) s = .next (readByteAs t s) :=
        congrArg Host.Outcome.next (dataReadByte_of_read ht hw)
      rw [hbyte]
      exact ⟨fun hj => congrArg Host.Outcome.next (readByteAs_busy hj s),
        fun hj => congrArg Host.Outcome.next (readByteAs_jammed hj s),
        fun hj => congrArg Host.Outcome.next (readByteAs_inReset hj s)⟩
    · have hbyte : exec (.dataWrite (.byte v)) s = .next (writeByteAs t v s) :=
        congrArg Host.Outcome.next (dataWriteByte_of_write ht hw v)
      rw [hbyte]
      exact ⟨fun hj => congrArg Host.Outcome.next (writeByteAs_busy hj v s),
        fun hj => congrArg Host.Outcome.next (writeByteAs_jammed hj v s),
        fun hj => congrArg Host.Outcome.next (writeByteAs_inReset hj v s)⟩
  · intro bitsOf commands kind
    have hcut : bytesAndCut ((control :: bytes).flatMap bitsOf ++ cut) = (control :: bytes, cut) :=
      bytesAndCut_bits _ hl
    simp only [kind, Prod.mk.injEq]
    refine ⟨fun ⟨h7, h6⟩ => ?_, fun ⟨h7, h6⟩ => ?_, fun ⟨h7, h6⟩ => ?_, fun ⟨h7, h6⟩ => ?_,
      transactionCommands_cut page1 hl⟩
    · exact ⟨_, transactionCommands_commandWrite hcut page1 (transactionKind_commandWrite h7 h6),
        commandBytes_hostCommand page1 bytes⟩
    · exact transactionCommands_dataWrite hcut page1 (transactionKind_dataWrite h7 h6)
    · exact transactionCommands_dataRead hcut page1 (transactionKind_dataRead h7 h6)
    · exact transactionCommands_statusRead hcut page1 (transactionKind_statusRead h7 h6)
  · intro bitsOf sampled begins shifts bitOf
    refine ⟨State.csnFalls_selected h1, State.sckRises_high, State.sckFalls_low, fun h2 sdi => ?_, fun h2 => ?_⟩
    · obtain ⟨image, himage⟩ := State.serial_sckRises h1 h2 sdi
      obtain ⟨hbits, hlength⟩ := Serial.allBits_sampled hl sdi
      obtain ⟨hsck, hselected, hout, hended⟩ := s.serial.sampled_rest sdi
      intro t
      rw [show t = _ from himage]
      exact ⟨hbits, hlength, hsck, hselected.trans h1, hout, hended⟩
    · refine ⟨State.shifts_none_of_no_bytes h1 h2, fun control bytes hb => ⟨State.shifts_of_writing h1 h2 hb,
        fun h7 h6 ht => State.shifts_of_statusRead h1 h2 hb hl (transactionKind_statusRead h7 h6) ht,
        fun t h7 h6 ht hw => ?_⟩⟩
      have hk := transactionKind_dataRead h7 h6
      exact ⟨State.shifts_of_untaken h1 h2 hb hl hk ht, fun hj => ⟨State.shifts_of_begun h1 h2 hb hl hk ht hw hj,
        State.shifts_of_taken h1 h2 hb hl hk ht hj⟩⟩

end Sys2Proof.Machine

end

section

namespace Sys2Proof.Machine

-- One theorem at a time, as above.
set_option deprecated.oldSectionVars true

/-! ## The Error Slot (R161 to R167, R170) -/

section

variable {x : ErrorSlot} {s : State}

/-! ### The taking of a report (R163) -/

theorem ErrorSlot.take_first (h : x.first = none) (c : Cause) (o : Origin) (p : Option Port) :
    x.take c o p = { x with first := some { cause := c, origin := o, port := p } } := by
  simp only [ErrorSlot.take, h]

theorem ErrorSlot.take_second {f : FirstError} (h : x.first = some f) (hnone : x.second = none) (c : Cause)
    (o : Origin) (p : Option Port) : x.take c o p = { x with second := some { cause := c, origin := o } } := by
  simp only [ErrorSlot.take, h, hnone]

theorem ErrorSlot.take_third {f : FirstError} {g : SecondError} (h : x.first = some f) (hheld : x.second = some g)
    (c : Cause) (o : Origin) (p : Option Port) : x.take c o p = { x with jammed := true } := by
  simp only [ErrorSlot.take, h, hheld]

theorem ErrorSlot.take_jammed {f : FirstError} {g : SecondError} (h : x.first = some f) (hheld : x.second = some g)
    (hj : x.jammed = true) (c : Cause) (o : Origin) (p : Option Port) : x.take c o p = x := by
  rw [ErrorSlot.take_third h hheld, ← hj]

/-- Every report leaves a first cause held: its own, or the one it found. -/
theorem ErrorSlot.isSome_first_take (x : ErrorSlot) (c : Cause) (o : Origin) (p : Option Port) :
    (x.take c o p).first.isSome = true := by
  cases h : x.first with
  | none => rw [ErrorSlot.take_first h]; rfl
  | some f =>
    have hkept : (x.take c o p).first = some f := by
      cases hsecond : x.second with
      | none => rw [ErrorSlot.take_second h hsecond, h]
      | some g => rw [ErrorSlot.take_third h hsecond, h]
    rw [hkept]
    rfl

theorem errBit_report (s : State) (c : Cause) (o : Origin) (p : Option Port) : errBit (s.report c o p) = true :=
  s.errors.isSome_first_take c o p

/-! ### ERR, JAM and ALERTn (R155, R156) -/

theorem statusByte_err (s : State) : (statusByte s).getLsbD 6 = errBit s := by
  obtain ⟨-, herr, -⟩ := getLsbD_levels s.busy.isSome (errBit s) s.errors.jammed (chgBit s) (lowBit s) s.bind.isSome
    s.page (qfullBit s)
  exact herr

theorem statusByte_jam (s : State) : (statusByte s).getLsbD 5 = s.errors.jammed := by
  obtain ⟨-, -, hjam, -⟩ := getLsbD_levels s.busy.isSome (errBit s) s.errors.jammed (chgBit s) (lowBit s)
    s.bind.isSome s.page (qfullBit s)
  exact hjam

theorem alertAsserted_of_errBit (h : errBit s = true) : alertAsserted s = true :=
  alertAsserted_iff.2 (.inl h)

theorem alertAsserted_of_not_errBit (h : errBit s = false) :
    alertAsserted s = (chgBit s && s.settings.alertChg || lowBit s && s.settings.alertLow) := by
  rw [alertAsserted, h, Bool.false_or]

/-! ### The image of the slot (R170) -/

/-- The five flags of the slot flags byte, bit 0 first. -/
theorem getLsbD_fiveFlags (b0 b1 b2 b3 b4 : Bool) :
    let v := byte (flag b0 1 + flag b1 2 + flag b2 4 + flag b3 8 + flag b4 16)
    v.getLsbD 0 = b0 ∧ v.getLsbD 1 = b1 ∧ v.getLsbD 2 = b2 ∧ v.getLsbD 3 = b3 ∧ v.getLsbD 4 = b4 ∧ v.toNat < 32 := by
  revert b0 b1 b2 b3 b4
  decide

theorem slotFlags_spec (x : ErrorSlot) :
    ((slotFlags x).getLsbD 0 = true ↔ ∃ f, x.first = some f ∧ f.origin = .event)
      ∧ ((slotFlags x).getLsbD 1 = true ↔ ∃ f, x.first = some f ∧ f.cause.retry = true)
      ∧ (slotFlags x).getLsbD 2 = x.second.isSome
      ∧ (slotFlags x).getLsbD 3 = x.jammed
      ∧ ((slotFlags x).getLsbD 4 = true ↔ ∃ f, x.second = some f ∧ f.origin = .event)
      ∧ (slotFlags x).toNat < 32 := by
  obtain ⟨hevent, hretry, hdouble, hjammed, hevent₂, hlt⟩ := getLsbD_fiveFlags
    (decide (x.first.map (fun f => f.origin) = some .event)) ((x.first.map fun f => f.cause.retry).getD false)
    x.second.isSome x.jammed (decide (x.second.map (fun f => f.origin) = some .event))
  refine ⟨?_, ?_, hdouble, hjammed, ?_, hlt⟩
  · rw [slotFlags, hevent, decide_eq_true_iff, Option.map_eq_some_iff]
  · rw [slotFlags, hretry]
    cases x.first <;> simp
  · rw [slotFlags, hevent₂, decide_eq_true_iff, Option.map_eq_some_iff]

/-! ### READ-ERROR and CLEAR-ERROR (R165, R166, R167) -/

/-- READ-ERROR passes the jam check. -/
theorem exec_readError (h : s.busy = none) (extra : List Byte) :
    exec (.readError extra) s
      = .next (({ s with transfer := none } : State).withReply (replyError s.errors)).countAccess := by
  rw [exec_command (bytes := 0x06#8 :: extra) rfl, commandWrite_passes h rfl]
  rfl

/-- CLEAR-ERROR passes the jam check. -/
theorem exec_clearError (h : s.busy = none) (extra : List Byte) :
    exec (.clearError extra) s = .next (clearErrorCommand { s with transfer := none }).countAccess := by
  rw [exec_command (bytes := 0x07#8 :: extra) rfl, commandWrite_passes h rfl]
  rfl

theorem errBit_clearErrorCommand (s : State) : errBit (clearErrorCommand s) = false := rfl

end

/-- Settles O28: a report is taken by how many errors the slot holds, and every report leaves a first cause held. -/
theorem errorSlotTakesAReport : Obligations.ErrorSlotTakesAReport := by
  intro c o p s t x
  refine ⟨rfl, fun h => ErrorSlot.take_first h c o p, fun f h hnone => ErrorSlot.take_second h hnone c o p,
    fun f g h hheld _ => ErrorSlot.take_third h hheld c o p,
    fun f g h hheld hj => ErrorSlot.take_jammed h hheld hj c o p, ?_, statusByte_jam t, ?_, rfl⟩
  · rw [statusByte_err, errBit_report]
  · exact alertAsserted_of_errBit (errBit_report s c o p)

/-- Settles O29: the image byte by byte, and the empty slot's levels. Both commands pass the jam check, so that only
BUSY is asked about. -/
theorem errorSlotIsReadAndCleared : Obligations.ErrorSlotIsReadAndCleared := by
  refine ⟨rfl, fun extra s h => ?_⟩
  intro s0 x cleared
  have hcleared : errBit cleared = false := errBit_clearErrorCommand s0
  refine ⟨⟨replyError x, exec_readError h extra, ?_⟩, exec_clearError h extra, ?_, statusByte_jam cleared, ?_⟩
  · obtain ⟨hevent, hretry, hdouble, hjammed, hevent₂, hlt⟩ := slotFlags_spec x
    refine ⟨rfl, ?_, ?_, hevent, hretry, hdouble, hjammed, hevent₂, hlt, ?_, rfl, rfl, rfl⟩
    · show byte ((x.first.map fun f => f.cause.code).getD 0) = _
      cases x.first <;> rfl
    · show errorPortByte x = _
      unfold errorPortByte
      cases x.first with
      | none => rfl
      | some f =>
        obtain ⟨cause, origin, port⟩ := f
        cases port <;> rfl
    · show byte ((x.second.map fun f => f.cause.code).getD 0) = _
      cases x.second <;> rfl
  · rw [statusByte_err, hcleared]
  · exact alertAsserted_of_not_errBit hcleared

end Sys2Proof.Machine

end

section

namespace Sys2Proof.Machine

-- One theorem at a time, as above.
set_option deprecated.oldSectionVars true

/-! ## The queue of commands (notes/assumptions/2.md, 3.md) -/

/-- Settles O1, by the branch of `step` that a queue with a front takes. -/
theorem stepRunsTheFrontCommand : Obligations.StepRunsTheFrontCommand := by
  intro c rest s h
  unfold step
  rw [h]

/-! ### The shared operations leave the commands waiting -/

section

variable {s t : State}

theorem State.pending_of_hostSide (h : t.hostSide = s.hostSide) : t.pending = s.pending := by
  change t.hostSide.pending = s.hostSide.pending
  rw [h]

theorem SameOutsidePorts.pending (h : SameOutsidePorts s t) : t.pending = s.pending :=
  State.pending_of_hostSide h.sameButQueue.hostSide

end

@[simp] theorem State.pending_completePortReset (s : State) (p : Port) (aborted : Bool) :
    (s.completePortReset p aborted).pending = s.pending := rfl

@[simp] theorem State.pending_endBind (s : State) : s.endBind.pending = s.pending := by
  have ended : s.bindEnded.pending = s.pending := s.bindEnded_outside.pending
  rw [State.endBind_eq, State.finishSuspendedReset]
  split
  · rw [State.pending_completePortReset, ended]
  · exact ended

@[simp] theorem State.pending_countAccess (s : State) : s.countAccess.pending = s.pending := by
  unfold State.countAccess
  split
  · rfl
  · split
    · exact s.pending_endBind
    · rfl

/-! ### A command transaction of the host -/

theorem setCursorCommand_pending (port offset : Byte) (s : State) :
    (setCursorCommand port offset s).pending = s.pending := by
  unfold setCursorCommand
  dsimp only
  split <;> rfl

theorem setWalkCommand_pending (mode : Byte) (s : State) : (setWalkCommand mode s).pending = s.pending := by
  unfold setWalkCommand
  split <;> rfl

theorem setPageCommand_pending (page : Byte) (s : State) : (setPageCommand page s).pending = s.pending := by
  unfold setPageCommand
  split <;> rfl

theorem bindCommand_pending (n : Byte) (s : State) : (bindCommand n s).pending = s.pending := by
  unfold bindCommand
  split
  · rfl
  · exact State.pending_countAccess _

theorem aimCommand_pending (port n : Byte) (s : State) : (aimCommand port n s).pending = s.pending := by
  unfold aimCommand
  split
  · rfl
  · exact State.pending_countAccess _

theorem searchCommand_pending (kind value start : Byte) (s : State) :
    (searchCommand kind value start s).pending = s.pending := by
  unfold searchCommand
  split
  · rfl
  · split
    · split <;> rfl
    · rfl

theorem portResetPort_pending (p : Port) (s : State) : (portResetPort p s).pending = s.pending := by
  obtain ⟨x, -, h⟩ := hostSide_portResetPort s p
  change (portResetPort p s).hostSide.pending = s.pending
  rw [h]
  rfl

theorem onPort_pending {f : Port → State → State} {s : State} (hf : ∀ p, (f p s).pending = s.pending) (b : Byte) :
    (onPort b f s).pending = s.pending := by
  unfold onPort
  split
  · exact hf _
  · rfl

/-- A command is made, and its access counted, with the commands waiting as they were. -/
theorem performCommand_pending (c : HostCommand) (s : State) : (performCommand c s).pending = s.pending := by
  have counted {u : State} (h : u.pending = s.pending) : u.countAccess.pending = s.pending :=
    u.pending_countAccess.trans h
  have kept {u : State} (h : u.hostSide = s.hostSide) : u.pending = s.pending := State.pending_of_hostSide h
  have machine (p : Port) (out : TcEffect) : (s.machineCommand p out).pending = s.pending :=
    kept (s.hostSide_machineCommand p out)
  cases c with
  | bind n => exact bindCommand_pending n s
  | aim port n => exact aimCommand_pending port n s
  | deviceReset => rfl
  | setCursor port offset => exact counted (setCursorCommand_pending port offset s)
  | setWalk mode => exact counted (setWalkCommand_pending mode s)
  | setPage page => exact counted (setPageCommand_pending page s)
  | readError => exact counted rfl
  | clearError => exact counted rfl
  | takeChange => exact counted (kept (hostSide_takeChangeCommand s))
  | search kind value start => exact counted (searchCommand_pending kind value start s)
  | park port => exact counted (onPort_pending (fun p => machine p _) port)
  | unpark port => exact counted (onPort_pending (fun p => machine p _) port)
  | restart port => exact counted (onPort_pending (fun p => kept (hostSide_restartPort s p)) port)
  | rearm port => exact counted (onPort_pending (fun p => machine p _) port)
  | portReset port => exact counted (onPort_pending (fun p => portResetPort_pending p s) port)
  | probe port pairs cls => exact counted (kept (hostSide_probeCommand s port pairs cls))
  | cancel port => exact counted (onPort_pending (fun p => kept (hostSide_cancelPort s p)) port)
  | retire port index => exact counted (kept (hostSide_retireCommand s port index))
  | clearFindings port => exact counted (kept (hostSide_clearFindingsCommand s port))

/-- However the transaction is judged and decoded. -/
theorem commandWrite_pending (bytes : List Byte) (s : State) : (commandWrite bytes s).pending = s.pending := by
  unfold commandWrite
  dsimp only
  split
  · rfl
  · exact State.pending_countAccess _
  · exact State.pending_countAccess _
  · unfold carryOut
    split
    · exact performCommand_pending _ _
    · exact State.pending_countAccess _
    · exact State.pending_countAccess _

/-! ### Data bytes and status reads -/

theorem State.pending_raiseOnce (s : State) (t : Transfer) (c : Cause) (p : Option Port) :
    (s.raiseOnce t c p).pending = s.pending := by
  unfold State.raiseOnce
  split <;> rfl

theorem writeByteEffect_pending (t : Transfer) (b : Byte) (s : State) :
    (writeByteEffect t b s).pending = s.pending := by
  unfold writeByteEffect
  split
  case h_1 | h_2 => exact s.pending_raiseOnce t _ _
  case h_3 | h_4 | h_5 => rfl
  case h_6 | h_7 | h_8 => exact State.pending_of_hostSide (s.hostSide_commit _ _)

theorem readByteAs_pending (t : Transfer) (s : State) : (readByteAs t s).pending = s.pending := by
  unfold readByteAs
  split
  · exact State.pending_countAccess _
  · exact (State.pending_countAccess _).trans (s.pending_raiseOnce t .busy none)
  · exact State.pending_countAccess _
  · rfl

theorem writeByteAs_pending (t : Transfer) (b : Byte) (s : State) : (writeByteAs t b s).pending = s.pending := by
  unfold writeByteAs
  split
  · exact (State.pending_countAccess _).trans (writeByteEffect_pending t b s)
  · exact (State.pending_countAccess _).trans (s.pending_raiseOnce t .busy none)
  · exact State.pending_countAccess s
  · rfl

theorem dataReadPart_pending (part : ReadPart) (s : State) : (dataReadPart part s).pending = s.pending := by
  cases part with
  | control => rfl
  | fetch =>
    unfold dataReadPart fetchReadByte
    dsimp only
    split
    · split <;> rfl
    · rfl
  | byte =>
    unfold dataReadPart dataReadByte
    dsimp only
    split
    · split
      · rfl
      · exact readByteAs_pending _ s
    · rfl

theorem dataWritePart_pending (part : WritePart) (s : State) : (dataWritePart part s).pending = s.pending := by
  cases part with
  | control => rfl
  | byte b =>
    unfold dataWritePart dataWriteByte
    dsimp only
    split
    · split
      · exact writeByteAs_pending _ b s
      · rfl
    · rfl

theorem statusReadBytes_pending (n : Nat) (s : State) : (statusReadBytes n s).pending = s.pending := by
  unfold statusReadBytes
  split <;> rfl

theorem runAccess_pending (a : Access) (s : State) : (runAccess a s).pending = s.pending := by
  cases a with
  | command bytes => exact commandWrite_pending bytes s
  | readByte => exact dataReadPart_pending .byte s
  | writeByte b => exact dataWritePart_pending (.byte b) s

theorem bindCountEndBy_pending (a : Access) (s : State) : (bindCountEndBy a s).pending = s.pending := by
  unfold bindCountEndBy
  split
  · exact runAccess_pending a s
  · rfl

/-! ### The events that reach the host's side: the scan, the ends of a bind and of a PORT-RESET, the device reset -/

theorem scanExamine_pending (s : State) : (scanExamine s).pending = s.pending := by
  unfold scanExamine
  split
  · split
    · dsimp only
      split <;> rfl
    · rfl
  · rfl

theorem searchCompleteOf_pending (s : State) : (searchCompleteOf s).pending = s.pending := by
  unfold searchCompleteOf
  split
  · rfl
  · split <;> rfl
  · rfl

theorem bindExpiryOf_pending (s : State) : (bindExpiryOf s).pending = s.pending := by
  unfold bindExpiryOf
  split
  · split
    · exact State.pending_endBind _
    · rfl
  · rfl

theorem takeEndingResetOf_pending (e : EngineId) (s : State) : (takeEndingResetOf e s).pending = s.pending := by
  rcases takeEndingResetOf_cases e s with h | ⟨r, -, -, h⟩ <;> rw [h]
  exact State.pending_completePortReset _ _ _

theorem resetnFalls_pending (s : State) : (resetnFalls s).pending = s.pending := by
  unfold resetnFalls
  split <;> rfl

theorem deviceResetCompletes_pending (s : State) : (deviceResetCompletes s).pending = s.pending := by
  unfold deviceResetCompletes
  split <;> rfl

/-! ### Every command -/

section

variable {c : Instr}

/-- A transaction of the host is carried out, whatever its judgment. -/
theorem execHost_completes (hc : isHost c = true) (s : State) : ∃ t, exec c s = .next t ∧ t.pending = s.pending := by
  rcases isHost_cases hc with ⟨bytes, hb⟩ | ⟨a, rfl⟩ | ⟨n, rfl⟩ | ⟨part, rfl⟩ | ⟨part, rfl⟩
  · exact ⟨_, exec_command hb s, commandWrite_pending bytes s⟩
  · exact ⟨_, rfl, bindCountEndBy_pending a s⟩
  · exact ⟨_, rfl, statusReadBytes_pending n s⟩
  · exact ⟨_, rfl, dataReadPart_pending part s⟩
  · exact ⟨_, rfl, dataWritePart_pending part s⟩

/-- An event of the part happens, or its conditions do not hold and the state is the same. -/
theorem execOther_completes (hc : isHost c = false) (s : State) : ∃ t, exec c s = .next t ∧ t.pending = s.pending := by
  have kept {u : State} (h : u.hostSide = s.hostSide) : u.pending = s.pending := State.pending_of_hostSide h
  cases c <;> simp only [isHost, Bool.true_eq_false] at hc <;> refine ⟨_, rfl, ?_⟩
  case frameReceive => exact kept (hostSide_receiveFrame s _ _)
  case silenceExpiry => exact kept (hostSide_silenceExpiryOf s _)
  case idleFrameSend => exact kept (hostSide_idleFrameSendOf s _)
  case transmitMessage => exact kept (hostSide_transmitMessageOf s _)
  case takePower => exact kept (hostSide_takePowerAt s _)
  case takeDetached => exact kept (hostSide_takeDetachedAt s _)
  case takeEnergy => exact kept (hostSide_takeEnergyAt s _)
  case takeLost => exact kept (hostSide_takeLostAt s _)
  case takeResultPass => exact kept (hostSide_takeResultPassAt s _)
  case takeResultFail => exact kept (hostSide_takeResultFailAt s _)
  case takePage => exact kept (hostSide_takePageAt s _)
  case listenExpiry => exact kept (hostSide_listenExpiryAt s _)
  case trainExpiry => exact kept (hostSide_trainExpiryAt s _)
  case takeWithdraw => exact kept (hostSide_takeWithdrawAt s _)
  case guardFiring => exact kept (hostSide_guardFiringAt s _)
  case autoProbeRequest => exact kept (hostSide_autoProbeRequestAt s _)
  case powerNotice => exact kept (hostSide_powerNoticeAt s _)
  case dispatch => exact kept (hostSide_dispatchHead s)
  case resumption => exact kept (hostSide_resumeHead s)
  case preemption => exact kept (hostSide_preemptForHead s)
  case waitExpiry => exact kept (hostSide_waitExpiryOf s _)
  case sweepCompletion => exact kept (hostSide_sweepCompletionOf s _ _)
  case takeEndingComplete => exact kept (hostSide_takeEndingCompleteOf s _)
  case takeEndingAborted => exact kept (hostSide_takeEndingAbortedOf s _)
  case takeEndingReset => exact takeEndingResetOf_pending _ s
  case bindExpiry => exact bindExpiryOf_pending s
  case searchComplete => exact searchCompleteOf_pending s
  case scanExamineRecord => exact scanExamine_pending s
  case resetnAssert => exact resetnFalls_pending s
  case powerUp => rfl
  case deviceResetComplete => exact deviceResetCompletes_pending s
  case resetnRelease => rfl

end

/-- Settles O3: a transaction of the host, or an event of the part. -/
theorem everyCommandCompletesAndKeepsTheQueue : Obligations.EveryCommandCompletesAndKeepsTheQueue := by
  intro c s
  cases hc : isHost c with
  | true => exact execHost_completes hc s
  | false => exact execOther_completes hc s

end Sys2Proof.Machine

end

section

namespace Sys2Proof.Machine

-- One theorem at a time, as above.
set_option deprecated.oldSectionVars true

/-! ## RETIRE and CLEAR-FINDINGS (R119, R120, R122, R123) -/

/-! ### The verdict edges of a change -/

section

variable {s : State} {p : Port} {r : LineRecord}

theorem verdictEdges_of_same_pairs {before after : LineRecord} (h : after.pairs = r.pairs) :
    verdictEdges before after = verdictEdges before r := by
  rw [verdictEdges_eq, verdictEdges_eq, h]

/-- An application leaves the verdicts of the applied record, so it has its edges. -/
theorem State.verdictEdges_commit (s : State) (p : Port) (before r : LineRecord) :
    verdictEdges before ((s.commit p r).port p).record = verdictEdges before r := by
  obtain ⟨-, -, -, -, -, hpairs, -⟩ := State.commit_rest s p r
  exact verdictEdges_of_same_pairs hpairs

/-- A change of the findings that gives no edge is an application of the record (R119, R120). -/
theorem State.changeFindings_of_no_edges
    (h : verdictEdges (s.port p).record (r.rederive s.settings) = []) :
    s.changeFindings p r = s.commit p (r.rederive s.settings) := by
  rw [State.changeFindings, State.verdictEdges_commit, h]

/-- A change of the findings hands the edges it gives to the Line Guard (R119, R120). -/
theorem State.changeFindings_changed (h : r.rederive s.settings ≠ (s.port p).record) :
    s.changeFindings p r =
      s.setPort p
        { s.port p with
          record := { (r.rederive s.settings).withEffectiveOffer with generation := (s.port p).record.generation + 1 }
          inChangeSet := true
          firings := (s.port p).firings
            ++ if verdictEdges (s.port p).record (r.rederive s.settings) = [] then []
               else [.edges (verdictEdges (s.port p).record (r.rederive s.settings))] } := by
  rw [State.changeFindings, State.verdictEdges_commit, State.commit_changed s h]
  cases verdictEdges (s.port p).record (r.rederive s.settings) with
  | nil => simp only [if_true, List.append_nil]
  | cons x xs => simp only [reduceCtorEq, if_false, State.modPort, State.port_setPort_self, State.setPort_setPort]

/-- A pair without findings has no verdict that gives an edge. -/
theorem source?_of_no_findings (set : Settings) (skew : Option Nat) (q : Pair) (acc : PairAccount) :
    (deriveAccount set [] skew q acc).verdict.source? = none := by
  rw [deriveAccount_of_clean (by simp) (by simp)]
  split_ifs <;> rfl

/-- A record without findings gives no edge. -/
theorem verdictEdges_of_no_findings (set : Settings) (before : LineRecord) (h : r.findings = []) :
    verdictEdges before (r.rederive set) = [] := by
  rw [verdictEdges_eq, List.filterMap_eq_nil_iff]
  intro q _
  split
  · rfl
  · rw [LineRecord.rederive, PerPair.get_build, h]
    exact source?_of_no_findings _ _ _ _

end

/-! ### The commands as transactions on page 1 -/

section

variable {s : State} {b : Byte}

theorem exec_retire {i : Byte} {u : State} (h : s.takesHost) (hpage : s.page = true) (extra : List Byte)
    (hu : retireCommand b i { s with transfer := none } = u) :
    exec (.retire (b :: i :: extra)) s = .next u.countAccess :=
  (exec_taken h rfl (by rw [hpage]; rfl)).trans (congrArg (fun v => Host.Outcome.next v.countAccess) hu)

theorem exec_clearFindings {u : State} (h : s.takesHost) (hpage : s.page = true) (extra : List Byte)
    (hu : clearFindingsCommand b { s with transfer := none } = u) :
    exec (.clearFindings (b :: extra)) s = .next u.countAccess :=
  (exec_taken h rfl (by rw [hpage]; rfl)).trans (congrArg (fun v => Host.Outcome.next v.countAccess) hu)

theorem retireCommand_of_bad_port (hb : portOf? b.toNat = none) (i : Byte) (s : State) :
    retireCommand b i s = s.refuse .badPort none := by
  rw [retireCommand, hb]

theorem clearFindingsCommand_of_bad_port (hb : portOf? b.toNat = none) (s : State) :
    clearFindingsCommand b s = s.refuse .badPort none := by
  rw [clearFindingsCommand, hb]

variable {p : Port} {i : Byte} {r : LineRecord}

theorem retireCommand_of_no_finding (hb : portOf? b.toNat = some p)
    (hi : (s.port p).record.findings.length ≤ i.toNat) : retireCommand b i s = s.refuse .notFound (some p) := by
  rw [retireCommand, hb]
  exact if_neg (Nat.not_lt.2 hi)

/-- A record without its finding at an index, derived again, is another record. -/
theorem rederive_ne_of_eraseIdx {set : Settings} {before : LineRecord} {i : Nat} (hi : i < before.findings.length)
    (hr : r.findings = before.findings.eraseIdx i) : r.rederive set ≠ before := by
  intro h
  have hlength := congrArg (fun r : LineRecord => r.findings.length) h
  change r.findings.length = before.findings.length at hlength
  rw [hr] at hlength
  exact Nat.succ_ne_self _ ((List.length_eraseIdx_add_one hi).trans hlength.symm)

/-- A RETIRE of a finding, by the record derived again without it. -/
theorem retireCommand_of_finding (hb : portOf? b.toNat = some p)
    (hi : i.toNat < (s.port p).record.findings.length)
    (hr : LineRecord.rederive s.settings
      { (s.port p).record with findings := (s.port p).record.findings.eraseIdx i.toNat } = r) :
    retireCommand b i s =
      (s.setPort p
        { s.port p with
          record := { r.withEffectiveOffer with generation := (s.port p).record.generation + 1 }
          inChangeSet := true
          firings := (s.port p).firings
            ++ if verdictEdges (s.port p).record r = [] then [] else [.edges (verdictEdges (s.port p).record r)]
        }).withReply replyAccepted := by
  rw [← hr, ← State.changeFindings_changed (rederive_ne_of_eraseIdx hi rfl), retireCommand, hb]
  exact if_pos hi

/-- A CLEAR-FINDINGS, by the record derived again without findings and flags. -/
theorem clearFindingsCommand_of_port (hb : portOf? b.toNat = some p)
    (hr : LineRecord.rederive s.settings { (s.port p).record with
      findings := [], pairs := .build fun q => ((s.port p).record.pairs.get q).clearFlags } = r) :
    clearFindingsCommand b s = (s.commit p r).withReply replyAccepted := by
  rw [← hr, ← State.changeFindings_of_no_edges (verdictEdges_of_no_findings _ _ rfl), clearFindingsCommand, hb]

end

/-- Settles O50: RETIRE by its index, and CLEAR-FINDINGS, which leaves no finding that could give an edge. -/
theorem findingsAreRetiredAndCleared : Obligations.FindingsAreRetiredAndCleared := by
  refine ⟨rfl, fun b i extra s h hpage => ⟨fun hb => ?_, fun hb => ?_, fun p hb => ⟨fun hi => ?_, fun hi => ?_, ?_⟩⟩⟩
  · exact exec_retire h hpage extra (retireCommand_of_bad_port (portOf?_none hb) i _)
  · exact exec_clearFindings h hpage extra (clearFindingsCommand_of_bad_port (portOf?_none hb) _)
  · exact exec_retire h hpage extra (retireCommand_of_no_finding (portOf?_eq_of_val hb) hi)
  · intro r edges
    have hedges : verdictEdges (s.port p).record r = edges := verdictEdges_eq _ r
    rw [← hedges]
    exact exec_retire h hpage extra
      (retireCommand_of_finding (s := { s with transfer := none }) (portOf?_eq_of_val hb) hi rfl)
  · exact exec_clearFindings h hpage extra (clearFindingsCommand_of_port (portOf?_eq_of_val hb) rfl)

end Sys2Proof.Machine

end

section

namespace Sys2Proof.Machine

-- One theorem at a time, as above.
set_option deprecated.oldSectionVars true

/-! ## A stable sort and a filter -/

section

variable {α : Type} {le : α → α → Bool}

theorem insertSorted_of_first {x : α} {l : List α} (h : ∀ y ∈ l, le x y = true) : insertSorted le x l = x :: l := by
  cases l with
  | nil => rfl
  | cons y ys => exact if_pos (h y List.mem_cons_self)

theorem sortList_of_sorted {l : List α} (h : l.Pairwise fun x y => le x y = true) : sortList le l = l := by
  induction l with
  | nil => rfl
  | cons x xs ih =>
    obtain ⟨hx, hxs⟩ := List.pairwise_cons.1 h
    rw [sortList, ih hxs, insertSorted_of_first hx]

variable (trans : ∀ x y z, le x y = true → le y z = true → le x z = true) (P : α → Bool)

include trans

theorem insertSorted_filter {x : α} {l : List α} (h : l.Pairwise fun x y => le x y = true) :
    (insertSorted le x l).filter P = if P x then insertSorted le x (l.filter P) else l.filter P := by
  induction l with
  | nil => simp [insertSorted, List.filter_cons]
  | cons y ys ih =>
    obtain ⟨hy, hys⟩ := List.pairwise_cons.1 h
    rw [insertSorted]
    by_cases hle : le x y = true
    · rw [if_pos hle, List.filter_cons]
      have hfirst : ∀ z ∈ (y :: ys).filter P, le x z = true := fun z hz =>
        (List.mem_cons.1 (List.mem_of_mem_filter hz)).elim (fun he => he ▸ hle) fun hz => trans x y z hle (hy z hz)
      rw [insertSorted_of_first hfirst]
    · rw [if_neg hle, List.filter_cons, List.filter_cons, ih hys]
      by_cases hP : P y = true
      · simp only [hP, if_true, insertSorted, if_neg hle]
        split <;> rfl
      · simp only [hP, Bool.false_eq_true, if_false]

/-- What a sort keeps of some entries is their own sort. -/
theorem sortList_filter (total : ∀ x y, le x y = true ∨ le y x = true) (l : List α) :
    (sortList le l).filter P = sortList le (l.filter P) := by
  induction l with
  | nil => rfl
  | cons x xs ih =>
    rw [sortList, insertSorted_filter trans P (sortList_sorted total trans xs), ih, List.filter_cons]
    split <;> rfl

end

/-- Sorting leaves the findings of a pair as they are where they stand in order already. -/
theorem sortFindings_filter {P : Finding → Bool} {l m : List Finding} (h : l.filter P = m.filter P)
    (hm : m.Pairwise fun f g => keyLe f.key g.key = true) : (sortFindings l).filter P = m.filter P := by
  have hfilter := sortList_filter (le := fun x y : Finding => keyLe x.key y.key) (fun _ _ _ => keyLe_trans) P
    (fun _ _ => keyLe_total _ _) l
  exact hfilter.trans ((congrArg _ h).trans (sortList_of_sorted (hm.sublist List.filter_sublist)))

/-! ## What a covered pair adds (R115 to R117) -/

theorem PerPair.get_set {α : Type} (v : PerPair α) (q k : Pair) (x : α) :
    (v.set q x).get k = if k = q then x else v.get k := by
  cases q <;> cases k <;> rfl

/-- The findings a covered pair comes to: of those it keeps the ones that make no room, and new ones of its first
unmatched results. -/
def PairWork.Adds (w : PairWork) (added : List Finding) : Prop :=
  ∃ room n, room.Sublist w.kept ∧ added = room ++ (w.fresh.take n).map (Result.newFinding w.pair)

theorem PairWork.Adds.pair {w : PairWork} {added : List Finding} (h : w.Adds added)
    (hkept : ∀ f ∈ w.kept, f.pair = w.pair) : ∀ f ∈ added, f.pair = w.pair := by
  obtain ⟨room, n, hroom, rfl⟩ := h
  intro f hf
  rcases List.mem_append.1 hf with hf | hf
  · exact hkept f (hroom.subset hf)
  · obtain ⟨x, -, rfl⟩ := List.mem_map.1 hf
    rfl

/-- A covered pair is probed, with its run's MORE flag, and TRUNCATED only where the pool has run out. -/
def Adding.Flags (acc : Adding) (w : PairWork) : Prop :=
  (acc.pairs.get w.pair).probed = true ∧ (acc.pairs.get w.pair).more = w.more
    ∧ ((acc.pairs.get w.pair).truncated = true → acc.exhausted = true)

section

variable {w : PairWork} {works : List PairWork} {q : Pair}

theorem addPair_findings (acc : Adding) (w : PairWork) :
    ∃ added, w.Adds added ∧ (addPair acc w).findings = acc.findings ++ added := by
  unfold addPair
  extract_lets room free n
  have hroom : room.Sublist w.kept := by
    unfold room
    split
    · exact .refl _
    · exact makeRoom_sublist _ _
  exact ⟨_, ⟨room, n, hroom, rfl⟩, List.append_assoc _ _ _⟩

theorem addPair_flags (acc : Adding) (w : PairWork) : (addPair acc w).Flags w := by
  have hget : (addPair acc w).pairs.get w.pair = _ := (PerPair.get_set _ _ _ _).trans (if_pos rfl)
  rw [Adding.Flags, hget]
  exact ⟨rfl, rfl, fun h => (congrArg (acc.exhausted || ·) h).trans (Bool.or_true _)⟩

theorem addPair_exhausted {acc : Adding} (h : acc.exhausted = true) (w : PairWork) :
    (addPair acc w).exhausted = true :=
  (congrArg (· || _) h).trans (Bool.true_or _)

theorem foldl_addPair_exhausted {acc : Adding} (h : acc.exhausted = true) :
    (works.foldl addPair acc).exhausted = true := by
  induction works generalizing acc with
  | nil => exact h
  | cons w works ih => exact ih (addPair_exhausted h w)

/-- Another pair's turn leaves a pair's findings and flags. -/
theorem foldl_addPair_elsewhere (hkept : ∀ w ∈ works, ∀ f ∈ w.kept, f.pair = w.pair) (hq : ∀ w ∈ works, w.pair ≠ q)
    (acc : Adding) :
    (works.foldl addPair acc).findings.filter (fun f => decide (f.pair = q))
        = acc.findings.filter (fun f => decide (f.pair = q))
      ∧ (works.foldl addPair acc).pairs.get q = acc.pairs.get q := by
  induction works generalizing acc with
  | nil => exact ⟨rfl, rfl⟩
  | cons w works ih =>
    obtain ⟨hw, hworks⟩ := List.forall_mem_cons.1 hq
    obtain ⟨hkw, hkworks⟩ := List.forall_mem_cons.1 hkept
    obtain ⟨hfindings, hpairs⟩ := ih hkworks hworks (addPair acc w)
    obtain ⟨added, hadds, hadd⟩ := addPair_findings acc w
    have hnone : added.filter (fun f => decide (f.pair = q)) = [] :=
      List.filter_eq_nil_iff.2 fun f hf => by simpa [hadds.pair hkw f hf] using hw
    refine ⟨hfindings.trans ?_, hpairs.trans ?_⟩
    · rw [hadd, List.filter_append, hnone, List.append_nil]
    · rw [addPair, PerPair.get_set, if_neg hw.symm]

/-- The turn of a covered pair gives it its findings and flags. -/
theorem foldl_addPair_turn (hkept : ∀ w ∈ works, ∀ f ∈ w.kept, f.pair = w.pair)
    (hnodup : (works.map (·.pair)).Nodup) (hw : w ∈ works) (acc : Adding) :
    (∃ added, w.Adds added ∧ (works.foldl addPair acc).findings.filter (fun f => decide (f.pair = w.pair))
        = acc.findings.filter (fun f => decide (f.pair = w.pair)) ++ added)
      ∧ (works.foldl addPair acc).Flags w := by
  obtain ⟨before, after, rfl⟩ := List.append_of_mem hw
  rw [List.map_append, List.map_cons, List.nodup_append, List.nodup_cons] at hnodup
  obtain ⟨-, ⟨hafter, -⟩, hbefore⟩ := hnodup
  obtain ⟨hfirst, -⟩ := foldl_addPair_elsewhere (q := w.pair) (fun v hv => hkept v (by simp [hv]))
    (fun v hv => hbefore _ (List.mem_map_of_mem hv) _ List.mem_cons_self) acc
  have helse := foldl_addPair_elsewhere (q := w.pair) (fun v hv => hkept v (by simp [hv]))
    (fun v hv he => hafter (he ▸ List.mem_map_of_mem hv))
  rw [List.foldl_append, List.foldl_cons]
  generalize before.foldl addPair acc = turn at hfirst ⊢
  obtain ⟨hlast, hpairs⟩ := helse (addPair turn w)
  obtain ⟨added, hadds, hadd⟩ := addPair_findings turn w
  refine ⟨⟨added, hadds, ?_⟩, ?_⟩
  · have hmine : added.filter (fun f => decide (f.pair = w.pair)) = added :=
      List.filter_eq_self.2 fun f hf => by simpa using hadds.pair (hkept w hw) f hf
    rw [hlast, hadd, List.filter_append, hfirst, hmine]
  · obtain ⟨hprobed, hmore, htruncated⟩ := addPair_flags turn w
    rw [Adding.Flags, hpairs]
    exact ⟨hprobed, hmore, fun h => foldl_addPair_exhausted (htruncated h)⟩

end

end Sys2Proof.Machine

end

section

namespace Sys2Proof.Machine

-- One theorem at a time, as above.
set_option deprecated.oldSectionVars true

/-! ## A reconciliation, pair by pair (R110, R115 to R117, R119) -/

/-! ### Verdicts derived twice -/

section

variable (set : Settings) (findings : List Finding) (skew : Option Nat) (q : Pair) (acc : PairAccount)

/-- A derivation writes a verdict, a reason and a fault distance. -/
theorem deriveAccount_writes :
    ∃ v r d, deriveAccount set findings skew q acc = { acc with verdict := v, reason := r, faultDistance := d } := by
  unfold deriveAccount
  dsimp only
  split
  · exact ⟨_, _, _, rfl⟩
  · split
    · exact ⟨_, _, _, rfl⟩
    · split_ifs <;> exact ⟨_, _, _, rfl⟩

theorem deriveAccount_flags :
    let x := deriveAccount set findings skew q acc
    x.probed = acc.probed ∧ x.more = acc.more ∧ x.truncated = acc.truncated := by
  obtain ⟨v, r, d, h⟩ := deriveAccount_writes set findings skew q acc
  rw [h]
  exact ⟨rfl, rfl, rfl⟩

/-- A derivation does not read what it writes. -/
theorem deriveAccount_again :
    deriveAccount set findings skew q (deriveAccount set findings skew q acc)
      = deriveAccount set findings skew q acc := by
  obtain ⟨v, r, d, h⟩ := deriveAccount_writes set findings skew q acc
  rw [h]
  exact h

end

/-! ### The covered pairs -/

theorem Pair.mem_all (q : Pair) : q ∈ Pair.all := by
  cases q <;> decide

/-- Of several results of a pair the first are covered. -/
theorem mem_coveredResults_of_first {before after : List PairResult} {x : PairResult}
    (h : ∀ y ∈ before, y.pair ≠ x.pair) : x ∈ coveredResults (before ++ x :: after) := by
  refine List.mem_filterMap.2 ⟨x.pair, Pair.mem_all _, List.find?_eq_some_iff_append.2 ?_⟩
  exact ⟨by simp, before, after, rfl, by simpa using h⟩

theorem exists_mem_coveredResults {completed : List PairResult} {q : Pair} (h : ∃ x ∈ completed, x.pair = q) :
    ∃ x ∈ coveredResults completed, x.pair = q := by
  obtain ⟨x, hx⟩ : ∃ x, completed.find? (fun x => decide (x.pair = q)) = some x :=
    Option.isSome_iff_exists.1 (List.find?_isSome.2 (by simpa using h))
  exact ⟨x, List.mem_filterMap.2 ⟨q, Pair.mem_all _, hx⟩, by simpa using List.find?_some hx⟩

theorem filter_uncovered {covered : List PairResult} {q : Pair} (h : ∀ x ∈ covered, x.pair ≠ q) (l : List Finding) :
    (uncoveredFindings covered l).filter (fun f => decide (f.pair = q)) = l.filter fun f => decide (f.pair = q) := by
  rw [uncoveredFindings, List.filter_filter]
  refine List.filter_congr fun f _ => ?_
  by_cases hf : f.pair = q
  · simpa [hf] using h
  · simp [hf]

theorem Run.mem_covered {r : Run} {x : PairResult} :
    x ∈ r.covered ↔ x ∈ r.completed ∧ r.skipped.getLsbD x.pair.index = false := by
  rw [Run.covered, List.mem_filter, Bool.not_eq_true', pairIn]

section

variable (s : State) (p : Port) (completed : List PairResult)

/-- The works of the covered pairs, in their order. -/
def State.works : List PairWork :=
  (coveredResults completed).map (matchPair s.settings s.templates p (s.port p).record.findings)

theorem State.works_kept : ∀ w ∈ s.works p completed, ∀ f ∈ w.kept, f.pair = w.pair := by
  intro w hw f hf
  obtain ⟨x, -, rfl⟩ := List.mem_map.1 hw
  exact matchPair_pair _ _ _ _ _ hf

theorem State.works_pairs : (s.works p completed).map (·.pair) = (coveredResults completed).map (·.pair) := by
  rw [State.works, List.map_map]
  rfl

theorem State.works_nodup : ((s.works p completed).map (·.pair)).Nodup := by
  rw [State.works_pairs]
  exact coveredResults_nodup completed

/-- The reconciliation starts with the findings of the pairs that are not covered. -/
theorem State.reconciled_of_others {others : List Finding}
    (h : others = uncoveredFindings (coveredResults completed) (s.port p).record.findings) :
    (s.works p completed).foldl addPair
      { free := poolFree s + (s.port p).record.findings.length
          - (others.length + ((s.works p completed).map fun w => w.kept.length).sum)
        exhausted := false, findings := others, pairs := (s.port p).record.pairs } = s.reconciled p completed := by
  rw [h]
  rfl

/-- A pair that no result is of keeps its findings and flags. -/
theorem State.reconciled_elsewhere {q : Pair} (h : ∀ x ∈ completed, x.pair ≠ q) :
    (s.reconciled p completed).findings.filter (fun f => decide (f.pair = q))
        = (s.port p).record.findings.filter (fun f => decide (f.pair = q))
      ∧ (s.reconciled p completed).pairs.get q = (s.port p).record.pairs.get q := by
  have hcovered : ∀ x ∈ coveredResults completed, x.pair ≠ q := fun x hx => h x (mem_coveredResults hx)
  have hworks : ∀ w ∈ s.works p completed, w.pair ≠ q := by
    intro w hw
    obtain ⟨x, hx, rfl⟩ := List.mem_map.1 hw
    exact hcovered x hx
  rw [← s.reconciled_of_others p completed rfl]
  obtain ⟨hfindings, hpairs⟩ := foldl_addPair_elsewhere (s.works_kept p completed) hworks _
  exact ⟨hfindings.trans (filter_uncovered hcovered _), hpairs⟩

variable {completed} {x : PairResult}

/-- A covered pair has the findings and the flags of its turn. -/
theorem State.reconciled_turn (hx : x ∈ coveredResults completed) :
    (∃ added, (matchPair s.settings s.templates p (s.port p).record.findings x).Adds added
      ∧ (s.reconciled p completed).findings.filter (fun f => decide (f.pair = x.pair)) = added)
    ∧ (s.reconciled p completed).Flags (matchPair s.settings s.templates p (s.port p).record.findings x) := by
  have hnone : (uncoveredFindings (coveredResults completed) (s.port p).record.findings).filter
      (fun f => decide (f.pair = x.pair)) = [] :=
    List.length_eq_zero_iff.1 (pairCount_uncovered_eq_zero (List.mem_map_of_mem hx) _)
  rw [← s.reconciled_of_others p completed rfl]
  obtain ⟨⟨added, hadds, hadd⟩, hflags⟩ :=
    foldl_addPair_turn (s.works_kept p completed) (s.works_nodup p completed) (List.mem_map_of_mem hx) _
  exact ⟨⟨added, hadds, hadd.trans ((congrArg (· ++ added) hnone).trans (List.nil_append added))⟩, hflags⟩

end

/-! ### The record a reconciliation leaves -/

theorem OnlyPort.withErrors {p : Port} {s t : State} (h : OnlyPort p s t) (slot : ErrorSlot) :
    OnlyPort p { s with errors := slot } { t with errors := slot } := by
  obtain ⟨houtside, hports⟩ := h
  exact ⟨congrArg (fun u : State => ({ u with errors := slot } : State)) houtside, hports⟩

section

variable (s : State) (p : Port) (completed : List PairResult)

/-- The record the Reconciler applies, by what its pairs come to. -/
def State.reconciledRecord (a : Adding) : LineRecord :=
  LineRecord.rederive s.settings { (s.port p).record with findings := sortFindings a.findings, pairs := a.pairs }

/-- A reconciliation applies its record, and reports POOL-EXHAUSTED once where the pool ran out. -/
theorem State.reconcile_of_eq {a : Adding} (ha : a = s.reconciled p completed) :
    s.reconcile p completed =
      if a.exhausted then (s.commit p (s.reconciledRecord p a)).report .poolExhausted .event (some p)
      else s.commit p (s.reconciledRecord p a) := by
  rw [ha]
  rfl

theorem State.reconcile_cases :
    ((s.reconciled p completed).exhausted = false
        ∧ s.reconcile p completed = s.commit p (s.reconciledRecord p (s.reconciled p completed)))
      ∨ ((s.reconciled p completed).exhausted = true
        ∧ s.reconcile p completed
          = (s.commit p (s.reconciledRecord p (s.reconciled p completed))).report .poolExhausted .event (some p)) := by
  rw [s.reconcile_of_eq p completed rfl]
  cases (s.reconciled p completed).exhausted with
  | false => exact .inl ⟨rfl, rfl⟩
  | true => exact .inr ⟨rfl, rfl⟩

theorem State.reconcile_port (q : Port) :
    (s.reconcile p completed).port q = (s.commit p (s.reconciledRecord p (s.reconciled p completed))).port q := by
  rcases s.reconcile_cases p completed with ⟨-, h⟩ | ⟨-, h⟩ <;> rw [h]
  rfl

/-- A reconciliation changes no more of its port than its record and its place in the change set. -/
theorem State.reconcile_port_eq :
    (s.reconcile p completed).port p =
      { s.port p with
        record := ((s.reconcile p completed).port p).record
        inChangeSet := ((s.reconcile p completed).port p).inChangeSet } := by
  rw [State.reconcile_port]
  exact State.commit_port s p _

/-- The Error Slot takes POOL-EXHAUSTED exactly where the pool ran out. -/
theorem State.reconcile_errors :
    (s.reconcile p completed).errors =
      if (s.reconciled p completed).exhausted then s.errors.take .poolExhausted .event (some p) else s.errors := by
  have hcommit : (s.commit p (s.reconciledRecord p (s.reconciled p completed))).errors = s.errors :=
    (State.commit_onlyPort s p _).1.errors
  rcases s.reconcile_cases p completed with ⟨hx, h⟩ | ⟨hx, h⟩ <;> rw [h, hx]
  · exact hcommit
  · exact congrArg (fun slot => ErrorSlot.take slot .poolExhausted .event (some p)) hcommit

theorem State.reconcile_onlyPort :
    OnlyPort p { s with errors := (s.reconcile p completed).errors } (s.reconcile p completed) := by
  have hcommit := State.commit_onlyPort s p (s.reconciledRecord p (s.reconciled p completed))
  rcases s.reconcile_cases p completed with ⟨-, h⟩ | ⟨-, h⟩ <;> rw [h]
  · exact hcommit.withErrors _
  · exact hcommit.withErrors _

/-- What a reconciliation makes of its port's record. -/
theorem State.reconcile_record :
    let r := ((s.reconcile p completed).port p).record
    r.findings = sortFindings (s.reconciled p completed).findings ∧ r.tc = (s.port p).record.tc
      ∧ (∀ q, r.pairs.get q = deriveAccount s.settings r.findings (r.tc.skew.get q) q
          ((s.reconciled p completed).pairs.get q))
      ∧ r.ceiling = ceilingOf r.verdicts := by
  intro r
  have hr : r = ((s.commit p (s.reconciledRecord p (s.reconciled p completed))).port p).record :=
    congrArg PortState.record (s.reconcile_port p completed p)
  obtain ⟨-, -, -, hfindings, hceiling, hpairs, -⟩ :=
    State.commit_rest s p (s.reconciledRecord p (s.reconciled p completed))
  obtain ⟨htc, -⟩ := State.commit_writers s p (s.reconciledRecord p (s.reconciled p completed))
  rw [← hr] at hfindings hceiling hpairs htc
  refine ⟨hfindings, htc, fun q => ?_, ?_⟩
  · rw [hfindings, htc, hpairs]
    exact PerPair.get_build _ q
  · rw [hceiling, LineRecord.verdicts, hpairs]
    rfl

/-- The flags are those the pairs' turns have given. -/
theorem State.reconcile_flags (q : Pair) :
    let x := ((s.reconcile p completed).port p).record.pairs.get q
    let y := (s.reconciled p completed).pairs.get q
    x.probed = y.probed ∧ x.more = y.more ∧ x.truncated = y.truncated := by
  obtain ⟨-, -, hpairs, -⟩ := s.reconcile_record p completed
  dsimp only
  rw [hpairs q]
  exact deriveAccount_flags _ _ _ _ _

/-- A pair that no result is of keeps its findings and flags, where the list stood in order. -/
theorem State.reconcile_elsewhere {q : Pair}
    (hsorted : (s.port p).record.findings.Pairwise fun f g => keyLe f.key g.key = true)
    (hq : ∀ x ∈ completed, x.pair ≠ q) :
    let r := ((s.reconcile p completed).port p).record
    let old := (s.port p).record
    (r.findings.filter fun f => decide (f.pair = q)) = old.findings.filter (fun f => decide (f.pair = q))
      ∧ (r.pairs.get q).probed = (old.pairs.get q).probed ∧ (r.pairs.get q).more = (old.pairs.get q).more
      ∧ (r.pairs.get q).truncated = (old.pairs.get q).truncated := by
  intro r old
  obtain ⟨hfindings, -⟩ := s.reconcile_record p completed
  obtain ⟨hfilter, hget⟩ := s.reconciled_elsewhere p completed hq
  have hflags := s.reconcile_flags p completed q
  rw [hget] at hflags
  exact ⟨(congrArg _ hfindings).trans (sortFindings_filter hfilter hsorted), hflags⟩

end

/-! ### One covered pair in the words of the statement (R115 to R117) -/

section

variable {acc : Adding} {w : PairWork}

theorem addPair_of_exhausted (h : acc.exhausted = true) :
    addPair acc w =
      { free := acc.free, exhausted := true
        findings := acc.findings ++ w.kept ++ (w.fresh.take 0).map (Result.newFinding w.pair)
        pairs := acc.pairs.set w.pair
          { acc.pairs.get w.pair with probed := true, more := w.more, truncated := decide (0 < w.fresh.length) } } := by
  simp only [addPair, h, if_true, Bool.true_or, Nat.sub_self, Nat.add_zero, Nat.sub_zero]

/-- While the pool lasts a covered pair takes an entry for each result, or all that are free. -/
theorem addPair_of_not_exhausted {room : List Finding} {free n : Nat} (h : acc.exhausted = false)
    (hroom : room = makeRoom (w.kept.length + w.fresh.length - 4) w.kept)
    (hfree : free = acc.free + (w.kept.length - room.length)) (hn : n = min w.fresh.length free) :
    addPair acc w =
      { free := free - n, exhausted := decide (n < w.fresh.length)
        findings := acc.findings ++ room ++ (w.fresh.take n).map (Result.newFinding w.pair)
        pairs := acc.pairs.set w.pair
          { acc.pairs.get w.pair with probed := true, more := w.more, truncated := decide (n < w.fresh.length) } } := by
  subst hn hfree hroom
  simp only [addPair, h, Bool.false_eq_true, if_false, Bool.false_or, Config.findingsPerPair]

end

theorem uncoveredFindings_eq (covered : List PairResult) (l : List Finding) :
    (l.filter fun f => covered.all fun x => decide (x.pair ≠ f.pair)) = uncoveredFindings covered l := by
  refine List.filter_congr fun f _ => ?_
  rw [List.not_any_eq_all_not]
  simp only [decide_not]

/-- A test that asks besides for what holds keeps the same entries. (As Lean reads the statement, the kept flags of a
pair stand within the test of a filter; `State.reconcile_elsewhere` says them outright.) -/
theorem filter_and_of_true {α : Type} {P : α → Bool} {A : Prop} [Decidable A] (h : A) (l : List α) :
    (l.filter fun x => decide (P x = true ∧ A)) = l.filter P :=
  List.filter_congr fun x _ => by rw [decide_eq_decide.2 (and_iff_left h), Bool.decide_coe]

/-- Settles O51: the covered pairs' turns give their findings and flags, and the record is derived again from them. -/
theorem reconciliationCoversTheRunsPairs : Obligations.ReconciliationCoversTheRunsPairs := by
  refine ⟨fun r x => Run.mem_covered, fun p results s hsorted => ?_, fun p results s => ?_, fun a w => ?_,
    fun n l => ?_⟩
  · intro t r covers
    obtain ⟨-, -, hpairs, hceiling⟩ := s.reconcile_record p results
    have hflags := s.reconcile_flags p results
    have herrors := s.reconcile_errors p results
    refine ⟨s.reconcile_onlyPort p results, ?_, fun q hq => ?_, fun x hx => ?_, ?_, fun q => ?_, hceiling⟩
    · exact s.reconcile_port_eq p results
    · obtain ⟨hkept, hflags⟩ := s.reconcile_elsewhere p results hsorted hq
      exact hkept.trans (filter_and_of_true hflags _).symm
    · obtain ⟨before, after, rfl, hfirst⟩ := hx
      obtain ⟨-, hprobed, hmore, htruncated⟩ :=
        s.reconciled_turn p (mem_coveredResults_of_first (after := after) hfirst)
      obtain ⟨hp, hm, ht⟩ := hflags x.pair
      refine ⟨hp.trans hprobed, hm.trans hmore, fun h => ?_⟩
      exact herrors.trans (if_pos (htruncated (ht.symm.trans h)))
    · rw [herrors]
      split
      · exact .inr rfl
      · exact .inl rfl
    · rw [hpairs q, deriveAccount_again]
  · exact ⟨s.reconcile_of_eq p results (s.reconciled_of_others p results (uncoveredFindings_eq _ _)),
      sortFindings_perm _, sortFindings_sorted _⟩
  · intro roomy new leaves free
    refine ⟨addPair_of_exhausted, fun h hle => ?_, fun h hlt => ?_⟩
    · refine (addPair_of_not_exhausted h rfl rfl (Nat.min_eq_left hle).symm).trans ?_
      rw [decide_eq_false (Nat.lt_irrefl _)]
      rfl
    · refine (addPair_of_not_exhausted h rfl rfl (Nat.min_eq_right hlt.le).symm).trans ?_
      rw [decide_eq_true hlt, Nat.sub_self]
      rfl
  · refine ⟨rfl, makeRoom_none n, ?_⟩
    rintro before f after rfl hf hafter
    exact makeRoom_some n hf hafter

end Sys2Proof.Machine

end

section

namespace Sys2Proof.Machine

-- One theorem at a time, as above.
set_option deprecated.oldSectionVars true

/-! ## The matching of a covered pair (R108, R111 to R114) -/

/-! ### Identity and distance (R108) -/

/-- Two identities with their distances are no duplicates: of one identity they lie farther apart than the tolerance. -/
def Apart (tolerance : Nat) (a b : Kind × Nat) : Prop :=
  a.1 = b.1 → a.2 + tolerance < b.2 ∨ b.2 + tolerance < a.2

/-- The identity of a finding and its distance. -/
def Finding.place (f : Finding) : Kind × Nat := (f.kind, f.distance)

/-- The identity of a result and its distance. -/
def Result.place (x : Result) : Kind × Nat := (x.kind, x.distance)

section

variable {tolerance : Nat}

theorem Apart.symm {a b : Kind × Nat} (h : Apart tolerance a b) : Apart tolerance b a := fun he => (h he.symm).symm

theorem apart_iff {k l : Kind} {a b : Nat} :
    (decide (k = l) && within tolerance a b) = false ↔ Apart tolerance (k, a) (l, b) := by
  rw [← Bool.not_eq_true, Bool.and_eq_true, decide_eq_true_iff, within_iff, Apart]
  dsimp only
  rw [not_and, not_and_or, not_le, not_le, or_comm]

theorem duplicates_eq_false_iff {f g : Finding} :
    duplicates tolerance f g = false ↔ Apart tolerance f.place g.place := apart_iff

theorem duplicates_iff {f g : Finding} :
    duplicates tolerance f g = true
      ↔ f.kind = g.kind ∧ f.distance ≤ g.distance + tolerance ∧ g.distance ≤ f.distance + tolerance := by
  rw [duplicates, Bool.and_eq_true, decide_eq_true_iff, within_iff]

theorem duplicates_eq_false_iff_not {f g : Finding} :
    duplicates tolerance f g = false
      ↔ ¬ (f.kind = g.kind ∧ f.distance ≤ g.distance + tolerance ∧ g.distance ≤ f.distance + tolerance) := by
  rw [← duplicates_iff, Bool.not_eq_true]

/-! ### Compaction and collapse leave no duplicates (R112) -/

/-- Where a compaction is made in a list: among the rest, where the head has no partner, or at the head. -/
theorem compactOnce_cons (f : Finding) (rest : List Finding) :
    ((∀ g ∈ rest, duplicates tolerance f g = false)
        ∧ compactOnce tolerance (f :: rest) = (compactOnce tolerance rest).map (f :: ·))
      ∨ ∃ i, i < rest.length ∧ (compactOnce tolerance (f :: rest) = some rest
        ∨ compactOnce tolerance (f :: rest) = some (f :: rest.eraseIdx i)) := by
  rw [compactOnce]
  cases hfind : rest.findIdx? (duplicates tolerance f) with
  | none => exact .inl ⟨List.findIdx?_eq_none_iff.1 hfind, rfl⟩
  | some i =>
    obtain ⟨hi, -⟩ := List.findIdx?_eq_some_iff_getElem.1 hfind
    refine .inr ⟨i, hi, ?_⟩
    simp only [List.getElem?_eq_getElem hi]
    split
    · exact .inl rfl
    · exact .inr rfl

theorem apart_of_compactOnce_none {l : List Finding} (h : compactOnce tolerance l = none) :
    l.Pairwise fun f g => Apart tolerance f.place g.place := by
  induction l with
  | nil => exact .nil
  | cons f rest ih =>
    rcases compactOnce_cons (tolerance := tolerance) f rest with ⟨hf, heq⟩ | ⟨i, -, heq | heq⟩
    · rw [heq, Option.map_eq_none_iff] at h
      exact List.pairwise_cons.2 ⟨fun g hg => duplicates_eq_false_iff.1 (hf g hg), ih h⟩
    · simp [heq] at h
    · simp [heq] at h

theorem length_of_compactOnce_some {l l' : List Finding} (h : compactOnce tolerance l = some l') :
    l'.length + 1 = l.length := by
  induction l generalizing l' with
  | nil => cases h
  | cons f rest ih =>
    rcases compactOnce_cons (tolerance := tolerance) f rest with ⟨-, heq⟩ | ⟨i, hi, heq | heq⟩ <;> rw [heq] at h
    · obtain ⟨m, hm, rfl⟩ := Option.map_eq_some_iff.1 h
      simpa using ih hm
    · cases h
      rfl
    · cases h
      rw [List.length_cons, List.length_cons, List.length_eraseIdx_add_one hi]

/-- A list is compacted to the end by as many compactions as it has findings. -/
theorem compactFindings_apart {n : Nat} {l : List Finding} (hn : l.length ≤ n) :
    (compactFindings tolerance n l).Pairwise fun f g => Apart tolerance f.place g.place := by
  induction n generalizing l with
  | zero =>
    obtain rfl := List.length_eq_zero_iff.1 (Nat.le_zero.1 hn)
    exact .nil
  | succ n ih =>
    rw [compactFindings]
    cases h : compactOnce tolerance l with
    | none => exact apart_of_compactOnce_none h
    | some l' =>
      rw [← length_of_compactOnce_some h] at hn
      exact ih (Nat.le_of_succ_le_succ hn)

theorem compactFindings_of_none {l : List Finding} (h : compactOnce tolerance l = none) (n : Nat) :
    compactFindings tolerance n l = l := by
  cases n with
  | zero => rfl
  | succ n => rw [compactFindings, h]

theorem compactFindings_of_some {l l' : List Finding} (h : compactOnce tolerance l = some l') (n : Nat) :
    compactFindings tolerance (n + 1) l = compactFindings tolerance n l' := by
  rw [compactFindings, h]

theorem collapseResults_apart (l : List Result) :
    (collapseResults tolerance l).Pairwise fun x y => Apart tolerance x.place y.place := by
  obtain ⟨-, hpairwise, -⟩ := greedy_spec (R := fun _ _ => True)
    (conflict := fun k r : Result => decide (k.kind = r.kind) && within tolerance k.distance r.distance) l
    (List.pairwise_of_forall fun _ _ => trivial)
  exact hpairwise.imp apart_iff.1

end

/-! ### Classification (R111) -/

section

variable {templates : Vector Template 8} {p : Port} {q : Pair} {x : Result}

theorem Template.matchesAt_iff {y : Template} {d : Nat} :
    y.matchesAt p q d = true ↔ y.valid = true ∧ y.firstPort ≤ p.val ∧ p.val ≤ y.lastPort
      ∧ y.pairs.getLsbD q.index = true ∧ y.low ≤ d ∧ d ≤ y.high := by
  simp only [Template.matchesAt, pairIn, Bool.and_eq_true, decide_eq_true_eq, and_assoc]

theorem mem_allTemplates (k : TemplateId) : k ∈ allTemplates := by
  revert k
  decide

/-- A HIGH-Z or LOW-Z result, by the template that is found for it. -/
theorem classifyResult_of_found {found : Option TemplateId} (h : x.kind = .highZ ∨ x.kind = .lowZ)
    (hfound : (allTemplates.find? fun t => (templates[t]).matchesAt p q x.distance) = found) :
    classifyResult templates p q x = found.elim x fun k => { x with kind := .expected k } := by
  cases found with
  | none => rcases h with h | h <;> simp only [classifyResult, h, hfound, Option.elim_none]
  | some k => rcases h with h | h <;> simp only [classifyResult, h, hfound, Option.elim_some]

theorem classifyResult_of_other (h : x.kind ≠ .highZ ∧ x.kind ≠ .lowZ) : classifyResult templates p q x = x := by
  rw [classifyResult]
  cases hk : x.kind with
  | highZ => exact absurd hk h.1
  | lowZ => exact absurd hk h.2
  | _ => rfl

theorem classifyResult_of_template {k : TemplateId} (h : x.kind = .highZ ∨ x.kind = .lowZ)
    (hk : (templates[k]).matchesAt p q x.distance = true)
    (hfirst : ∀ j : TemplateId, j < k → ¬ (templates[j]).matchesAt p q x.distance = true) :
    classifyResult templates p q x = { x with kind := .expected k } :=
  classifyResult_of_found h
    (find_first (by decide) (mem_allTemplates k) hk fun j hj => Bool.eq_false_iff.2 (hfirst j hj))

theorem classifyResult_of_no_template (hnone : ∀ k : TemplateId, ¬ (templates[k]).matchesAt p q x.distance = true) :
    classifyResult templates p q x = x := by
  by_cases h : x.kind = .highZ ∨ x.kind = .lowZ
  · exact classifyResult_of_found h (List.find?_eq_none.2 fun k _ => hnone k)
  · exact classifyResult_of_other (not_or.1 h)

end

/-! ### The matched and the unmatched (R113, R114) -/

theorem Finding.matched_eq (f : Finding) (x : Result) :
    f.matched x = { f with
      state := .standing, runs := if f.runs < 255 then f.runs + 1 else 255, distance := x.distance
      amplitude := x.amplitude } := by
  have hruns : min 255 (f.runs + 1) = if f.runs < 255 then f.runs + 1 else 255 := by
    split
    · next h => exact Nat.min_eq_right h
    · next h => exact Nat.min_eq_left (Nat.le_succ_of_le (not_lt.1 h))
  rw [Finding.matched, hruns]

section

variable {tolerance : Nat} {matched : List Finding} {f : Finding}

theorem settleUnmatched_of_absorbed (h : matched.any (duplicates tolerance f) = true) :
    settleUnmatched tolerance matched f = none := by
  rw [settleUnmatched, if_pos h]

theorem settleUnmatched_of_fading (h : f.state = .fading) : settleUnmatched tolerance matched f = none := by
  rw [settleUnmatched, h]
  split <;> rfl

theorem settleUnmatched_fades (h : matched.any (duplicates tolerance f) = false) (hf : f.state ≠ .fading) :
    settleUnmatched tolerance matched f = some { f with state := .fading } := by
  rw [settleUnmatched, h]
  cases hs : f.state with
  | fading => exact absurd hs hf
  | _ => rfl

theorem any_duplicates_iff :
    matched.any (duplicates tolerance f) = true
      ↔ ∃ g ∈ matched, f.kind = g.kind
        ∧ f.distance ≤ g.distance + tolerance ∧ g.distance ≤ f.distance + tolerance := by
  simp only [List.any_eq_true, duplicates_iff]

/-- An unmatched finding that stays keeps its place, which no matched one is a duplicate of. -/
theorem settleUnmatched_apart {g : Finding} (h : settleUnmatched tolerance matched f = some g) :
    g.place = f.place ∧ ∀ m ∈ matched, Apart tolerance m.place g.place := by
  by_cases habsorbed : matched.any (duplicates tolerance f) = true
  · rw [settleUnmatched_of_absorbed habsorbed] at h
    cases h
  · have hnone := Bool.eq_false_iff.2 habsorbed
    by_cases hf : f.state = .fading
    · rw [settleUnmatched_of_fading hf] at h
      cases h
    · rw [settleUnmatched_fades hnone hf] at h
      cases h
      exact ⟨rfl, fun m hm =>
        (duplicates_eq_false_iff.1 (Bool.eq_false_iff.2 (List.any_eq_false.1 hnone m hm))).symm⟩

end

/-! ### The entries of a list at places that are not chosen -/

section

variable {α : Type} (chosen : Nat → Bool) (l : List α)

theorem unchosen_sublist : (l.zipIdx.filterMap fun y => if chosen y.2 then none else some y.1).Sublist l := by
  have heq : (l.zipIdx.filterMap fun y => if chosen y.2 then none else some y.1)
      = (l.zipIdx.filter fun y => !chosen y.2).map Prod.fst := by
    rw [← List.filterMap_eq_map, List.filterMap_filter]
    refine List.filterMap_congr fun y _ => ?_
    cases chosen y.2 <;> rfl
  have hsub := (List.filter_sublist (l := l.zipIdx) (p := fun y => !chosen y.2)).map Prod.fst
  rw [List.zipIdx_map_fst] at hsub
  rw [heq]
  exact hsub

theorem mem_unchosen {x : α} :
    x ∈ (l.zipIdx.filterMap fun y => if chosen y.2 then none else some y.1)
      ↔ ∃ j, l[j]? = some x ∧ chosen j = false := by
  rw [List.mem_filterMap]
  constructor
  · rintro ⟨⟨y, j⟩, hy, h⟩
    obtain ⟨hc, hx⟩ := Option.ite_none_left_eq_some.1 h
    exact ⟨j, (List.mem_zipIdx_iff_getElem?.1 hy).trans hx, Bool.eq_false_iff.2 hc⟩
  · rintro ⟨j, hx, hc⟩
    exact ⟨⟨x, j⟩, List.mem_zipIdx_iff_getElem?.2 hx, Option.ite_none_left_eq_some.2 ⟨Bool.eq_false_iff.1 hc, rfl⟩⟩

end

/-! ### Pairings made (R113) -/

section

variable {tolerance : Nat} {fs : List Finding} {rs : List Result}

theorem makePairings_valid {y : Pairing} (hy : y ∈ makePairings tolerance fs rs) :
    ∃ f x, fs[y.finding]? = some f ∧ rs[y.result]? = some x ∧ f.kind = x.kind := by
  obtain ⟨hmade, -⟩ := makePairings_spec tolerance fs rs
  obtain ⟨f, x, hf, hx, hkind, -⟩ := mem_candidatePairings.1 (hmade y hy)
  exact ⟨f, x, hf, hx, hkind⟩

/-- Pairings of two findings are of two results. -/
theorem makePairings_result_ne {y z : Pairing} (hy : y ∈ makePairings tolerance fs rs)
    (hz : z ∈ makePairings tolerance fs rs) (h : y.finding ≠ z.finding) : y.result ≠ z.result := by
  obtain ⟨-, hpairwise, -⟩ := makePairings_spec tolerance fs rs
  have hnodup : ((makePairings tolerance fs rs).map (·.result)).Nodup := List.pairwise_map.2 (hpairwise.imp And.right)
  exact fun he => h (congrArg Pairing.finding (List.inj_on_of_nodup_map hnodup hy hz he))

/-- Of a finding and a result within the tolerance one is paired. -/
theorem makePairings_pairs_one {i j : Nat} {f : Finding} {x : Result} (hf : fs[i]? = some f) (hx : rs[j]? = some x)
    (hkind : f.kind = x.kind) (hwithin : within tolerance f.distance x.distance = true) :
    ∃ y ∈ makePairings tolerance fs rs, y.finding = i ∨ y.result = j := by
  obtain ⟨-, -, hleft⟩ := makePairings_spec tolerance fs rs
  have hcandidate : (⟨(f.distance - x.distance) + (x.distance - f.distance), i, j⟩ : Pairing)
      ∈ candidatePairings tolerance fs rs := mem_candidatePairings.2 ⟨f, x, hf, hx, hkind, hwithin, rfl⟩
  by_cases hmem : (⟨(f.distance - x.distance) + (x.distance - f.distance), i, j⟩ : Pairing)
      ∈ makePairings tolerance fs rs
  · exact ⟨_, hmem, .inl rfl⟩
  · obtain ⟨y, hy, -, hconflict⟩ := hleft _ hcandidate hmem
    exact ⟨y, hy, hconflict⟩

theorem resultFor_eq_some {made : List Pairing} {i : Nat} {x : Result} (h : resultFor made rs i = some x) :
    ∃ y ∈ made, y.finding = i ∧ rs[y.result]? = some x := by
  unfold resultFor at h
  split at h
  · next y hy => exact ⟨y, List.mem_of_find?_eq_some hy, by simpa using List.find?_some hy, h⟩
  · cases h

theorem resultFor_eq_bind (made : List Pairing) (rs : List Result) (i : Nat) :
    resultFor made rs i = (made.find? fun x => decide (x.finding = i)).bind fun x => rs[x.result]? := by
  unfold resultFor
  cases made.find? fun x => decide (x.finding = i) <;> rfl

theorem resultFor_makePairings_isSome (i : Nat) :
    (resultFor (makePairings tolerance fs rs) rs i).isSome
      = (makePairings tolerance fs rs).any fun y => decide (y.finding = i) := by
  rw [Bool.eq_iff_iff, List.any_eq_true]
  constructor
  · intro h
    obtain ⟨y, hy, hi⟩ := List.mem_map.1 (resultFor_isSome h)
    exact ⟨y, hy, decide_eq_true hi⟩
  · intro h
    obtain ⟨z, hz⟩ := Option.isSome_iff_exists.1 (List.find?_isSome.2 h)
    obtain ⟨-, x, -, hx, -⟩ := makePairings_valid (List.mem_of_find?_eq_some hz)
    rw [resultFor_eq_bind, hz, Option.bind_some, hx]
    rfl

/-! ### Matching leaves no duplicates (R108) -/

/-- A matched finding stands at the place of its result. -/
theorem matched_place {i : Nat} {f : Finding} {x : Result} (hf : fs[i]? = some f)
    (hx : resultFor (makePairings tolerance fs rs) rs i = some x) :
    ∃ y ∈ makePairings tolerance fs rs, y.finding = i ∧ rs[y.result]? = some x ∧ (f.matched x).place = x.place := by
  obtain ⟨y, hy, rfl, hresult⟩ := resultFor_eq_some hx
  obtain ⟨f', x', hf', hx', hkind⟩ := makePairings_valid hy
  obtain rfl : f = f' := Option.some.inj (hf.symm.trans hf')
  obtain rfl : x = x' := Option.some.inj (hresult.symm.trans hx')
  exact ⟨y, hy, rfl, hresult, Prod.ext hkind rfl⟩

theorem matchedFindings_place {g : Finding} (hg : g ∈ matchedFindings (makePairings tolerance fs rs) rs fs) :
    ∃ y ∈ makePairings tolerance fs rs, ∃ x, rs[y.result]? = some x ∧ g.place = x.place := by
  obtain ⟨fi, hfi, h⟩ := List.mem_filterMap.1 hg
  obtain ⟨x, hx, rfl⟩ := Option.map_eq_some_iff.1 h
  obtain ⟨y, hy, -, hresult, hplace⟩ := matched_place (List.mem_zipIdx_iff_getElem?.1 hfi) hx
  exact ⟨y, hy, x, hresult, hplace⟩

theorem apart_of_places_ne (h : rs.Pairwise fun x y => Apart tolerance x.place y.place) {i j : Nat} {x y : Result}
    (hx : rs[i]? = some x) (hy : rs[j]? = some y) (hij : i ≠ j) : Apart tolerance x.place y.place := by
  obtain ⟨hi, rfl⟩ := List.getElem?_eq_some_iff.1 hx
  obtain ⟨hj, rfl⟩ := List.getElem?_eq_some_iff.1 hy
  rcases Nat.lt_or_gt_of_ne hij with hlt | hgt
  · exact List.pairwise_iff_getElem.1 h i j hi hj hlt
  · exact (List.pairwise_iff_getElem.1 h j i hj hi hgt).symm

theorem matchedFindings_apart (h : rs.Pairwise fun x y => Apart tolerance x.place y.place) :
    (matchedFindings (makePairings tolerance fs rs) rs fs).Pairwise fun f g => Apart tolerance f.place g.place := by
  refine List.pairwise_filterMap.2 ((zipIdx_pairwise fs).imp_of_mem ?_)
  intro fi fj hfi hfj hlt f hf g hg
  obtain ⟨x, hx, rfl⟩ := Option.map_eq_some_iff.1 hf
  obtain ⟨x', hx', rfl⟩ := Option.map_eq_some_iff.1 hg
  obtain ⟨y, hy, hyi, hyx, hplace⟩ := matched_place (List.mem_zipIdx_iff_getElem?.1 hfi) hx
  obtain ⟨z, hz, hzj, hzx, hplace'⟩ := matched_place (List.mem_zipIdx_iff_getElem?.1 hfj) hx'
  rw [hplace, hplace']
  exact apart_of_places_ne h hyx hzx (makePairings_result_ne hy hz (by rw [hyi, hzj]; exact hlt.ne))

theorem settled_apart {matched fs : List Finding} (h : fs.Pairwise fun f g => Apart tolerance f.place g.place) :
    (fs.filterMap (settleUnmatched tolerance matched)).Pairwise fun f g => Apart tolerance f.place g.place := by
  refine List.pairwise_filterMap.2 (h.imp ?_)
  intro f g hfg f' hf' g' hg'
  rw [(settleUnmatched_apart hf').1, (settleUnmatched_apart hg').1]
  exact hfg

/-- An unmatched finding and an unmatched result could have been paired, were they of one identity and near. -/
theorem unmatched_apart {f : Finding} {x : Result} (hf : f ∈ unmatchedFindings (makePairings tolerance fs rs) rs fs)
    (hx : x ∈ unmatchedResults (makePairings tolerance fs rs) rs) : Apart tolerance f.place x.place := by
  obtain ⟨i, hfi, hi⟩ := (mem_unchosen (fun i => (resultFor (makePairings tolerance fs rs) rs i).isSome) fs).1 hf
  obtain ⟨j, hxj, hj⟩ :=
    (mem_unchosen (fun j => (makePairings tolerance fs rs).any fun y => decide (y.result = j)) rs).1 hx
  rw [resultFor_makePairings_isSome] at hi
  refine apart_iff.1 (Bool.eq_false_iff.2 fun hnear => ?_)
  obtain ⟨hkind, hwithin⟩ := Bool.and_eq_true_iff.1 hnear
  obtain ⟨y, hy, hpaired⟩ := makePairings_pairs_one hfi hxj (of_decide_eq_true hkind) hwithin
  rcases hpaired with h | h
  · exact List.any_eq_false.1 hi y hy (decide_eq_true h)
  · exact List.any_eq_false.1 hj y hy (decide_eq_true h)

/-- The kept findings and the new ones of a covered pair are no duplicates, pair by pair of the three kinds: matched,
settled and new. -/
theorem matched_settled_fresh_apart (hfs : fs.Pairwise fun f g => Apart tolerance f.place g.place)
    (hrs : rs.Pairwise fun x y => Apart tolerance x.place y.place) (q : Pair) :
    let made := makePairings tolerance fs rs
    let matched := matchedFindings made rs fs
    (matched ++ (unmatchedFindings made rs fs).filterMap (settleUnmatched tolerance matched)
      ++ (unmatchedResults made rs).map (Result.newFinding q)).Pairwise fun f g => Apart tolerance f.place g.place := by
  intro made matched
  have hunmatched : (unmatchedFindings made rs fs).Pairwise fun f g => Apart tolerance f.place g.place :=
    hfs.sublist (unchosen_sublist (fun i => (resultFor made rs i).isSome) fs)
  have hfresh : (unmatchedResults made rs).Pairwise fun x y => Apart tolerance x.place y.place :=
    hrs.sublist (unchosen_sublist (fun j => made.any fun y => decide (y.result = j)) rs)
  refine List.pairwise_append.2 ⟨List.pairwise_append.2 ⟨matchedFindings_apart hrs, settled_apart hunmatched, ?_⟩,
    List.pairwise_map.2 hfresh, ?_⟩
  · intro m hm g hg
    obtain ⟨f, -, hf⟩ := List.mem_filterMap.1 hg
    exact (settleUnmatched_apart hf).2 m hm
  · intro g hg g' hg'
    obtain ⟨x, hx, rfl⟩ := List.mem_map.1 hg'
    change Apart tolerance g.place x.place
    rcases List.mem_append.1 hg with hg | hg
    · obtain ⟨y, hy, x', hresult, hplace⟩ := matchedFindings_place hg
      obtain ⟨j, hxj, hj⟩ := (mem_unchosen (fun j => made.any fun y => decide (y.result = j)) rs).1 hx
      rw [hplace]
      exact apart_of_places_ne hrs hresult hxj fun h => List.any_eq_false.1 hj y hy (decide_eq_true h)
    · obtain ⟨f, hf, hsettled⟩ := List.mem_filterMap.1 hg
      rw [(settleUnmatched_apart hsettled).1]
      exact unmatched_apart hf hx

end

/-! ### One covered pair, and the reconciliation -/

section

variable (set : Settings) (templates : Vector Template 8) (p : Port) (findings : List Finding) (x : PairResult)

theorem matchPair_apart :
    let w := matchPair set templates p findings x
    (w.kept ++ w.fresh.map (Result.newFinding w.pair)).Pairwise fun f g => Apart set.tolerance f.place g.place := by
  have happart := matched_settled_fresh_apart (tolerance := set.tolerance)
    (compactFindings_apart (l := findings.filter fun f => decide (f.pair = x.pair)) le_rfl)
    (collapseResults_apart (x.results.map (classifyResult templates p x.pair))) x.pair
  exact (List.Perm.pairwise_iff (fun {_ _} h => h.symm) ((sortFindings_perm _).append_right _)).2 happart

theorem PairWork.Adds.apart {tolerance : Nat} {w : PairWork} {added : List Finding} (h : w.Adds added)
    (hw : (w.kept ++ w.fresh.map (Result.newFinding w.pair)).Pairwise fun f g => Apart tolerance f.place g.place) :
    added.Pairwise fun f g => Apart tolerance f.place g.place := by
  obtain ⟨room, n, hroom, rfl⟩ := h
  exact hw.sublist (hroom.append ((List.take_sublist n _).map _))

end

/-- No two findings of a covered pair are duplicates. -/
theorem State.reconcile_apart (s : State) (p : Port) {completed : List PairResult} {x : PairResult}
    (hx : x ∈ coveredResults completed) :
    (((s.reconcile p completed).port p).record.findings.filter fun f => decide (f.pair = x.pair)).Pairwise fun f g =>
      Apart s.settings.tolerance f.place g.place := by
  obtain ⟨hfindings, -⟩ := s.reconcile_record p completed
  obtain ⟨⟨added, hadds, hadded⟩, -⟩ := s.reconciled_turn p hx
  rw [hfindings]
  refine (List.Perm.pairwise_iff (fun {_ _} h => h.symm) ((sortFindings_perm _).filter _)).2 ?_
  rw [hadded]
  exact hadds.apart (matchPair_apart _ _ _ _ _)

/-! ### One covered pair in the words of the statement -/

section

variable {tolerance : Nat} {fs : List Finding} {rs : List Result}

theorem matchedFindings_eq (made : List Pairing) (rs : List Result) (fs : List Finding) :
    matchedFindings made rs fs = fs.zipIdx.filterMap fun fi =>
      (made.find? fun z => decide (z.finding = fi.2)).bind fun z => rs[z.result]?.map fi.1.matched := by
  refine List.filterMap_congr fun fi _ => ?_
  rw [resultFor_eq_bind]
  exact Option.map_bind

theorem settled_eq (matched : List Finding) :
    (unmatchedFindings (makePairings tolerance fs rs) rs fs).filterMap (settleUnmatched tolerance matched)
      = fs.zipIdx.filterMap fun fi =>
        if (makePairings tolerance fs rs).any fun z => decide (z.finding = fi.2) then none
        else settleUnmatched tolerance matched fi.1 := by
  rw [unmatchedFindings, List.filterMap_filterMap]
  refine List.filterMap_congr fun fi _ => ?_
  rw [resultFor_makePairings_isSome]
  split <;> rfl

theorem length_fresh :
    (unmatchedResults (makePairings tolerance fs rs) rs).length + (makePairings tolerance fs rs).length
      = rs.length := by
  obtain ⟨-, hpairwise, -⟩ := makePairings_spec tolerance fs rs
  refine length_unmatchedResults (List.pairwise_map.2 (hpairwise.imp And.right)) fun y hy => ?_
  obtain ⟨-, r, -, hr, -⟩ := makePairings_valid hy
  exact (List.getElem?_eq_some_iff.1 hr).1

theorem mem_fresh {made : List Pairing} {y : Result} :
    y ∈ unmatchedResults made rs ↔ ∃ j, rs[j]? = some y ∧ ∀ z ∈ made, z.result ≠ j := by
  refine (mem_unchosen (fun j => made.any fun y => decide (y.result = j)) rs).trans ?_
  simp only [List.any_eq_false, decide_eq_true_eq, ne_eq]

theorem mem_candidatePairings_iff_near {y : Pairing} :
    y ∈ candidatePairings tolerance fs rs ↔ ∃ f x, fs[y.finding]? = some f ∧ rs[y.result]? = some x ∧ f.kind = x.kind
      ∧ (f.distance ≤ x.distance + tolerance ∧ x.distance ≤ f.distance + tolerance)
      ∧ y.diff = (f.distance - x.distance) + (x.distance - f.distance) := by
  simp only [mem_candidatePairings, within_iff]

end

/-- Settles O52: a pair is compacted, collapsed and matched, and no two findings it keeps or adds are duplicates. -/
theorem reconciliationLeavesNoDuplicates : Obligations.ReconciliationLeavesNoDuplicates := by
  unfold Obligations.ReconciliationLeavesNoDuplicates
  intro near
  refine ⟨fun p completed q s hq => ?_, fun templates p q x => ?_, fun tolerance n l => ?_, fun tolerance l x => ?_,
    fun tolerance fs rs => ?_, fun tolerance matched f x => ?_, fun set templates p findings x => ?_⟩
  · obtain ⟨x, hx, rfl⟩ := exists_mem_coveredResults hq
    exact s.reconcile_apart p hx
  · intro claims
    have hclaims (k : TemplateId) : (templates[k]).matchesAt p q x.distance = true ↔ claims k := Template.matchesAt_iff
    refine ⟨fun k hkind hk hfirst => ?_, fun h => ?_⟩
    · exact classifyResult_of_template hkind ((hclaims k).2 hk) fun j hj => (hclaims j).not.2 (hfirst j hj)
    · rcases h with h | h
      · exact classifyResult_of_other h
      · exact classifyResult_of_no_template fun k => (hclaims k).not.2 (h k)
  · intro same
    have hsame {f g : Finding} : duplicates tolerance f g = false ↔ ¬ same f g := duplicates_eq_false_iff_not
    refine ⟨fun h => compactFindings_of_none (compactOnce_none (h.imp hsame.2)) n, ?_⟩
    rintro before f between g after rfl hbefore hpairwise hbetween hfg
    exact compactFindings_of_some (compactOnce_some (fun h hh k hk => hsame.2 (hbefore h hh k hk))
      (hpairwise.imp hsame.2) (fun h hh => hsame.2 (hbetween h hh)) (duplicates_iff.2 hfg)) n
  · intro kept taken
    have htaken :
        (kept.any fun k => decide (k.kind = x.kind) && within tolerance k.distance x.distance) = true ↔ taken := by
      simp only [List.any_eq_true, Bool.and_eq_true, decide_eq_true_eq, within_iff, taken, near]
    refine ⟨rfl, fun h => ?_, fun h => ?_⟩
    · exact (collapseResults_append tolerance l x).trans (if_pos (htaken.2 h))
    · exact (collapseResults_append tolerance l x).trans (if_neg (htaken.not.2 h))
  · intro made apart may first
    obtain ⟨hmade, hpairwise, hleft⟩ := makePairings_spec tolerance fs rs
    have hmay {y : Pairing} : y ∈ candidatePairings tolerance fs rs ↔ may y := mem_candidatePairings_iff_near
    exact ⟨fun y hy => hmay.1 (hmade y hy), hpairwise, fun z hz hnot => hleft z (hmay.2 hz) hnot⟩
  · intro absorbed
    have habsorbed : matched.any (duplicates tolerance f) = true ↔ absorbed := any_duplicates_iff
    refine ⟨f.matched_eq x, fun h => ?_, fun _ hf => ?_, fun h hf => ?_⟩
    · exact settleUnmatched_of_absorbed (habsorbed.2 h)
    · exact settleUnmatched_of_fading hf
    · exact settleUnmatched_fades (Bool.eq_false_iff.2 (habsorbed.not.2 h)) hf
  · intro mine fs rs made w
    refine ⟨rfl, rfl, fun y => mem_fresh, ?_, length_fresh, sortFindings_sorted _, matchedFindings made rs fs,
      (unmatchedFindings made rs fs).filterMap (settleUnmatched set.tolerance (matchedFindings made rs fs)),
      sortFindings_perm _, matchedFindings_eq made rs fs, settled_eq _⟩
    exact unchosen_sublist (fun j => made.any fun y => decide (y.result = j)) rs

end Sys2Proof.Machine

end
